-- ==== Sys2Proof/Word.lean ====
section
/-! DEFINITION. Names shared by every layer: bytes, line degrees, slot links, points, directions, job ids,
and the fixed families of four degrees and eight slot links. -/

namespace Sys2Proof

/-- One byte of a frame or a message. -/
abbrev Byte := BitVec 8

/-- A line degree, 1 to 4 (00 "Points, degrees and directions"). -/
inductive Degree
  | d1 | d2 | d3 | d4
deriving DecidableEq, Repr

/-- The four line degrees in ascending order. -/
def Degree.all : List Degree := [.d1, .d2, .d3, .d4]

/-- The number of a degree, the code of R185. -/
def Degree.toNat : Degree → Nat
  | .d1 => 1
  | .d2 => 2
  | .d3 => 3
  | .d4 => 4

/-- The degree a number names; none outside 1 to 4. -/
def Degree.ofInt (n : Int) : Option Degree :=
  if n = 1 then some .d1 else if n = 2 then some .d2 else if n = 3 then some .d3
  else if n = 4 then some .d4 else none

/-- A slot link, 1 to 8 (00 "How the part is reached"). -/
inductive Port
  | p1 | p2 | p3 | p4 | p5 | p6 | p7 | p8
deriving DecidableEq, Repr

/-- The eight slot links in port order. -/
def Port.all : List Port := [.p1, .p2, .p3, .p4, .p5, .p6, .p7, .p8]

/-- The number of a slot link. -/
def Port.toNat : Port → Nat
  | .p1 => 1
  | .p2 => 2
  | .p3 => 3
  | .p4 => 4
  | .p5 => 5
  | .p6 => 6
  | .p7 => 7
  | .p8 => 8

/-- The slot link a number names; none outside 1 to 8. -/
def Port.ofInt (n : Int) : Option Port :=
  if n = 1 then some .p1 else if n = 2 then some .p2 else if n = 3 then some .p3
  else if n = 4 then some .p4 else if n = 5 then some .p5 else if n = 6 then some .p6
  else if n = 7 then some .p7 else if n = 8 then some .p8 else none

/-- A point at a node: the local add/drop bank (written L) or a line degree. -/
inductive Point
  | bank
  | line (d : Degree)
deriving DecidableEq, Repr

/-- The direction of a leg or a turn: forward (head to tail) or reverse. -/
inductive Dir
  | fwd | rev
deriving DecidableEq, Repr

/-- The direction of a spectrum map table. -/
inductive MapDir
  | incoming | outgoing
deriving DecidableEq, Repr

/-- A job id: the head node's id and a sequence number (00 "Nodes and jobs"). -/
structure JobId where
  head : Nat
  seq  : Nat
deriving DecidableEq, Repr

/-- The order of R56 and R97: ascending head node id and, within one head, sequence number. -/
abbrev JobId.before (a b : JobId) : Prop := a.head < b.head ∨ (a.head = b.head ∧ a.seq < b.seq)

/-- One thing for each of the four degrees. -/
structure PerDegree (α : Type) where
  d1 : α
  d2 : α
  d3 : α
  d4 : α
deriving DecidableEq, Repr

/-- The same value for every degree. -/
def PerDegree.const {α : Type} (a : α) : PerDegree α := ⟨a, a, a, a⟩

def PerDegree.get {α : Type} (f : PerDegree α) : Degree → α
  | .d1 => f.d1
  | .d2 => f.d2
  | .d3 => f.d3
  | .d4 => f.d4

def PerDegree.set {α : Type} (f : PerDegree α) (d : Degree) (a : α) : PerDegree α :=
  match d with
  | .d1 => { f with d1 := a }
  | .d2 => { f with d2 := a }
  | .d3 => { f with d3 := a }
  | .d4 => { f with d4 := a }

/-- One thing for each of the eight slot links. -/
structure PerPort (α : Type) where
  p1 : α
  p2 : α
  p3 : α
  p4 : α
  p5 : α
  p6 : α
  p7 : α
  p8 : α
deriving DecidableEq, Repr

/-- The same value for every slot link. -/
def PerPort.const {α : Type} (a : α) : PerPort α := ⟨a, a, a, a, a, a, a, a⟩

def PerPort.get {α : Type} (f : PerPort α) : Port → α
  | .p1 => f.p1
  | .p2 => f.p2
  | .p3 => f.p3
  | .p4 => f.p4
  | .p5 => f.p5
  | .p6 => f.p6
  | .p7 => f.p7
  | .p8 => f.p8

def PerPort.set {α : Type} (f : PerPort α) (p : Port) (a : α) : PerPort α :=
  match p with
  | .p1 => { f with p1 := a }
  | .p2 => { f with p2 := a }
  | .p3 => { f with p3 := a }
  | .p4 => { f with p4 := a }
  | .p5 => { f with p5 := a }
  | .p6 => { f with p6 := a }
  | .p7 => { f with p7 := a }
  | .p8 => { f with p8 := a }

end Sys2Proof
end

