-- ==== Sys2Proof/Config.lean ====
section
/-! DEFINITION. What the part fixes once for all: its capacities, its fixed intervals, the permitted range and the
value after reset of every parameter (R165, R166), and the one value the manual leaves open. -/

namespace Sys2Proof.Config

/-- Slices of the grid (R1). -/
def slices : Nat := 384
/-- Job contexts (R37). -/
def maxContexts : Nat := 64
/-- Frames a transmit queue holds (R161). -/
def maxFrames : Nat := 32
/-- Notices are placed only below this length of a transmit queue (R161). -/
def noticeLimit : Nat := 24
/-- Messages an outbound queue holds (R146). -/
def maxMessages : Nat := 32
/-- Result log slots (R169). -/
def logSlots : Nat := 32
/-- Where every count saturates (00 "Counts"). -/
def countMax : Nat := 65535
/-- Step records a leg's history holds (R51). -/
def maxHistory : Nat := 8
/-- Step records a result record takes from a fail leg (R172). -/
def maxPreceding : Nat := 4
/-- Observed channels of a step (R117). -/
def maxObserved : Nat := 16
/-- Verification results a step takes (R121). -/
def maxScans : Nat := 8
/-- Period of the HELLO timer (R148). -/
def helloPeriod : Nat := 1000
/-- Spacing of monitor probes (R140). -/
def probePeriod : Nat := 1000
/-- Longest settle (R18). -/
def settleMax : Nat := 5000
/-- Longest reply body in bytes (R181). -/
def replyMax : Nat := 4000
/-- Longest frame body in bytes (R179). -/
def bodyMax : Nat := 250
/-- Saturation of a fold (R11). -/
def foldMax : Int := 4500
/-- The readings' clamp (R12, R136). -/
def readingMin : Int := -6000
def readingMax : Int := 2500

/-- The fold of an empty list of levels. R11 starts a fold "with the first element" and gives no value where there
is none; no rule asks for one. FREE VALUE (log 16): a constant with no body, so that no claim can rest on it. -/
opaque emptyFold : Int

/-- A permitted range of a numeric parameter with its value after reset (R165, R166). -/
structure Range where
  lo   : Int
  hi   : Int
  init : Int
deriving DecidableEq, Repr

def nodeId : Range := ⟨1, 65534, 1⟩
def holdTime : Range := ⟨1000, 60000, 10000⟩
def pathLimit : Range := ⟨10000, 3600000, 900000⟩
def lockWait : Range := ⟨1000, 60000, 10000⟩
def silenceLimit : Range := ⟨500, 60000, 5000⟩
def gapLimit : Range := ⟨1, 100, 5⟩
def scanTimeout : Range := ⟨50, 2000, 300⟩
def watchInterval : Range := ⟨100, 5000, 500⟩
def linkTimeout : Range := ⟨1500, 10000, 3500⟩

def stepSize : Range := ⟨25, 600, 300⟩
def probeDepth : Range := ⟨300, 3000, 1500⟩
def levelFloor : Range := ⟨-4000, 0, -2500⟩
def levelCeiling : Range := ⟨-1000, 2000, 1500⟩
def outputCeiling : Range := ⟨1000, 2800, 2300⟩
def guardBand : Range := ⟨0, 500, 100⟩
def egressTapOffset : Range := ⟨-3000, 0, -2000⟩
def ingressTapOffset : Range := ⟨-3000, 0, -2000⟩
def amplifierCount : Range := ⟨0, 40, 0⟩
def settleBase : Range := ⟨10, 2000, 50⟩
def settlePerAmp : Range := ⟨0, 200, 10⟩
def tolerance : Range := ⟨50, 500, 150⟩
def disturbanceLimit : Range := ⟨20, 300, 50⟩
def observationWindow : Range := ⟨0, 32, 8⟩
def failRun : Range := ⟨1, 7, 3⟩
def scanSpacing : Range := ⟨5, 1000, 20⟩
def retryLimit : Range := ⟨0, 15, 3⟩
def retryInterval : Range := ⟨100, 10000, 1000⟩
def losThreshold : Range := ⟨-5000, 0, -3000⟩
def darkTimeout : Range := ⟨1000, 300000, 30000⟩
def headroomTimeout : Range := ⟨1000, 600000, 60000⟩
def actuatorTimeout : Range := ⟨50, 5000, 500⟩

end Sys2Proof.Config
end

