-- ==== Sys2Proof/Syntax.lean ====
section
/-! DEFINITION. The commands the part takes: one constructor of `Instr` for each row of spec/opcode_table.json,
with the operands the command carries. Requests carry the slot link they arrive on, the tag, and their named fields as the
items of R180 give them; supervisory messages carry the degree of arrival, the outcome of the header check (R150) and the
fields of their body (R183). -/

namespace Sys2Proof

/-- The causes of R185. A cause byte that holds no code is carried on unchanged and reported by its number (R184). -/
inductive Cause
  | retriesExhausted | ingressDark | noHeadroom | actuator | lockFailed | lockTimeout | pathTimeout | linkDown
  | aborted | released | expired | nodeStarting | badRoute | noContext | duplicate | badLevel | conflict | blocked
  | unnamed (code : Byte)
deriving DecidableEq, Repr

/-- The reasons of a REFUSED reply (R163). -/
inductive Reason
  | badRequest | badRange | badRoute | badLevel | noContext | conflict | blocked | linkDown | nodeStarting
  | notFound | notOwner | ownerAlive | wrongPhase | busy
deriving DecidableEq, Repr

/-- The outcome of the header check of R150 for a message that goes on: clean or corrected. -/
inductive Header
  | clean | corrected
deriving DecidableEq, Repr

/-- The four receive-error flags of R146. -/
structure ErrorFlags where
  corrected     : Bool
  uncorrectable : Bool
  bodyBad       : Bool
  unknownKind   : Bool
deriving DecidableEq, Repr

/-- One item of a frame body: its number and its value, a signed 32-bit integer (R180). -/
structure Item where
  num : Nat
  val : Int
deriving DecidableEq, Repr

/-- One hop of a route as it is packed in a frame or message (R180): nothing about it has been checked. -/
structure RawHop where
  node   : Nat
  egress : Nat
  drop   : Nat
deriving DecidableEq, Repr

/-- The fields of OPEN (R60). -/
structure OpenFields where
  route : List RawHop
  first : Int
  count : Int
  density : Int
  bidir : Int
deriving DecidableEq, Repr

/-- The fields of QUERY_MAP, BLOCK and UNBLOCK (R32, R34). -/
structure RangeFields where
  degree : Int
  direction : Int
  first : Int
  count : Int
deriving DecidableEq, Repr

/-- The fields of SET_NODE in the order of R165, each present or absent. -/
structure NodeFields where
  nodeId : Option Int := none
  holdTime : Option Int := none
  pathLimit : Option Int := none
  lockWait : Option Int := none
  silenceLimit : Option Int := none
  gapLimit : Option Int := none
  scanTimeout : Option Int := none
  watchInterval : Option Int := none
  linkTimeout : Option Int := none
deriving DecidableEq, Repr

/-- The fields of SET_DEGREE after the degree, in the order of R166, each present or absent. -/
structure DegreeFields where
  enabled : Option Int := none
  stepSize : Option Int := none
  probeDepth : Option Int := none
  levelFloor : Option Int := none
  levelCeiling : Option Int := none
  outputCeiling : Option Int := none
  guardBand : Option Int := none
  egressTapOffset : Option Int := none
  ingressTapOffset : Option Int := none
  amplifierCount : Option Int := none
  settleBase : Option Int := none
  settlePerAmp : Option Int := none
  tolerance : Option Int := none
  disturbanceLimit : Option Int := none
  observationWindow : Option Int := none
  failRun : Option Int := none
  scanSpacing : Option Int := none
  retryLimit : Option Int := none
  retryInterval : Option Int := none
  holdPolicy : Option Int := none
  losThreshold : Option Int := none
  darkTimeout : Option Int := none
  headroomTimeout : Option Int := none
  actuatorTimeout : Option Int := none
deriving DecidableEq, Repr

/-- The fields of RESTORE_LIVE in the order of R180; those that depend on the role may be absent (R176). -/
structure RestoreFields where
  job : JobId
  role : Int
  hopIndex : Int
  owner : Option Int
  upstream : Option Int
  downstream : Option Int
  bidir : Int
  first : Int
  count : Int
  density : Int
  level1 : Option Int
  level2 : Option Int
deriving DecidableEq, Repr

/-- The fields of a RESERVE body (R59, R183), unchecked. -/
structure ReserveFields where
  job : JobId
  hopIndex : Nat
  first : Nat
  count : Nat
  density : Int
  bidir : Nat
  hops : List RawHop
deriving DecidableEq, Repr

/-- What an actuator completion carries as its level (R142): a number, OFF, or neither. -/
inductive Applied
  | num (v : Int)
  | off
  | neither
deriving DecidableEq, Repr

/-- A path message (R75, R183), as it stands on an outbound queue. Directions, causes and verdicts keep the bytes they
came with (R184). -/
inductive Message
  | reserve (f : ReserveFields)
  | reserveOk (job : JobId)
  | refuse (job : JobId) (cause : Cause) (node : Nat)
  | release (job : JobId)
  | rampTurn (job : JobId) (dir : Dir)
  | pathUp (job : JobId)
  | fail (job : JobId) (cause : Cause) (verdict : Byte) (origin : Nat)
  | drop (job : JobId)
  | downTurn (job : JobId)
deriving DecidableEq, Repr

/-- The requests of the table in section 10.6, as R180 reads them from a frame's kind and body. -/
inductive Request
  | nop
  | queryNode
  | setNode (f : NodeFields)
  | setDegree (degree : Int) (f : DegreeFields)
  | openJob (f : OpenFields)
  | abortJob (job : JobId)
  | closeJob (job : JobId)
  | adoptJob (job : JobId)
  | lockReport (job : JobId) (report : Int)
  | queryJob (job : Option JobId)
  | queryMap (r : RangeFields)
  | block (r : RangeFields)
  | unblock (r : RangeFields)
  | queryDegree (degree : Int)
  | clearFault (degree : Int)
  | clearFaultMonitor
  | readLog (start count : Int)
  | readCounts (clear : Int)
  | restoreLive (f : RestoreFields)
  | endRestore
deriving DecidableEq, Repr

/-- The commands of the part, in the order of the opcode table. -/
inductive Instr
  /-- RESET (R175): power-on or the reset input. -/
  | reset
  /-- NOP (R164). -/
  | nop (p : Port) (tag : Byte)
  /-- QUERY_NODE (R164). -/
  | queryNode (p : Port) (tag : Byte)
  /-- SET_NODE (R165). -/
  | setNode (p : Port) (tag : Byte) (f : NodeFields)
  /-- SET_DEGREE (R166). -/
  | setDegree (p : Port) (tag : Byte) (degree : Int) (f : DegreeFields)
  /-- OPEN (R60 to R62). -/
  | openJob (p : Port) (tag : Byte) (f : OpenFields)
  /-- ABORT (R92). -/
  | abortJob (p : Port) (tag : Byte) (job : JobId)
  /-- CLOSE (R93). -/
  | closeJob (p : Port) (tag : Byte) (job : JobId)
  /-- ADOPT (R55). -/
  | adoptJob (p : Port) (tag : Byte) (job : JobId)
  /-- LOCK_REPORT (R80); report 1 is locked, 0 is failed. -/
  | lockReport (p : Port) (tag : Byte) (job : JobId) (report : Int)
  /-- QUERY_JOB (R56); the job id may be absent. -/
  | queryJob (p : Port) (tag : Byte) (job : Option JobId)
  /-- QUERY_MAP (R34). -/
  | queryMap (p : Port) (tag : Byte) (r : RangeFields)
  /-- BLOCK (R32). -/
  | block (p : Port) (tag : Byte) (r : RangeFields)
  /-- UNBLOCK (R33). -/
  | unblock (p : Port) (tag : Byte) (r : RangeFields)
  /-- QUERY_DEGREE (R114). -/
  | queryDegree (p : Port) (tag : Byte) (degree : Int)
  /-- CLEAR_FAULT with the degree present (R144). -/
  | clearFault (p : Port) (tag : Byte) (degree : Int)
  /-- CLEAR_FAULT with the degree absent, for the monitor (R140). -/
  | clearFaultMonitor (p : Port) (tag : Byte)
  /-- READ_LOG (R174). -/
  | readLog (p : Port) (tag : Byte) (start count : Int)
  /-- READ_COUNTS (R173). -/
  | readCounts (p : Port) (tag : Byte) (clear : Int)
  /-- RESTORE_LIVE (R176, R177). -/
  | restoreLive (p : Port) (tag : Byte) (f : RestoreFields)
  /-- END_RESTORE (R178). -/
  | endRestore (p : Port) (tag : Byte)
  /-- BAD_REQUEST (R162): a good frame whose kind names no request. -/
  | badRequest (p : Port) (tag kind : Byte) (body : List Byte)
  /-- REQUEST_OVERRUN (R159): a good frame that meets a full transmit queue. -/
  | requestOverrun (p : Port) (tag kind : Byte) (body : List Byte)
  /-- FRAME_CRC_BAD (R159): a complete frame whose CRC does not match. -/
  | frameCrcBad (p : Port)
  /-- FRAME_GAP_EXPIRY (R158). -/
  | frameGapExpiry (p : Port)
  /-- PORT_SILENCE_EXPIRY (R160). -/
  | portSilenceExpiry (p : Port)
  /-- TRANSMIT_FRAME_DONE (R161). -/
  | transmitFrameDone (p : Port)
  /-- HELLO_TIMER_EXPIRY (R148). -/
  | helloTimerExpiry (d : Degree)
  /-- FRAMER_SEND_REQUEST (R149). -/
  | framerSendRequest (d : Degree)
  /-- HEADER_UNCORRECTABLE (R150). -/
  | headerUncorrectable (d : Degree)
  /-- UNKNOWN_KIND (R151). -/
  | unknownKind (d : Degree) (h : Header)
  /-- HELLO (R154). -/
  | hello (d : Degree) (h : Header) (node degree : Nat) (flags : ErrorFlags)
  /-- RESERVE (R63). -/
  | reserve (d : Degree) (h : Header) (f : ReserveFields)
  /-- RESERVE_OK (R68). -/
  | reserveOk (d : Degree) (h : Header) (job : JobId)
  /-- REFUSE (R70). -/
  | refuse (d : Degree) (h : Header) (job : JobId) (cause : Cause) (node : Nat)
  /-- RELEASE (R71). -/
  | release (d : Degree) (h : Header) (job : JobId)
  /-- RAMP_TURN (R78); the direction byte as received. -/
  | rampTurn (d : Degree) (h : Header) (job : JobId) (dir : Nat)
  /-- PATH_UP (R82). -/
  | pathUp (d : Degree) (h : Header) (job : JobId)
  /-- FAIL (R90). -/
  | fail (d : Degree) (h : Header) (job : JobId) (cause : Cause) (verdict : Byte) (origin : Nat)
  /-- DROP (R93, R94). -/
  | drop (d : Degree) (h : Header) (job : JobId)
  /-- DOWN_TURN (R95). -/
  | downTurn (d : Degree) (h : Header) (job : JobId)
  /-- LINK_TIMEOUT_EXPIRY (R155). -/
  | linkTimeoutExpiry (d : Degree)
  /-- HOLD_TIMER_EXPIRY (R67). -/
  | holdTimerExpiry (job : JobId)
  /-- PATH_TIMER_EXPIRY (R86). -/
  | pathTimerExpiry (job : JobId)
  /-- LOCK_TIMER_EXPIRY (R80). -/
  | lockTimerExpiry (job : JobId)
  /-- TEARDOWN_TIMER_EXPIRY (R93). -/
  | teardownTimerExpiry (job : JobId)
  /-- SETTLE_TIMER_EXPIRY (R120). -/
  | settleTimerExpiry (job : JobId) (dir : Dir)
  /-- SCAN_SPACING_EXPIRY (R121). -/
  | scanSpacingExpiry (job : JobId) (dir : Dir)
  /-- RETRY_TIMER_EXPIRY (R125). -/
  | retryTimerExpiry (job : JobId) (dir : Dir)
  /-- DARK_TIMER_EXPIRY (R133). -/
  | darkTimerExpiry (job : JobId) (dir : Dir)
  /-- HEADROOM_TIMER_EXPIRY (R106). -/
  | headroomTimerExpiry (job : JobId) (dir : Dir)
  /-- SCAN_RESULT (R136): the monitor's done with the readings received since the issue. -/
  | scanResult (issue : Nat) (readings : List Int)
  /-- SCAN_TIMEOUT (R138). -/
  | scanTimeout
  /-- PROBE_TIMER_EXPIRY (R140). -/
  | probeTimerExpiry
  /-- WATCH_INTERVAL_EXPIRY (R141). -/
  | watchIntervalExpiry (d : Degree)
  /-- ACTUATOR_COMPLETION (R142). -/
  | actuatorCompletion (d : Degree) (issue : Nat) (applied : Applied)
  /-- ACTUATOR_TIMEOUT (R143). -/
  | actuatorTimeout (d : Degree)
  /-- BYTE_RECEIVED (R158). -/
  | byteReceived (p : Port) (b : Byte)
  /-- BODY_BAD (R152). -/
  | bodyBad (d : Degree) (h : Header)
deriving DecidableEq, Repr

end Sys2Proof
end

