-- ==== Sys2Proof/Decode.lean ====
section
/-! DEFINITION. The layouts of chapter 12: the codes of R185, items and request bodies (R180), frames (R179), the CRC (R182),
supervisory headers (R150, R184) and bodies (R183). Decoding is total: whatever bytes arrive are a command of the table.
No row of spec/opcode_table.json gives bits, so `decodeTableWord` answers none. -/

namespace Sys2Proof

/-! ### Numbers in bytes: least significant byte first, signed fields in two's complement (R179) -/

def natOfBytes : List Byte → Nat
  | [] => 0
  | b :: bs => b.toNat + 256 * natOfBytes bs

/-- The `k` lowest bytes of a number, least significant first. -/
def bytesOfNat : Nat → Nat → List Byte
  | 0, _ => []
  | k + 1, n => BitVec.ofNat 8 n :: bytesOfNat k (n / 256)

/-- The two's complement reading of `n` in `bits` bits. -/
def signedOfNat (bits n : Nat) : Int := if n < 2 ^ (bits - 1) then n else (n : Int) - 2 ^ bits

/-- The two's complement pattern of `v` in `bits` bits. -/
def natOfSigned (bits : Nat) (v : Int) : Nat := (v % 2 ^ bits).toNat

/-! ### Field encodings (R185) -/

def Point.code : Point → Nat
  | .bank => 0
  | .line d => d.toNat

def Dir.code : Dir → Nat
  | .fwd => 0
  | .rev => 1

def Dir.ofCode (n : Nat) : Option Dir := if n = 0 then some .fwd else if n = 1 then some .rev else none

def MapDir.ofInt (n : Int) : Option MapDir :=
  if n = 0 then some .incoming else if n = 1 then some .outgoing else none

def Cause.code : Cause → Byte
  | .retriesExhausted => 1#8
  | .ingressDark => 2#8
  | .noHeadroom => 3#8
  | .actuator => 4#8
  | .lockFailed => 5#8
  | .lockTimeout => 6#8
  | .pathTimeout => 7#8
  | .linkDown => 8#8
  | .aborted => 9#8
  | .released => 10#8
  | .expired => 11#8
  | .nodeStarting => 12#8
  | .badRoute => 13#8
  | .noContext => 14#8
  | .duplicate => 15#8
  | .badLevel => 16#8
  | .conflict => 17#8
  | .blocked => 18#8
  | .unnamed b => b

/-- The cause a byte names; a byte with no code is carried on unchanged (R184). -/
def Cause.ofByte (b : Byte) : Cause :=
  match b.toNat with
  | 1 => .retriesExhausted
  | 2 => .ingressDark
  | 3 => .noHeadroom
  | 4 => .actuator
  | 5 => .lockFailed
  | 6 => .lockTimeout
  | 7 => .pathTimeout
  | 8 => .linkDown
  | 9 => .aborted
  | 10 => .released
  | 11 => .expired
  | 12 => .nodeStarting
  | 13 => .badRoute
  | 14 => .noContext
  | 15 => .duplicate
  | 16 => .badLevel
  | 17 => .conflict
  | 18 => .blocked
  | _ => .unnamed b

def Reason.code : Reason → Nat
  | .badRequest => 1
  | .badRange => 2
  | .badRoute => 3
  | .badLevel => 4
  | .noContext => 5
  | .conflict => 6
  | .blocked => 7
  | .linkDown => 8
  | .nodeStarting => 9
  | .notFound => 10
  | .notOwner => 11
  | .ownerAlive => 12
  | .wrongPhase => 13
  | .busy => 14

/-- Bit `i` is flag `i` of a HELLO's flags byte; bits 4 to 7 are sent 0 (R183). -/
def ErrorFlags.code (f : ErrorFlags) : Nat :=
  f.corrected.toNat + 2 * f.uncorrectable.toNat + 4 * f.bodyBad.toNat + 8 * f.unknownKind.toNat

/-- The flags of a HELLO's flags byte; bits 4 to 7 are ignored (R183). -/
def ErrorFlags.ofByte (b : Byte) : ErrorFlags :=
  ⟨b.getLsbD 0, b.getLsbD 1, b.getLsbD 2, b.getLsbD 3⟩

/-! ### The CRC (R182) -/

/-- One left shift of the register, combined with 0x1021 when the bit shifted out is 1. -/
def crcShift (r : BitVec 16) : BitVec 16 := if r.msb then (r <<< 1) ^^^ 0x1021#16 else r <<< 1

/-- One byte: combined into the upper eight bits, then eight shifts. -/
def crcByte (r : BitVec 16) (b : Byte) : BitVec 16 :=
  let r0 := r ^^^ ((b.setWidth 16) <<< 8)
  crcShift (crcShift (crcShift (crcShift (crcShift (crcShift (crcShift (crcShift r0)))))))

/-- The CRC of the bytes in the order sent, from 0xFFFF. -/
def crc16 (bytes : List Byte) : BitVec 16 := bytes.foldl crcByte 0xFFFF#16

/-- The CRC as it is sent: low byte first (R182). -/
def crcBytes (bytes : List Byte) : List Byte := bytesOfNat 2 (crc16 bytes).toNat

/-! ### Items and bodies of slot link frames (R180) -/

/-- The items of a body; none when its length is not a multiple of 5. -/
def itemsOfBytes : List Byte → Option (List Item)
  | [] => some []
  | n :: a :: b :: c :: d :: rest =>
    (itemsOfBytes rest).map (⟨n.toNat, signedOfNat 32 (natOfBytes [a, b, c, d])⟩ :: ·)
  | _ => none

def Item.bytes (i : Item) : List Byte := BitVec.ofNat 8 i.num :: bytesOfNat 4 (natOfSigned 32 i.val)

def bytesOfItems (items : List Item) : List Byte := items.flatMap Item.bytes

/-- A job id packed in an item value: bytes 0 and 1 the head node id, bytes 2 and 3 the sequence number. -/
def JobId.ofItem (v : Int) : JobId := ⟨natOfSigned 32 v % 65536, natOfSigned 32 v / 65536⟩

def JobId.item (j : JobId) : Int := signedOfNat 32 (j.head % 65536 + 65536 * (j.seq % 65536))

/-- A hop packed in an item value: node id, egress point, drop port. -/
def RawHop.ofNat (n : Nat) : RawHop := ⟨n % 65536, n / 65536 % 256, n / 16777216 % 256⟩

def RawHop.toNat (h : RawHop) : Nat := h.node % 65536 + 65536 * (h.egress % 256) + 16777216 * (h.drop % 256)

def RawHop.ofItem (v : Int) : RawHop := RawHop.ofNat (natOfSigned 32 v)

def RawHop.item (h : RawHop) : Int := signedOfNat 32 h.toNat

/-- The value of the first item with a number. -/
def itemValue (items : List Item) (n : Nat) : Option Int := (items.find? (fun i => i.num = n)).map (·.val)

/-- Every item number is one the request defines, and none but `repeats` appears twice. -/
def itemsFit (allowed : List Nat) (repeats : Option Nat) : List Item → Bool
  | [] => true
  | i :: rest =>
    allowed.contains i.num && (repeats == some i.num || !(rest.any (fun j => j.num = i.num)))
      && itemsFit allowed repeats rest

/-- The kinds of requests (R179). -/
def kindNop : Byte := 0x01#8
def kindQueryNode : Byte := 0x02#8
def kindSetNode : Byte := 0x03#8
def kindSetDegree : Byte := 0x04#8
def kindOpen : Byte := 0x10#8
def kindAbort : Byte := 0x11#8
def kindClose : Byte := 0x12#8
def kindAdopt : Byte := 0x13#8
def kindLockReport : Byte := 0x14#8
def kindQueryJob : Byte := 0x15#8
def kindQueryMap : Byte := 0x20#8
def kindBlock : Byte := 0x21#8
def kindUnblock : Byte := 0x22#8
def kindQueryDegree : Byte := 0x23#8
def kindClearFault : Byte := 0x24#8
def kindReadLog : Byte := 0x30#8
def kindReadCounts : Byte := 0x31#8
def kindRestoreLive : Byte := 0x32#8
def kindEndRestore : Byte := 0x33#8

/-- The fields of SET_NODE: items 1 to 9 in the order of R165, each optional. -/
def nodeFieldsOf (items : List Item) : NodeFields :=
  let v := itemValue items
  ⟨v 1, v 2, v 3, v 4, v 5, v 6, v 7, v 8, v 9⟩

/-- The parameters of SET_DEGREE: items 2 to 25 in the order of R166, each optional. -/
def degreeFieldsOf (items : List Item) : DegreeFields :=
  let v := itemValue items
  ⟨v 2, v 3, v 4, v 5, v 6, v 7, v 8, v 9, v 10, v 11, v 12, v 13, v 14, v 15, v 16, v 17, v 18, v 19, v 20, v 21,
    v 22, v 23, v 24, v 25⟩

/-- The hops of OPEN, in the order sent (R180). -/
def hopsOf (items : List Item) : List RawHop :=
  (items.filter (fun i => i.num = 5)).map (fun i => RawHop.ofItem i.val)

def openFieldsOf (items : List Item) : Option OpenFields := do
  let first ← itemValue items 1
  let count ← itemValue items 2
  let density ← itemValue items 3
  let bidir ← itemValue items 4
  let _ ← itemValue items 5
  pure ⟨hopsOf items, first, count, density, bidir⟩

def rangeFieldsOf (items : List Item) : Option RangeFields := do
  let degree ← itemValue items 1
  let direction ← itemValue items 2
  let first ← itemValue items 3
  let count ← itemValue items 4
  pure ⟨degree, direction, first, count⟩

def restoreFieldsOf (items : List Item) : Option RestoreFields := do
  let job ← itemValue items 1
  let role ← itemValue items 2
  let hop ← itemValue items 3
  let bidir ← itemValue items 7
  let first ← itemValue items 8
  let count ← itemValue items 9
  let density ← itemValue items 10
  let v := itemValue items
  pure ⟨JobId.ofItem job, role, hop, v 4, v 5, v 6, bidir, first, count, density, v 11, v 12⟩

/-- The request a kind and the items of a body make; none where the kind names no request, an item number is not the
request's or appears twice, or an item the request requires is absent (R180). Values out of their range or code are the
owning rule's concern. -/
def requestOf (kind : Byte) (items : List Item) : Option Request :=
  let fit (n : Nat) : Bool := itemsFit ((List.range n).map (· + 1)) none items
  let job := (itemValue items 1).map JobId.ofItem
  if kind = kindNop then (if fit 0 then some .nop else none)
  else if kind = kindQueryNode then (if fit 0 then some .queryNode else none)
  else if kind = kindSetNode then (if fit 9 then some (.setNode (nodeFieldsOf items)) else none)
  else if kind = kindSetDegree then
    (if fit 25 then (itemValue items 1).map (fun d => .setDegree d (degreeFieldsOf items)) else none)
  else if kind = kindOpen then
    (if itemsFit [1, 2, 3, 4, 5] (some 5) items then (openFieldsOf items).map .openJob else none)
  else if kind = kindAbort then (if fit 1 then job.map .abortJob else none)
  else if kind = kindClose then (if fit 1 then job.map .closeJob else none)
  else if kind = kindAdopt then (if fit 1 then job.map .adoptJob else none)
  else if kind = kindLockReport then
    (if fit 2 then job.bind (fun j => (itemValue items 2).map (.lockReport j)) else none)
  else if kind = kindQueryJob then (if fit 1 then some (.queryJob job) else none)
  else if kind = kindQueryMap then (if fit 4 then (rangeFieldsOf items).map .queryMap else none)
  else if kind = kindBlock then (if fit 4 then (rangeFieldsOf items).map .block else none)
  else if kind = kindUnblock then (if fit 4 then (rangeFieldsOf items).map .unblock else none)
  else if kind = kindQueryDegree then (if fit 1 then (itemValue items 1).map .queryDegree else none)
  else if kind = kindClearFault then
    (if fit 1 then
      (match itemValue items 1 with
       | some d => some (.clearFault d)
       | none => some .clearFaultMonitor) else none)
  else if kind = kindReadLog then
    (if fit 2 then (itemValue items 1).bind (fun a => (itemValue items 2).map (.readLog a)) else none)
  else if kind = kindReadCounts then (if fit 1 then (itemValue items 1).map .readCounts else none)
  else if kind = kindRestoreLive then (if fit 12 then (restoreFieldsOf items).map .restoreLive else none)
  else if kind = kindEndRestore then (if fit 0 then some .endRestore else none)
  else none

/-- The request a good frame makes, by its kind and its body's bytes (R162 steps 1 and 2, R180). -/
def decodeRequest (kind : Byte) (body : List Byte) : Option Request :=
  (itemsOfBytes body).bind (requestOf kind)

/-- The command of the table that a request arriving on a slot link is. -/
def Request.command (p : Port) (tag : Byte) : Request → Instr
  | .nop => .nop p tag
  | .queryNode => .queryNode p tag
  | .setNode f => .setNode p tag f
  | .setDegree d f => .setDegree p tag d f
  | .openJob f => .openJob p tag f
  | .abortJob j => .abortJob p tag j
  | .closeJob j => .closeJob p tag j
  | .adoptJob j => .adoptJob p tag j
  | .lockReport j r => .lockReport p tag j r
  | .queryJob j => .queryJob p tag j
  | .queryMap r => .queryMap p tag r
  | .block r => .block p tag r
  | .unblock r => .unblock p tag r
  | .queryDegree d => .queryDegree p tag d
  | .clearFault d => .clearFault p tag d
  | .clearFaultMonitor => .clearFaultMonitor p tag
  | .readLog a n => .readLog p tag a n
  | .readCounts c => .readCounts p tag c
  | .restoreLive f => .restoreLive p tag f
  | .endRestore => .endRestore p tag

/-! ### Frames (R179) -/

/-- The marker byte of a frame. -/
def marker : Byte := 0xA5#8

/-- A frame on the wire: marker, length, kind, tag, body, CRC. -/
def frameBytes (kind tag : Byte) (body : List Byte) : List Byte :=
  let covered := BitVec.ofNat 8 body.length :: kind :: tag :: body
  marker :: covered ++ crcBytes covered

/-- A complete frame without its marker. -/
structure RawFrame where
  kind : Byte
  tag  : Byte
  body : List Byte
  good : Bool
deriving DecidableEq, Repr

/-- The frame that the bytes after a marker make, once five bytes more than the body length are there (R158), with
whether its CRC matches (R159). -/
def completeFrame : List Byte → Option RawFrame
  | len :: kind :: tag :: rest =>
    if rest.length = len.toNat + 2 then
      let body := rest.take len.toNat
      some ⟨kind, tag, body, rest.drop len.toNat == crcBytes (len :: kind :: tag :: body)⟩
    else none
  | _ => none

/-! ### Supervisory headers (R150, R184) -/

/-- The positions of the 24 data bits, data bit 0 first (R184). -/
def dataPositions : List Nat :=
  [3, 5, 6, 7, 9, 10, 11, 12, 13, 14, 15, 17, 18, 19, 20, 21, 22, 23, 24, 25, 26, 27, 28, 29]

/-- The exclusive-or of a list of bits. -/
def xorAll (bits : List Bool) : Bool := bits.foldl xor false

/-- Each data bit of a header with its position. -/
def placedBits (h : BitVec 24) : List (Nat × Bool) :=
  dataPositions.zip ((List.range 24).map (fun j => h.getLsbD j))

/-- Check bit `i`, 0 to 4: the data bits whose position has bit `i` set (R150). -/
def hammingBit (h : BitVec 24) (i : Nat) : Bool :=
  xorAll ((placedBits h).map (fun x => x.2 && x.1.testBit i))

/-- The six check bits a sender computes (R150). -/
def checkBits (h : BitVec 24) : BitVec 6 :=
  let c := (List.range 5).map (hammingBit h)
  let p := xorAll ((placedBits h).map (·.2) ++ c)
  BitVec.ofBoolListLE (c ++ [p])

/-- What R150 decides of a received header. -/
inductive HeaderRead
  | usable (h : Header) (data : BitVec 24)
  | uncorrectable
deriving DecidableEq, Repr

/-- The syndrome: bit `i` is the exclusive-or of received and recomputed check bit `i`, `i` from 0 to 4. -/
def syndrome (h : BitVec 24) (c : BitVec 6) : Nat := ((checkBits h ^^^ c).setWidth 5).toNat

/-- The exclusive-or of all 30 received bits. -/
def overallParity (h : BitVec 24) (c : BitVec 6) : Bool :=
  xorAll ((List.range 24).map (fun j => h.getLsbD j) ++ (List.range 6).map (fun j => c.getLsbD j))

/-- The decision table of R150. -/
def readHeader (h : BitVec 24) (c : BitVec 6) : HeaderRead :=
  let syn := syndrome h c
  if overallParity h c then
    if syn = 0 ∨ [1, 2, 4, 8, 16].contains syn then .usable .corrected h
    else match dataPositions.findIdx? (· = syn) with
      | some j => .usable .corrected (h ^^^ (1#24 <<< j))
      | none => .uncorrectable
  else if syn = 0 then .usable .clean h
  else .uncorrectable

/-! ### Supervisory messages (R151, R152, R183) -/

/-- The header of a kind, a class and a body length: bits 0 to 5 kind, bits 6 and 7 class, then the length. -/
def headerOf (kind cls len : Nat) : BitVec 24 := BitVec.ofNat 24 (kind + 64 * cls + 256 * len)

/-- The class of each known kind (R183). -/
def classOf (kind : Nat) : Option Nat :=
  if kind = 1 then some 0 else if kind = 2 ∨ kind = 3 then some 1
  else if 4 ≤ kind ∧ kind ≤ 9 then some 2 else if kind = 10 then some 3 else none

/-- A supervisory message on the wire: three data bytes, the check byte, the body and its CRC. -/
def messageBytes (kind cls : Nat) (body : List Byte) : List Byte :=
  let h := headerOf kind cls body.length
  bytesOfNat 3 h.toNat ++ [(checkBits h).setWidth 8] ++ body ++ crcBytes body

def JobId.bytes (j : JobId) : List Byte := bytesOfNat 2 j.head ++ bytesOfNat 2 j.seq

def JobId.ofBytes (b : List Byte) : JobId := ⟨natOfBytes (b.take 2), natOfBytes ((b.drop 2).take 2)⟩

/-- The body of a RESERVE (R183). -/
def ReserveFields.bytes (f : ReserveFields) : List Byte :=
  f.job.bytes ++ bytesOfNat 1 f.hopIndex ++ bytesOfNat 2 f.first ++ bytesOfNat 1 f.count
    ++ bytesOfNat 2 (natOfSigned 16 f.density) ++ bytesOfNat 1 f.bidir ++ bytesOfNat 1 f.hops.length
    ++ f.hops.flatMap (fun h => bytesOfNat 4 h.toNat)

/-- A path message on the wire (R183). -/
def Message.bytes : Message → List Byte
  | .reserve f => messageBytes 1 0 f.bytes
  | .reserveOk j => messageBytes 2 1 j.bytes
  | .refuse j c n => messageBytes 3 1 (j.bytes ++ [c.code] ++ bytesOfNat 2 n)
  | .release j => messageBytes 4 2 j.bytes
  | .rampTurn j dir => messageBytes 5 2 (j.bytes ++ bytesOfNat 1 dir.code)
  | .pathUp j => messageBytes 6 2 j.bytes
  | .fail j c v n => messageBytes 7 2 (j.bytes ++ [c.code, v] ++ bytesOfNat 2 n)
  | .drop j => messageBytes 8 2 j.bytes
  | .downTurn j => messageBytes 9 2 j.bytes

/-- A HELLO on the wire (R183). -/
def helloBytes (node degree : Nat) (f : ErrorFlags) : List Byte :=
  messageBytes 10 3 (bytesOfNat 2 node ++ bytesOfNat 1 degree ++ bytesOfNat 1 f.code)

/-- The hops of a RESERVE body, four bytes each. -/
def hopsOfBytes : List Byte → List RawHop
  | a :: b :: c :: d :: rest => RawHop.ofNat (natOfBytes [a, b, c, d]) :: hopsOfBytes rest
  | _ => []

/-- Byte `i` of a body as a number. -/
def byteAt (body : List Byte) (i : Nat) : Nat := (body.getD i 0#8).toNat

/-- A two-byte field of a body. -/
def wordAt (body : List Byte) (i : Nat) : Nat := byteAt body i + 256 * byteAt body (i + 1)

/-- The command that a body of a known kind is; none where its length does not fit the kind (R152, R183). -/
def commandOfBody (d : Degree) (h : Header) (kind : Nat) (body : List Byte) : Option Instr :=
  let n := body.length
  let j := JobId.ofBytes body
  if kind = 1 then
    if 12 ≤ n ∧ n = 12 + 4 * byteAt body 11 then
      some (.reserve d h ⟨j, byteAt body 4, wordAt body 5, byteAt body 7, signedOfNat 16 (wordAt body 8), byteAt body 10,
        hopsOfBytes (body.drop 12)⟩)
    else none
  else if kind = 2 then (if n = 4 then some (.reserveOk d h j) else none)
  else if kind = 3 then
    (if n = 7 then some (.refuse d h j (Cause.ofByte (body.getD 4 0#8)) (wordAt body 5)) else none)
  else if kind = 4 then (if n = 4 then some (.release d h j) else none)
  else if kind = 5 then (if n = 5 then some (.rampTurn d h j (byteAt body 4)) else none)
  else if kind = 6 then (if n = 4 then some (.pathUp d h j) else none)
  else if kind = 7 then
    (if n = 8 then some (.fail d h j (Cause.ofByte (body.getD 4 0#8)) (body.getD 5 0#8) (wordAt body 6)) else none)
  else if kind = 8 then (if n = 4 then some (.drop d h j) else none)
  else if kind = 9 then (if n = 4 then some (.downTurn d h j) else none)
  else if kind = 10 then
    (if n = 4 then some (.hello d h (wordAt body 0) (byteAt body 2) (ErrorFlags.ofByte (body.getD 3 0#8))) else none)
  else none

/-- The checks of R151 and R152 on a message whose header can be used. -/
def commandOfHeader (d : Degree) (h : Header) (data : BitVec 24) (rest : List Byte) : Instr :=
  let kind := (data.extractLsb' 0 6).toNat
  let cls := (data.extractLsb' 6 2).toNat
  let len := (data.extractLsb' 8 16).toNat
  if classOf kind ≠ some cls then .unknownKind d h
  else if 255 < len ∨ rest.length ≠ len + 2 ∨ rest.drop len ≠ crcBytes (rest.take len) then .bodyBad d h
  else (commandOfBody d h kind (rest.take len)).getD (.bodyBad d h)

/-- The command of the table that a message delivered by the framer of degree `d` is: its three header data bytes, its
check byte (bits 6 and 7 ignored), and everything after them (R150, R151, R152). -/
def commandOfMessage (d : Degree) (h0 h1 h2 check : Byte) (rest : List Byte) : Instr :=
  match readHeader (h2 ++ h1 ++ h0) (check.setWidth 6) with
  | .usable h data => commandOfHeader d h data rest
  | .uncorrectable => .headerUncorrectable d

/-- The command that a word spells by the table's bits: the table gives no row bits. -/
def decodeTableWord (_nbits _w : Nat) : Option Instr := none

end Sys2Proof
end

