-- ==== Sys2Proof/Machine/State.lean ====
section
/-! DEFINITION. The state of the part: everything the spec gives its units (INVENTORY.md lists each piece with its rule),
plain data throughout, and the state after reset (11.5). The fields that are the model's own say so. -/

namespace Sys2Proof.Machine

/-! ### Levels, legs and steps -/

/-- A line leg's level: OFF, or a number of level units (R3). -/
inductive Level
  | off
  | num (v : Int)
deriving DecidableEq, Repr

/-- The nine leg states (R47). -/
inductive LegState
  | dark | queued | headroomWait | stepping | backoff | frozen | atTarget | rampingDown | off
deriving DecidableEq, Repr

/-- The classes of a grant (R48, R99). -/
inductive StepClass
  | up | down
deriving DecidableEq, Repr

/-- The kinds of step (R115). -/
inductive StepKind
  | lightOn | up | down | backoff | recheck
deriving DecidableEq, Repr

/-- The stages of a step (R48). -/
inductive Stage
  | baseline | actuate | settle | verify
deriving DecidableEq, Repr

/-- The verdicts of a scan and of a step (R17, R51). -/
inductive Verdict
  | none | pass | low | high | disturb | unstable | masked
deriving DecidableEq, Repr

/-- The kinds of an UP request (R101). -/
inductive RequestKind
  | step | retry
deriving DecidableEq, Repr

/-- Why a leg is frozen (R49). -/
inductive FrozenBy
  | dark | monitor
deriving DecidableEq, Repr

/-- A leg reference: its job id and its direction (R41). -/
structure LegRef where
  job : JobId
  dir : Dir
deriving DecidableEq, Repr

/-- One entry of a step's observed set (R48): the neighbour's job, its run and its baseline once measured. -/
structure Observed where
  job      : JobId
  first    : Nat
  count    : Nat
  baseline : Option Int
deriving DecidableEq, Repr

/-- A step record (R51). -/
structure StepRecord where
  number    : Nat
  kind      : StepKind
  fromLevel : Level
  requested : Level
  applied   : Option Level
  measured  : Option Int
  deviation : Option Int
  worst     : Option Int
  verdict   : Verdict
  scansUsed : Nat
deriving DecidableEq, Repr

/-- The per-step state of a token holder (R48). The last four fields are what the step's record will take: the applied
level (R119), the measured level and deviation of the last result not MASKED (R122), and the previous result's verdict,
which the failing run compares with (R122). -/
structure StepState where
  cls        : StepClass
  kind       : StepKind
  stage      : Stage
  fromLevel  : Level
  requested  : Level
  observed   : List Observed
  failingRun : Nat
  scansUsed  : Nat
  worst      : Option Int
  applied    : Option Level
  measured   : Option Int
  deviation  : Option Int
  previous   : Option Verdict
deriving DecidableEq, Repr

/-- A line leg record (R46) with its five timers (R50), each its remaining time while it runs. -/
structure LineLeg where
  ingress    : Point
  egress     : Degree
  target     : Int
  probe      : Int
  level      : Level
  state      : LegState
  stepsTaken : Nat
  retryCount : Nat
  short      : Bool
  unverified : Bool
  verified   : Option Int
  lastDev    : Option Int
  worst      : Option Int
  history    : List StepRecord
  step       : Option StepState
  frozen     : Option (FrozenBy × RequestKind)
  settle     : Option Nat
  spacing    : Option Nat
  retry      : Option Nat
  darkTimer  : Option Nat
  headroom   : Option Nat
deriving DecidableEq, Repr

/-- A leg (R41, R42): a line leg, or a drop leg, which holds its ingress degree alone. -/
inductive Leg
  | line (l : LineLeg)
  | drop (ingress : Degree)
deriving DecidableEq, Repr

/-! ### Job contexts -/

/-- A context's role with its degrees (R38, R40). -/
inductive Place
  | head (down : Degree)
  | transit (up down : Degree)
  | tail (up : Degree)
deriving DecidableEq, Repr

/-- The nine phases (R43). -/
inductive Phase
  | holding | booked | bringupFwd | awaitLockFwd | bringupRev | awaitLockRev | live | teardown | failing
deriving DecidableEq, Repr

/-- A fail cause with the last verdict it carries (0 where it carries none) and the fail origin node (R45). -/
structure Failure where
  cause   : Cause
  verdict : Byte
  origin  : Nat
deriving DecidableEq, Repr

/-- A job context in use (R38). `reached` says that the job has reached BOOKED here (R171); `failLeg` and `failSteps` are
the fail leg and the copied step records of R172. -/
structure Context where
  id        : JobId
  place     : Place
  phase     : Phase
  owner     : Option Port
  bidir     : Bool
  first     : Nat
  count     : Nat
  density   : Int
  route     : Option (List RawHop)
  hopIndex  : Nat
  hold      : Option Nat
  path      : Option Nat
  lock      : Option Nat
  teardown  : Option Nat
  failure   : Option Failure
  failLeg   : Option Dir
  failSteps : List StepRecord
  reached   : Bool
  fwd       : Leg
  rev       : Option Leg
deriving DecidableEq, Repr

/-! ### The spectrum map -/

/-- Why an entry is BLOCKED (R19). -/
inductive BlockReason
  | admin | abandoned
deriving DecidableEq, Repr

/-- A slice entry (R19): its state, with the job it names or the block reason where the state has one. -/
inductive SliceEntry
  | unknown
  | free
  | held (job : JobId)
  | booked (job : JobId)
  | lit (job : JobId)
  | live (job : JobId)
  | blocked (reason : BlockReason)
deriving DecidableEq, Repr

/-- The eight tables (R20), each 384 entries in slice order. -/
structure SpectrumMap where
  incoming : PerDegree (List SliceEntry)
  outgoing : PerDegree (List SliceEntry)
deriving DecidableEq, Repr

/-! ### Step arbiters -/

/-- The step token while a leg holds it (R99). -/
structure Token where
  leg : LegRef
  cls : StepClass
deriving DecidableEq, Repr

/-- An entry of the UP class or of the headroom-wait list (R99). -/
structure UpEntry where
  leg  : LegRef
  kind : RequestKind
deriving DecidableEq, Repr

/-- The last headroom check record (R99, R105). -/
structure HeadroomCheck where
  leg       : LegRef
  requested : Int
  total     : Int
  limit     : Int
  granted   : Bool
  time      : BitVec 32
deriving DecidableEq, Repr

/-- A step arbiter (R99). `held` is the hold status HELD. -/
structure Arbiter where
  token     : Option Token
  down      : List LegRef
  up        : List UpEntry
  wait      : List UpEntry
  backoff   : List LegRef
  held      : Bool
  lastCheck : Option HeadroomCheck
deriving DecidableEq, Repr

/-! ### Monitor and actuator ports -/

inductive Dark
  | lit | dark
deriving DecidableEq, Repr

inductive WatchState
  | queued | inFlight | waiting | stopped
deriving DecidableEq, Repr

/-- What the monitor port holds for one degree (R134): dark state, run count 0 or 1, watch state, interval timer. -/
structure Watch where
  dark     : Dark
  run      : Nat
  state    : WatchState
  interval : Option Nat
deriving DecidableEq, Repr

/-- Who asked for a scan (R134); a probe has no requester (R140). -/
inductive Requester
  | leg (r : LegRef)
  | watch (d : Degree)
  | probe
deriving DecidableEq, Repr

/-- A scan request (R134): requester, tap (a degree with IN for ingress or OUT for egress) and range. -/
structure ScanRequest where
  requester : Requester
  degree    : Degree
  tap       : MapDir
  first     : Nat
  count     : Nat
deriving DecidableEq, Repr

/-- The scan in flight (R134) with its withdrawal mark (R137). -/
structure ScanFlight where
  request   : ScanRequest
  issue     : Nat
  timer     : Nat
  reissue   : Bool
  withdrawn : Bool
deriving DecidableEq, Repr

inductive MonitorState
  | ok | retrying | fault
deriving DecidableEq, Repr

/-- The monitor port (R134). -/
structure Monitor where
  queue     : List ScanRequest
  flight    : Option ScanFlight
  nextIssue : Nat
  state     : MonitorState
  probe     : Option Nat
deriving DecidableEq, Repr

/-- A set-level command in flight (R142). -/
structure ActuatorFlight where
  leg       : LegRef
  first     : Nat
  count     : Nat
  requested : Level
  issue     : Nat
  timer     : Nat
deriving DecidableEq, Repr

/-- An actuator port (R142). -/
structure Actuator where
  faulted   : Bool
  flight    : Option ActuatorFlight
  nextIssue : Nat
deriving DecidableEq, Repr

/-! ### Links and ports -/

/-- The five error counts of a supervisory link unit (R146). -/
structure LinkCounts where
  corrected     : Nat
  uncorrectable : Nat
  bodyBad       : Nat
  unknownKind   : Nat
  dropped       : Nat
deriving DecidableEq, Repr

/-- A supervisory link unit (R146). The neighbour is (node id, degree). `handed` is the MODEL's own: the bytes of the last
message handed to the framer (log 14). -/
structure Link where
  up           : Bool
  neighbour    : Option (Nat × Nat)
  timeout      : Option Nat
  helloTimer   : Option Nat
  pendingHello : Bool
  queue        : List Message
  counts       : LinkCounts
  localFlags   : ErrorFlags
  farFlags     : ErrorFlags
  handed       : List Byte
deriving DecidableEq, Repr

inductive EventKind
  | dark | actuator | monitor | link
deriving DecidableEq, Repr

/-- A notice (R168). `state` of a DEGREE_EVENT is its new state's code (R185). -/
inductive Notice
  | reserved (job : JobId)
  | refused (job : JobId) (cause : Cause) (node : Nat)
  | lockQuery (job : JobId) (dir : Dir)
  | commissioned (job : JobId)
  | closing (job : JobId)
  | closed (job : JobId)
  | failed (job : JobId) (f : Failure)
  | degreeEvent (kind : EventKind) (degree : Option Degree) (state : Nat) (time : BitVec 32)
deriving DecidableEq, Repr

/-- A reply (R162): DONE with the items of its results, or REFUSED with one reason. -/
inductive Reply
  | done (items : List Item)
  | refused (reason : Reason)
deriving DecidableEq, Repr

/-- What a transmit queue holds (R161): a reply with the request's tag (all its segments, R181), or a notice. -/
inductive TxFrame
  | reply (tag : Byte) (r : Reply)
  | notice (n : Notice)
deriving DecidableEq, Repr

/-- A slot link unit (R157). `receive` is none in HUNT, else the bytes received after the marker. `segmentsSent` counts the
segments of the queue's first frame already sent (R181). `lastSent` is the MODEL's own: the wire bytes of the last frame the
transmitter finished (log 14). -/
structure SlotLink where
  receive        : Option (List Byte)
  gap            : Option Nat
  up             : Bool
  silence        : Option Nat
  tx             : List TxFrame
  discarded      : Nat
  overrun        : Nat
  noticesDropped : Nat
  segmentsSent   : Nat
  lastSent       : List Byte
deriving DecidableEq, Repr

/-! ### Results -/

/-- The outcomes of a result record (R170). -/
inductive JobOutcome
  | commissioned | closed | failed | aborted | refused
deriving DecidableEq, Repr

/-- A leg entry of a result record (R170). -/
structure LegEntry where
  egress     : Degree
  target     : Int
  level      : Level
  short      : Bool
  stepsTaken : Nat
  retryCount : Nat
  lastDev    : Option Int
  worst      : Option Int
deriving DecidableEq, Repr

/-- A result record (R170). `failure` holds cause, last verdict and origin node, present for FAILED, ABORTED, REFUSED. -/
structure ResultRecord where
  job       : JobId
  role      : Nat
  outcome   : JobOutcome
  failure   : Option Failure
  time      : BitVec 32
  legs      : List LegEntry
  failLeg   : Option Dir
  preceding : List StepRecord
deriving DecidableEq, Repr

/-- The five outcome counts (R173). -/
structure OutcomeCounts where
  commissioned : Nat
  closed       : Nat
  failed       : Nat
  aborted      : Nat
  refused      : Nat
deriving DecidableEq, Repr

/-- The result store (R169, R173): 32 slots (slot n at place n - 1), the log index, the counts. -/
structure Results where
  slots  : List (Option ResultRecord)
  index  : Nat
  counts : OutcomeCounts
deriving DecidableEq, Repr

/-! ### Parameters -/

/-- The node parameters in the order of R165. -/
structure NodeParams where
  nodeId        : Nat
  holdTime      : Nat
  pathLimit     : Nat
  lockWait      : Nat
  silenceLimit  : Nat
  gapLimit      : Nat
  scanTimeout   : Nat
  watchInterval : Nat
  linkTimeout   : Nat
deriving DecidableEq, Repr

/-- The parameters of a degree in the order of R166. `holdAll` is the hold policy HOLD_ALL. -/
structure DegreeParams where
  enabled           : Bool
  stepSize          : Int
  probeDepth        : Int
  levelFloor        : Int
  levelCeiling      : Int
  outputCeiling     : Int
  guardBand         : Int
  egressTapOffset   : Int
  ingressTapOffset  : Int
  amplifierCount    : Nat
  settleBase        : Nat
  settlePerAmp      : Nat
  tolerance         : Int
  disturbanceLimit  : Int
  observationWindow : Nat
  failRun           : Nat
  scanSpacing       : Nat
  retryLimit        : Nat
  retryInterval     : Nat
  holdAll           : Bool
  losThreshold      : Int
  darkTimeout       : Nat
  headroomTimeout   : Nat
  actuatorTimeout   : Nat
deriving DecidableEq, Repr

/-! ### The machine -/

/-- The whole part. `running` is the node state RUNNING (R175). `jobs` lists the contexts in use in ascending job id (the
order R56 and R97 use; R37 gives them none). `frozenOrder` lists the frozen legs in the order in which they froze (R132).
`pending` is the queue of commands waiting, first in, first out. -/
structure State where
  pending     : List Instr
  running     : Bool
  time        : BitVec 32
  seqCounter  : Nat
  node        : NodeParams
  degrees     : PerDegree DegreeParams
  ports       : PerPort SlotLink
  links       : PerDegree Link
  map         : SpectrumMap
  jobs        : List Context
  frozenOrder : List LegRef
  arbiters    : PerDegree Arbiter
  monitor     : Monitor
  watches     : PerDegree Watch
  actuators   : PerDegree Actuator
  results     : Results
deriving DecidableEq, Repr

/-- The reasons a command could stop the part with a fault: none. Every rule of the spec gives its event an effect; what a
device does wrong is state (actuator FAULT, monitor FAULT) and what a master does wrong is a REFUSED reply. -/
inductive Fault
deriving DecidableEq, Repr

/-- The reasons a command could have no meaning in the model. -/
inductive Refusal
  /-- An arm of `exec` with no meaning would answer this with the command's mnemonic; no arm does. Safe: it stops the run. -/
  | notModelled (mnemonic : String)
deriving DecidableEq, Repr

/-! ### After reset (11.5) -/

/-- R165. -/
def NodeParams.initial : NodeParams where
  nodeId := Config.nodeId.init.toNat
  holdTime := Config.holdTime.init.toNat
  pathLimit := Config.pathLimit.init.toNat
  lockWait := Config.lockWait.init.toNat
  silenceLimit := Config.silenceLimit.init.toNat
  gapLimit := Config.gapLimit.init.toNat
  scanTimeout := Config.scanTimeout.init.toNat
  watchInterval := Config.watchInterval.init.toNat
  linkTimeout := Config.linkTimeout.init.toNat

/-- R166. -/
def DegreeParams.initial : DegreeParams where
  enabled := false
  stepSize := Config.stepSize.init
  probeDepth := Config.probeDepth.init
  levelFloor := Config.levelFloor.init
  levelCeiling := Config.levelCeiling.init
  outputCeiling := Config.outputCeiling.init
  guardBand := Config.guardBand.init
  egressTapOffset := Config.egressTapOffset.init
  ingressTapOffset := Config.ingressTapOffset.init
  amplifierCount := Config.amplifierCount.init.toNat
  settleBase := Config.settleBase.init.toNat
  settlePerAmp := Config.settlePerAmp.init.toNat
  tolerance := Config.tolerance.init
  disturbanceLimit := Config.disturbanceLimit.init
  observationWindow := Config.observationWindow.init.toNat
  failRun := Config.failRun.init.toNat
  scanSpacing := Config.scanSpacing.init.toNat
  retryLimit := Config.retryLimit.init.toNat
  retryInterval := Config.retryInterval.init.toNat
  holdAll := false
  losThreshold := Config.losThreshold.init
  darkTimeout := Config.darkTimeout.init.toNat
  headroomTimeout := Config.headroomTimeout.init.toNat
  actuatorTimeout := Config.actuatorTimeout.init.toNat

/-- R157. -/
def SlotLink.initial : SlotLink where
  receive := none
  gap := none
  up := false
  silence := none
  tx := []
  discarded := 0
  overrun := 0
  noticesDropped := 0
  segmentsSent := 0
  lastSent := []

/-- R146. -/
def Link.initial : Link where
  up := false
  neighbour := none
  timeout := none
  helloTimer := none
  pendingHello := false
  queue := []
  counts := ⟨0, 0, 0, 0, 0⟩
  localFlags := ⟨false, false, false, false⟩
  farFlags := ⟨false, false, false, false⟩
  handed := []

/-- R21. -/
def SpectrumMap.initial : SpectrumMap where
  incoming := PerDegree.const (List.replicate Config.slices .unknown)
  outgoing := PerDegree.const (List.replicate Config.slices .unknown)

/-- R99. -/
def Arbiter.initial : Arbiter where
  token := none
  down := []
  up := []
  wait := []
  backoff := []
  held := false
  lastCheck := none

/-- The watch request of a degree: its ingress tap over (0, 384) (R134). -/
def watchRequest (d : Degree) : ScanRequest := ⟨.watch d, d, .incoming, 0, Config.slices⟩

/-- R134. -/
def Monitor.initial : Monitor where
  queue := [watchRequest .d2, watchRequest .d3, watchRequest .d4]
  flight := some ⟨watchRequest .d1, 0, Config.scanTimeout.init.toNat, false, false⟩
  nextIssue := 1
  state := .ok
  probe := none

/-- R134: LIT, run count 0; watch 1 in flight, the others queued. -/
def Watch.initial (w : WatchState) : Watch := ⟨.lit, 0, w, none⟩

/-- R142. -/
def Actuator.initial : Actuator := ⟨false, none, 0⟩

/-- R169, R173. -/
def Results.initial : Results where
  slots := List.replicate Config.logSlots none
  index := 0
  counts := ⟨0, 0, 0, 0, 0⟩

/-- The part right after reset (R175, 11.5). -/
def State.reset : State where
  pending := []
  running := false
  time := 0#32
  seqCounter := 1
  node := NodeParams.initial
  degrees := PerDegree.const DegreeParams.initial
  ports := PerPort.const SlotLink.initial
  links := PerDegree.const Link.initial
  map := SpectrumMap.initial
  jobs := []
  frozenOrder := []
  arbiters := PerDegree.const Arbiter.initial
  monitor := Monitor.initial
  watches := ⟨Watch.initial .inFlight, Watch.initial .queued, Watch.initial .queued, Watch.initial .queued⟩
  actuators := PerDegree.const Actuator.initial
  results := Results.initial

end Sys2Proof.Machine
end

