-- ==== Sys2Proof/Machine/Arith.lean ====
section
/-! DEFINITION. The arithmetic of chapter 1: the grid, levels and rungs, the power combination and its folds, settle times.
Every level is an exact integer (R3). -/

namespace Sys2Proof.Machine

/-! ### The grid (R1, R2) -/

/-- The last slice of a run. -/
def lastSlice (first count : Nat) : Nat := first + count - 1

/-- A row of the range table of R1: first 0 to 383, count within its bounds, and the run within the grid. -/
def rangeOk (lo hi : Nat) (first count : Int) : Bool :=
  decide (0 ≤ first ∧ first ≤ 383 ∧ (lo : Int) ≤ count ∧ count ≤ (hi : Int) ∧ first + count ≤ (Config.slices : Int))

/-- A channel run: OPEN, RESERVE, RESTORE_LIVE. -/
def channelRunOk (first count : Int) : Bool := rangeOk 2 16 first count
/-- A map query range: QUERY_MAP. -/
def mapQueryOk (first count : Int) : Bool := rangeOk 1 96 first count
/-- A map change range: BLOCK, UNBLOCK. -/
def mapChangeOk (first count : Int) : Bool := rangeOk 1 384 first count

/-- Slice distance of two runs: 0 when they overlap, else the higher run's first slice minus the lower run's last (R2). -/
def sliceDistance (f1 c1 f2 c2 : Nat) : Nat :=
  if lastSlice f1 c1 < f2 then f2 - lastSlice f1 c1
  else if lastSlice f2 c2 < f1 then f1 - lastSlice f2 c2
  else 0

/-- The covering range of a run and further runs, as (first, count) (R2). -/
def covering (first count : Nat) (runs : List (Nat × Nat)) : Nat × Nat :=
  let lo := runs.foldl (fun a r => min a r.1) first
  let hi := runs.foldl (fun a r => max a (lastSlice r.1 r.2)) (lastSlice first count)
  (lo, hi - lo + 1)

/-! ### Target, probe level and rungs (R4 to R9) -/

/-- The width term W[n] of R5, for the counts a channel may have. -/
def widthTerm (n : Nat) : Int :=
  [0, 0, 301, 477, 602, 699, 778, 845, 903, 954, 1000, 1041, 1079, 1114, 1146, 1176, 1204].getD n 0

/-- The target T of a line leg (R5). -/
def targetLevel (density : Int) (count : Nat) : Int := density + widthTerm count

/-- The probe level P of a line leg (R6). -/
def probeLevel (t : Int) (p : DegreeParams) : Int := max (t - p.probeDepth) p.levelFloor

/-- The working ceiling of a degree (R4). -/
def workingCeiling (p : DegreeParams) : Int := if p.levelFloor ≤ p.levelCeiling then p.levelCeiling else p.levelFloor

/-- The top of a leg's ladder (R7). -/
def ladderTop (t : Int) (p : DegreeParams) : Int := min t (workingCeiling p)

/-- The light-on level (R7). -/
def lightOnLevel (probe : Int) (p : DegreeParams) : Int := min probe (workingCeiling p)

/-- The upward request from a level (R7). -/
def upRequest (level t : Int) (p : DegreeParams) : Int := min (level + p.stepSize) (ladderTop t p)

/-- The downward request from a level (R8); an OFF level has no down-step. -/
def downRequest (level : Level) (probe : Int) (p : DegreeParams) : Level :=
  match level with
  | .off => .off
  | .num v => if probe < v then .num (max (v - p.stepSize) probe) else .off

/-- The lower bound of the applied-level clamp of R9 for a numeric request. -/
def appliedBound (request : Int) (p : DegreeParams) : Int := if request < p.levelFloor then request else p.levelFloor

/-- The recorded applied level for a numeric request (R9): the reported level clamped from the lower bound up to the
request; a reported OFF is the lower bound. -/
def recordedLevel (request : Int) (reported : Level) (p : DegreeParams) : Int :=
  match reported with
  | .off => appliedBound request p
  | .num v => if request < v then request else if v < appliedBound request p then appliedBound request p else v

/-- A level as a number to compare with: OFF stands below every number (R124). -/
def Level.below (a b : Level) : Bool :=
  match a, b with
  | .off, .off => false
  | .off, .num _ => true
  | .num _, .off => false
  | .num x, .num y => decide (x < y)

/-! ### Combining powers (R10 to R14) -/

/-- The term F[k] of R10; 0 from k = 25 on. -/
def combineTerm (k : Nat) : Int :=
  [301, 277, 254, 232, 212, 194, 176, 160, 146, 132, 119, 108, 97, 88, 79, 71, 64, 57, 51, 46, 41, 37, 33, 30, 27].getD k 0

/-- The combination of two levels (R10). -/
def combine (a b : Int) : Int := max a b + combineTerm (((a - b).natAbs + 25) / 50)

/-- A fold of levels in list order, saturating at +4500 after each combination (R11). -/
def foldLevels : List Int → Int
  | [] => Config.emptyFold
  | x :: xs => xs.foldl (fun acc y => min (combine acc y) Config.foldMax) x

/-- A reading clamped on arrival (R12, R136). -/
def clampReading (r : Int) : Int := max Config.readingMin (min r Config.readingMax)

/-- The channel level of a run in a scan whose range begins at slice `scanFirst` (R12). -/
def channelLevel (scanFirst first count : Nat) (readings : List Int) : Int :=
  foldLevels ((readings.drop (first - scanFirst)).take count)

/-- The settle time of a step (R18). -/
def settleTime (kind : StepKind) (p : DegreeParams) : Nat :=
  let single := p.settleBase + p.settlePerAmp * p.amplifierCount
  min (if kind = .lightOn then 2 * single else single) Config.settleMax

/-- Of two signed differences the one kept as the worst: replaced only by strictly greater magnitude (R17). -/
def worseOf (kept : Option Int) (x : Int) : Option Int :=
  match kept with
  | none => some x
  | some k => if k.natAbs < x.natAbs then some x else some k

/-- The first of greatest magnitude of a list; absent for none (R17). -/
def worstOf (xs : List Int) : Option Int := xs.foldl worseOf none

/-- A list kept ascending by a key: an element goes behind the elements of equal key. -/
def insertBy {α : Type} (lt : α → α → Bool) (a : α) : List α → List α
  | [] => [a]
  | b :: bs => if lt a b then a :: b :: bs else b :: insertBy lt a bs

/-- A list in ascending order of a key. -/
def sortBy {α : Type} (lt : α → α → Bool) : List α → List α
  | [] => []
  | a :: as => insertBy lt a (sortBy lt as)

end Sys2Proof.Machine
end

