-- ==== Sys2Proof/Machine/Ops.lean ====
section
/-! DEFINITION. The named operations over the state that every meaning is built from: the units' records, the transmit and
outbound queues, notices, the job table and its legs, the result log, and the passing of a millisecond. -/

namespace Sys2Proof.Machine

/-- A count one higher, saturating at 65535 (00 "Counts"). -/
def bump (n : Nat) : Nat := min (n + 1) Config.countMax

/-! ### The units' records -/

def State.deg (s : State) (d : Degree) : DegreeParams := s.degrees.get d
def State.port (s : State) (p : Port) : SlotLink := s.ports.get p
def State.link (s : State) (d : Degree) : Link := s.links.get d
def State.arb (s : State) (d : Degree) : Arbiter := s.arbiters.get d
def State.watch (s : State) (d : Degree) : Watch := s.watches.get d
def State.act (s : State) (d : Degree) : Actuator := s.actuators.get d

def modPort (p : Port) (f : SlotLink → SlotLink) (s : State) : State :=
  { s with ports := s.ports.set p (f (s.ports.get p)) }

def modLink (d : Degree) (f : Link → Link) (s : State) : State :=
  { s with links := s.links.set d (f (s.links.get d)) }

def modArb (d : Degree) (f : Arbiter → Arbiter) (s : State) : State :=
  { s with arbiters := s.arbiters.set d (f (s.arbiters.get d)) }

def modWatch (d : Degree) (f : Watch → Watch) (s : State) : State :=
  { s with watches := s.watches.set d (f (s.watches.get d)) }

def modAct (d : Degree) (f : Actuator → Actuator) (s : State) : State :=
  { s with actuators := s.actuators.set d (f (s.actuators.get d)) }

def modMonitor (f : Monitor → Monitor) (s : State) : State := { s with monitor := f s.monitor }

def modResults (f : Results → Results) (s : State) : State := { s with results := f s.results }

/-! ### Replies, notices and path messages -/

/-- A reply placed on the transmit queue of the port its request arrived on (R161, R162). -/
def reply (p : Port) (tag : Byte) (r : Reply) (s : State) : State :=
  modPort p (fun u => { u with tx := u.tx ++ [.reply tag r] }) s

/-- A DONE reply. -/
def replyDone (p : Port) (tag : Byte) (items : List Item) (s : State) : State := reply p tag (.done items) s

/-- A REFUSED reply, which changes nothing else (R162). -/
def replyRefused (p : Port) (tag : Byte) (r : Reason) (s : State) : State := reply p tag (.refused r) s

/-- What raising a notice for a port does to it: nothing when the port is DOWN; placed below 24 frames, else dropped and
counted (R161, R168). -/
def takeNotice (n : Notice) (u : SlotLink) : SlotLink :=
  if u.up then
    if u.tx.length < Config.noticeLimit then { u with tx := u.tx ++ [.notice n] }
    else { u with noticesDropped := bump u.noticesDropped }
  else u

/-- A notice raised for one port (R168). -/
def notify (p : Port) (n : Notice) (s : State) : State := modPort p (takeNotice n) s

/-- A notice raised for a job's owner port; a context without one raises none (R54, R168). -/
def notifyOwner (owner : Option Port) (n : Notice) (s : State) : State :=
  match owner with
  | some p => notify p n s
  | none => s

/-- A DEGREE_EVENT on every slot link that is UP (R145). -/
def announce (kind : EventKind) (d : Option Degree) (code : Nat) (s : State) : State :=
  { s with ports :=
      let n := takeNotice (.degreeEvent kind d code s.time)
      ⟨n s.ports.p1, n s.ports.p2, n s.ports.p3, n s.ports.p4, n s.ports.p5, n s.ports.p6, n s.ports.p7, n s.ports.p8⟩ }

/-- What placing a path message does to a link unit (R149). -/
def takeMessage (enabled : Bool) (m : Message) (l : Link) : Link :=
  if enabled && l.up then
    if l.queue.length < Config.maxMessages then { l with queue := l.queue ++ [m] }
    else { l with counts := { l.counts with dropped := bump l.counts.dropped } }
  else l

/-- A path message placed for sending on a degree (R66, R75, R149). -/
def send (d : Degree) (m : Message) (s : State) : State := modLink d (takeMessage (s.deg d).enabled m) s

/-- A path message on a degree the context may not have. -/
def sendOn (d : Option Degree) (m : Message) (s : State) : State :=
  match d with
  | some d => send d m s
  | none => s

/-! ### Places, legs and contexts -/

def Place.up? : Place → Option Degree
  | .head _ => none
  | .transit u _ => some u
  | .tail u => some u

def Place.down? : Place → Option Degree
  | .head d => some d
  | .transit _ d => some d
  | .tail _ => none

/-- The role's code (R185). -/
def Place.role : Place → Nat
  | .head _ => 0
  | .transit _ _ => 1
  | .tail _ => 2

/-- A line leg at its creation by reservation (R46). -/
def newLineLeg (ingress : Point) (egress : Degree) (t : Int) (p : DegreeParams) : LineLeg where
  ingress := ingress
  egress := egress
  target := t
  probe := probeLevel t p
  level := .off
  state := .dark
  stepsTaken := 0
  retryCount := 0
  short := false
  unverified := false
  verified := none
  lastDev := none
  worst := none
  history := []
  step := none
  frozen := none
  settle := none
  spacing := none
  retry := none
  darkTimer := none
  headroom := none

/-- The forward leg of a role (R41). -/
def forwardLeg (place : Place) (t : Int) (params : PerDegree DegreeParams) : Leg :=
  match place with
  | .head d => .line (newLineLeg .bank d t (params.get d))
  | .transit u d => .line (newLineLeg (.line u) d t (params.get d))
  | .tail u => .drop u

/-- The reverse leg of a role (R41). -/
def reverseLeg (place : Place) (t : Int) (params : PerDegree DegreeParams) : Leg :=
  match place with
  | .head d => .drop d
  | .transit u d => .line (newLineLeg (.line d) u t (params.get u))
  | .tail u => .line (newLineLeg .bank u t (params.get u))

/-- The egress degrees of the line legs a role has, forward first (R41). -/
def lineEgress (place : Place) (bidir : Bool) : List Degree :=
  match place, bidir with
  | .head d, _ => [d]
  | .transit _ d, false => [d]
  | .transit u d, true => [d, u]
  | .tail _, false => []
  | .tail u, true => [u]

/-- The line leg a leg is, if it is one. -/
def Leg.line? : Leg → Option LineLeg
  | .line l => some l
  | .drop _ => none

def Leg.mapLine (f : LineLeg → LineLeg) : Leg → Leg
  | .line l => .line (f l)
  | .drop d => .drop d

/-- The runs a leg uses: the incoming table of an ingress degree, the outgoing table of an egress degree (R20). -/
def Leg.runs : Leg → List (Degree × MapDir)
  | .line l =>
    (match l.ingress with
     | .bank => []
     | .line d => [(d, .incoming)]) ++ [(l.egress, .outgoing)]
  | .drop d => [(d, .incoming)]

/-- A context's legs, forward first, with their directions. -/
def Context.legs (c : Context) : List (Dir × Leg) :=
  (.fwd, c.fwd) :: (match c.rev with
    | some l => [(.rev, l)]
    | none => [])

def Context.leg? (c : Context) : Dir → Option Leg
  | .fwd => some c.fwd
  | .rev => c.rev

/-- The line leg of a direction. -/
def Context.line? (c : Context) (d : Dir) : Option LineLeg := (c.leg? d).bind Leg.line?

/-- A context's line legs, forward first, with their directions. -/
def Context.lineLegs (c : Context) : List (Dir × LineLeg) :=
  c.legs.filterMap (fun x => x.2.line?.map (fun l => (x.1, l)))

/-- The job's entry set at this node, as runs of tables (R20). -/
def Context.entrySet (c : Context) : List (Degree × MapDir) := c.legs.flatMap (fun x => x.2.runs)

/-- Whether a degree is the context's upstream or downstream degree (R166 "used"). -/
def Context.uses (c : Context) (d : Degree) : Bool := c.place.up? == some d || c.place.down? == some d

/-- A change of the line leg of one direction. -/
def Context.mapLine (c : Context) (dir : Dir) (f : LineLeg → LineLeg) : Context :=
  match dir with
  | .fwd => { c with fwd := c.fwd.mapLine f }
  | .rev => { c with rev := c.rev.map (Leg.mapLine f) }

/-- Every line leg of the context is in leg state OFF. -/
def Context.allOff (c : Context) : Bool := c.lineLegs.all (fun x => x.2.state == .off)

/-- Every line leg of the context is AT_TARGET. -/
def Context.allAtTarget (c : Context) : Bool := c.lineLegs.all (fun x => x.2.state == .atTarget)

/-! ### The job table -/

/-- The context in use that carries a job id (R37). -/
def State.ctx? (s : State) (id : JobId) : Option Context := s.jobs.find? (fun c => c.id = id)

/-- A change of the context of a job. -/
def modCtx (id : JobId) (f : Context → Context) (s : State) : State :=
  { s with jobs := s.jobs.map (fun c => if c.id = id then f c else c) }

/-- A context put in use, at its place in ascending job id. -/
def insertCtx (c : Context) : List Context → List Context
  | [] => [c]
  | b :: bs => if c.id.before b.id then c :: b :: bs else b :: insertCtx c bs

def addCtx (c : Context) (s : State) : State := { s with jobs := insertCtx c s.jobs }

/-- The context of a job dropped from the table. -/
def dropCtx (id : JobId) (s : State) : State := { s with jobs := s.jobs.filter (fun c => c.id ≠ id) }

/-- A line leg by its reference. -/
def State.leg? (s : State) (r : LegRef) : Option LineLeg := (s.ctx? r.job).bind (fun c => c.line? r.dir)

/-- A change of a line leg. -/
def modLeg (r : LegRef) (f : LineLeg → LineLeg) (s : State) : State := modCtx r.job (fun c => c.mapLine r.dir f) s

/-- Some context uses the degree (R166). -/
def State.degreeUsed (s : State) (d : Degree) : Bool := s.jobs.any (fun c => c.uses d)

/-- The sequence value to give (R39): the first from `v` on, wrapping from 65535 to 1, whose job id no context carries.
At most 64 contexts are in use, so 65 tries always find one. -/
def freeSequence (s : State) : Nat → Nat → Nat
  | 0, v => v
  | k + 1, v => if (s.ctx? ⟨s.node.nodeId, v⟩).isSome then freeSequence s k (if v = 65535 then 1 else v + 1) else v

/-! ### The result log (R169 to R172) -/

def LineLeg.entry (l : LineLeg) : LegEntry :=
  ⟨l.egress, l.target, l.level, l.short, l.stepsTaken, l.retryCount, l.lastDev, l.worst⟩

/-- The leg entries of a record: one per line leg, forward first; none for REFUSED (R170). -/
def legEntries (o : JobOutcome) (c : Context) : List LegEntry :=
  if o = .refused then [] else c.lineLegs.map (fun x => x.2.entry)

def OutcomeCounts.bump (o : JobOutcome) (n : OutcomeCounts) : OutcomeCounts :=
  match o with
  | .commissioned => { n with commissioned := Machine.bump n.commissioned }
  | .closed => { n with closed := Machine.bump n.closed }
  | .failed => { n with failed := Machine.bump n.failed }
  | .aborted => { n with aborted := Machine.bump n.aborted }
  | .refused => { n with refused := Machine.bump n.refused }

/-- The slot a record goes into: the one after the index, slot 32 followed by slot 1 (R169). -/
def nextSlot (index : Nat) : Nat := if index < Config.logSlots then index + 1 else 1

/-- A record written into the log and counted (R169, R171). -/
def Results.write (r : ResultRecord) (x : Results) : Results where
  slots := x.slots.set (nextSlot x.index - 1) (some r)
  index := nextSlot x.index
  counts := x.counts.bump r.outcome

/-- A result record of a context (R170 to R172). -/
def writeResult (c : Context) (o : JobOutcome) (failure : Option Failure) (s : State) : State :=
  let copied := o = .failed ∧ c.failSteps ≠ []
  modResults (Results.write
    { job := c.id, role := c.place.role, outcome := o, failure := failure, time := s.time, legs := legEntries o c,
      failLeg := if copied then c.failLeg else none, preceding := if copied then c.failSteps else [] }) s

/-! ### Time -/

def tickTimer (t : Option Nat) : Option Nat := t.map (· - 1)

/-- A timer has run out: it runs and has no time left. An expiry is taken of such a timer alone, so that the expiry of a run that a
restart or a stop has ended does not happen (R44, R50, R138, R143, R155, R158, R160; log 2). -/
def ranOut (t : Option Nat) : Bool := t == some 0

def LineLeg.tick (l : LineLeg) : LineLeg :=
  { l with settle := tickTimer l.settle, spacing := tickTimer l.spacing, retry := tickTimer l.retry,
           darkTimer := tickTimer l.darkTimer, headroom := tickTimer l.headroom }

def Context.tick (c : Context) : Context :=
  { c with hold := tickTimer c.hold, path := tickTimer c.path, lock := tickTimer c.lock, teardown := tickTimer c.teardown,
           fwd := c.fwd.mapLine LineLeg.tick, rev := c.rev.map (Leg.mapLine LineLeg.tick) }

def SlotLink.tick (u : SlotLink) : SlotLink := { u with gap := tickTimer u.gap, silence := tickTimer u.silence }

def Link.tick (l : Link) : Link := { l with timeout := tickTimer l.timeout, helloTimer := tickTimer l.helloTimer }

def Watch.tick (w : Watch) : Watch := { w with interval := tickTimer w.interval }

def Monitor.tick (m : Monitor) : Monitor :=
  { m with probe := tickTimer m.probe, flight := m.flight.map (fun f => { f with timer := f.timer - 1 }) }

def Actuator.tick (a : Actuator) : Actuator :=
  { a with flight := a.flight.map (fun f => { f with timer := f.timer - 1 }) }

/-- One millisecond: the time count advances and wraps, and every running timer has one less to run (log 1). A timer at 0 stays
at 0 until its expiry is taken (log 2). -/
def tick (s : State) : State :=
  { s with
    time := s.time + 1#32
    ports := ⟨s.ports.p1.tick, s.ports.p2.tick, s.ports.p3.tick, s.ports.p4.tick, s.ports.p5.tick, s.ports.p6.tick,
      s.ports.p7.tick, s.ports.p8.tick⟩
    links := ⟨s.links.d1.tick, s.links.d2.tick, s.links.d3.tick, s.links.d4.tick⟩
    jobs := s.jobs.map Context.tick
    monitor := s.monitor.tick
    watches := ⟨s.watches.d1.tick, s.watches.d2.tick, s.watches.d3.tick, s.watches.d4.tick⟩
    actuators := ⟨s.actuators.d1.tick, s.actuators.d2.tick, s.actuators.d3.tick, s.actuators.d4.tick⟩ }

end Sys2Proof.Machine
end

