-- ==== Sys2Proof/Machine/Map.lean ====
section
/-! DEFINITION. The spectrum map's changes (chapter 2). Every change is one act over all the entries it concerns (R22), and a
change for a job acts only on entries that name the job and stand in a state it starts from. -/

namespace Sys2Proof.Machine

/-- A change of `count` entries of a table from slice `first` on. -/
def onRange {α : Type} (f : α → α) : Nat → Nat → List α → List α
  | _, _, [] => []
  | k + 1, n, x :: xs => x :: onRange f k n xs
  | 0, 0, x :: xs => x :: xs
  | 0, n + 1, x :: xs => f x :: onRange f 0 n xs

/-- The `count` entries of a table from slice `first` on. -/
def readRange {α : Type} (first count : Nat) (l : List α) : List α := (l.drop first).take count

def SpectrumMap.table (m : SpectrumMap) (d : Degree) : MapDir → List SliceEntry
  | .incoming => m.incoming.get d
  | .outgoing => m.outgoing.get d

def SpectrumMap.setTable (m : SpectrumMap) (d : Degree) (dir : MapDir) (t : List SliceEntry) : SpectrumMap :=
  match dir with
  | .incoming => { m with incoming := m.incoming.set d t }
  | .outgoing => { m with outgoing := m.outgoing.set d t }

/-- The entries of one run. -/
def SpectrumMap.read (m : SpectrumMap) (d : Degree) (dir : MapDir) (first count : Nat) : List SliceEntry :=
  readRange first count (m.table d dir)

/-- A change of one run. -/
def SpectrumMap.change (f : SliceEntry → SliceEntry) (first count : Nat) (m : SpectrumMap) (run : Degree × MapDir) :
    SpectrumMap :=
  m.setTable run.1 run.2 (onRange f first count (m.table run.1 run.2))

/-- A change of several runs of the same slices. -/
def SpectrumMap.changeRuns (f : SliceEntry → SliceEntry) (first count : Nat) (runs : List (Degree × MapDir))
    (m : SpectrumMap) : SpectrumMap :=
  runs.foldl (SpectrumMap.change f first count) m

/-- The entries of several runs of the same slices. -/
def SpectrumMap.readRuns (m : SpectrumMap) (first count : Nat) (runs : List (Degree × MapDir)) : List SliceEntry :=
  runs.flatMap (fun r => m.read r.1 r.2 first count)

/-! ### What each change does to an entry -/

/-- Reservation take at a head or transit node (R23). -/
def SliceEntry.take (id : JobId) : SliceEntry → SliceEntry
  | .free => .held id
  | e => e

/-- Reservation take at the tail (R26). -/
def SliceEntry.takeBooked (id : JobId) : SliceEntry → SliceEntry
  | .free => .booked id
  | e => e

/-- Confirmation (R26). -/
def SliceEntry.confirm (id : JobId) : SliceEntry → SliceEntry
  | .held j => if j = id then .booked id else .held j
  | e => e

/-- Lighting of a run (R27, R28). -/
def SliceEntry.light (id : JobId) : SliceEntry → SliceEntry
  | .booked j => if j = id then .lit id else .booked j
  | e => e

/-- Acceptance (R29). -/
def SliceEntry.accept (id : JobId) : SliceEntry → SliceEntry
  | .booked j => if j = id then .live id else .booked j
  | .lit j => if j = id then .live id else .lit j
  | e => e

/-- Release (R30). -/
def SliceEntry.release (id : JobId) : SliceEntry → SliceEntry
  | .held j => if j = id then .free else .held j
  | .booked j => if j = id then .free else .booked j
  | .lit j => if j = id then .free else .lit j
  | .live j => if j = id then .free else .live j
  | e => e

/-- Abandonment (R31). -/
def SliceEntry.abandon (id : JobId) : SliceEntry → SliceEntry
  | .lit j => if j = id then .blocked .abandoned else .lit j
  | .live j => if j = id then .blocked .abandoned else .live j
  | e => e

/-- BLOCK (R32). -/
def SliceEntry.block : SliceEntry → SliceEntry
  | .free => .blocked .admin
  | e => e

/-- UNBLOCK (R33). -/
def SliceEntry.unblock : SliceEntry → SliceEntry
  | .blocked _ => .free
  | e => e

/-- Restore (R35). -/
def SliceEntry.restore (id : JobId) : SliceEntry → SliceEntry
  | .unknown => .live id
  | e => e

/-- END_RESTORE (R36). -/
def SliceEntry.endRestore : SliceEntry → SliceEntry
  | .unknown => .free
  | e => e

/-- The job an entry names (R19). -/
def SliceEntry.job? : SliceEntry → Option JobId
  | .held j => some j
  | .booked j => some j
  | .lit j => some j
  | .live j => some j
  | _ => none

def SliceEntry.isBlocked : SliceEntry → Bool
  | .blocked _ => true
  | _ => false

/-- The code of an entry's state (R185). -/
def SliceEntry.code : SliceEntry → Nat
  | .unknown => 0
  | .free => 1
  | .held _ => 2
  | .booked _ => 3
  | .lit _ => 4
  | .live _ => 5
  | .blocked .admin => 6
  | .blocked .abandoned => 7

/-- The reservation check's verdict on a whole entry set (R23, R24): none when every entry is FREE, else the cause. -/
def reservationCause (entries : List SliceEntry) : Option Cause :=
  if entries.all (· == .free) then none
  else if entries.any (fun e => e.job?.isSome) then some .conflict
  else if entries.any SliceEntry.isBlocked then some .blocked
  else some .nodeStarting

/-! ### Changes of the state's map -/

def modMap (f : SpectrumMap → SpectrumMap) (s : State) : State := { s with map := f s.map }

/-- A change over runs of a context's slices. -/
def changeFor (c : Context) (runs : List (Degree × MapDir)) (f : SliceEntry → SliceEntry) (s : State) : State :=
  modMap (SpectrumMap.changeRuns f c.first c.count runs) s

/-- Release of a context's whole entry set (R30). -/
def releaseSet (c : Context) (s : State) : State := changeFor c c.entrySet (SliceEntry.release c.id) s

/-- Every entry of every degree-direction changed (R36). -/
def SpectrumMap.mapAll (f : SliceEntry → SliceEntry) (m : SpectrumMap) : SpectrumMap where
  incoming := ⟨m.incoming.d1.map f, m.incoming.d2.map f, m.incoming.d3.map f, m.incoming.d4.map f⟩
  outgoing := ⟨m.outgoing.d1.map f, m.outgoing.d2.map f, m.outgoing.d3.map f, m.outgoing.d4.map f⟩

/-- How many entries of a range a change leaves as they are (R32, R33). -/
def unchanged (f : SliceEntry → SliceEntry) (entries : List SliceEntry) : Nat := entries.countP (fun e => f e == e)

end Sys2Proof.Machine
end

