-- ==== Sys2Proof/Machine/Operands.lean ====
section
/-! DEFINITION. How the fields of requests and messages are read: clamping (R167), enumerated codes (R185), routes (R58), and
the form and place of a restored job (R176). -/

namespace Sys2Proof.Machine

/-- A value clamped into a parameter's range (R167). -/
def clampTo (r : Config.Range) (v : Int) : Int := max r.lo (min v r.hi)

/-- A parameter after a request: the clamped value when the field is present, else as stored (R165, R166). -/
def storeInt (r : Config.Range) (field : Option Int) (stored : Int) : Int :=
  match field with
  | some v => clampTo r v
  | none => stored

/-- The same for a parameter that is never negative. -/
def storeNat (r : Config.Range) (field : Option Int) (stored : Nat) : Nat :=
  match field with
  | some v => (clampTo r v).toNat
  | none => stored

/-- The same for a two-valued parameter coded 0 and 1. -/
def storeBool (field : Option Int) (stored : Bool) : Bool :=
  match field with
  | some v => v == 1
  | none => stored

/-- A two-valued code: 0 or 1 (R185). -/
def bitOk (v : Int) : Bool := v == 0 || v == 1

/-- The node parameters SET_NODE stores (R165). -/
def NodeParams.apply (f : NodeFields) (n : NodeParams) : NodeParams where
  nodeId := storeNat Config.nodeId f.nodeId n.nodeId
  holdTime := storeNat Config.holdTime f.holdTime n.holdTime
  pathLimit := storeNat Config.pathLimit f.pathLimit n.pathLimit
  lockWait := storeNat Config.lockWait f.lockWait n.lockWait
  silenceLimit := storeNat Config.silenceLimit f.silenceLimit n.silenceLimit
  gapLimit := storeNat Config.gapLimit f.gapLimit n.gapLimit
  scanTimeout := storeNat Config.scanTimeout f.scanTimeout n.scanTimeout
  watchInterval := storeNat Config.watchInterval f.watchInterval n.watchInterval
  linkTimeout := storeNat Config.linkTimeout f.linkTimeout n.linkTimeout

/-- The degree parameters SET_DEGREE stores (R166). -/
def DegreeParams.apply (f : DegreeFields) (p : DegreeParams) : DegreeParams where
  enabled := storeBool f.enabled p.enabled
  stepSize := storeInt Config.stepSize f.stepSize p.stepSize
  probeDepth := storeInt Config.probeDepth f.probeDepth p.probeDepth
  levelFloor := storeInt Config.levelFloor f.levelFloor p.levelFloor
  levelCeiling := storeInt Config.levelCeiling f.levelCeiling p.levelCeiling
  outputCeiling := storeInt Config.outputCeiling f.outputCeiling p.outputCeiling
  guardBand := storeInt Config.guardBand f.guardBand p.guardBand
  egressTapOffset := storeInt Config.egressTapOffset f.egressTapOffset p.egressTapOffset
  ingressTapOffset := storeInt Config.ingressTapOffset f.ingressTapOffset p.ingressTapOffset
  amplifierCount := storeNat Config.amplifierCount f.amplifierCount p.amplifierCount
  settleBase := storeNat Config.settleBase f.settleBase p.settleBase
  settlePerAmp := storeNat Config.settlePerAmp f.settlePerAmp p.settlePerAmp
  tolerance := storeInt Config.tolerance f.tolerance p.tolerance
  disturbanceLimit := storeInt Config.disturbanceLimit f.disturbanceLimit p.disturbanceLimit
  observationWindow := storeNat Config.observationWindow f.observationWindow p.observationWindow
  failRun := storeNat Config.failRun f.failRun p.failRun
  scanSpacing := storeNat Config.scanSpacing f.scanSpacing p.scanSpacing
  retryLimit := storeNat Config.retryLimit f.retryLimit p.retryLimit
  retryInterval := storeNat Config.retryInterval f.retryInterval p.retryInterval
  holdAll := storeBool f.holdPolicy p.holdAll
  losThreshold := storeInt Config.losThreshold f.losThreshold p.losThreshold
  darkTimeout := storeNat Config.darkTimeout f.darkTimeout p.darkTimeout
  headroomTimeout := storeNat Config.headroomTimeout f.headroomTimeout p.headroomTimeout
  actuatorTimeout := storeNat Config.actuatorTimeout f.actuatorTimeout p.actuatorTimeout

/-- The density a route may carry (R5). -/
def densityOk (v : Int) : Bool := decide (-2000 ≤ v ∧ v ≤ 500)

/-- A node id (00 "Nodes and jobs"). -/
def nodeIdOk (n : Nat) : Bool := decide (1 ≤ n ∧ n ≤ 65534)

/-- The degree a hop names as its egress point, if it names one. -/
def hopDegree (h : RawHop) : Option Degree := Degree.ofInt h.egress

/-- A hop before the last: a degree as egress point, no drop port (R58). -/
def hopMidOk (h : RawHop) : Bool := nodeIdOk h.node && (hopDegree h).isSome && h.drop == 0

/-- The last hop: egress point L, a drop port 1 to 8 (R58). -/
def hopLastOk (h : RawHop) : Bool := nodeIdOk h.node && h.egress == 0 && (Port.ofInt h.drop).isSome

/-- Every hop before the last is a mid hop and the last is a last hop. -/
def hopsOk : List RawHop → Bool
  | [] => false
  | [h] => hopLastOk h
  | h :: hs => hopMidOk h && hopsOk hs

/-- The form check of a route (R58). -/
def routeOk (route : List RawHop) : Bool :=
  decide (2 ≤ route.length ∧ route.length ≤ 16) && decide ((route.map (·.node)).Nodup) && hopsOk route

/-- The form of RESTORE_LIVE (R176, R180): role and bidirectional are among their codes, and exactly the fields the role
requires are present, with one level for each line leg. -/
def restoreFits (f : RestoreFields) : Bool :=
  let levels : Nat := if f.role = 1 then (if f.bidir = 1 then 2 else 1) else if f.role = 0 then 1
    else (if f.bidir = 1 then 1 else 0)
  decide (0 ≤ f.role ∧ f.role ≤ 2) && bitOk f.bidir
    && (f.owner.isSome == decide (f.role ≠ 1))
    && (f.upstream.isSome == decide (f.role ≠ 0))
    && (f.downstream.isSome == decide (f.role ≠ 2))
    && (f.level1.isSome == decide (1 ≤ levels))
    && (f.level2.isSome == decide (levels = 2))

/-- The place of a restored job: its degrees lie in range, and a TRANSIT's two differ (R176 check 2). -/
def restorePlace (f : RestoreFields) : Option Place :=
  let up := f.upstream.bind Degree.ofInt
  let down := f.downstream.bind Degree.ofInt
  if f.role = 0 then down.map Place.head
  else if f.role = 2 then up.map Place.tail
  else match up, down with
    | some u, some d => if u = d then none else some (.transit u d)
    | _, _ => none

/-- Check 2 of R176 but for the degrees: job id, hop index, owner port, run and density. -/
def restoreRangesOk (f : RestoreFields) : Bool :=
  decide (1 ≤ f.job.head ∧ f.job.head ≤ 65534 ∧ 1 ≤ f.job.seq ∧ f.job.seq ≤ 65535)
    && (if f.role = 0 then f.hopIndex == 0 else decide (1 ≤ f.hopIndex ∧ f.hopIndex ≤ 15))
    && f.owner.all (fun v => (Port.ofInt v).isSome)
    && channelRunOk f.first f.count && densityOk f.density

/-- A level as an item carries it: -2147483648 is OFF (R180). -/
def levelOfItem (v : Int) : Level := if v = -2147483648 then .off else .num v

def Level.item : Level → Int
  | .off => -2147483648
  | .num v => v

/-- The levels given to a restored job, forward line leg first. -/
def restoreLevels (f : RestoreFields) : List Level :=
  ([f.level1, f.level2].filterMap id).map levelOfItem

/-- A restored level fits its egress degree: T at or above the floor; a number at or above the floor, at or below the
working ceiling and T (R176 check 3). -/
def restoreLevelOk (t : Int) (p : DegreeParams) : Level → Bool
  | .off => false
  | .num v => decide (p.levelFloor ≤ t ∧ p.levelFloor ≤ v ∧ v ≤ workingCeiling p ∧ v ≤ t)

end Sys2Proof.Machine
end

