-- ==== Sys2Proof/Machine/Flags.lean ====
section
/-! DEFINITION. Flags, counts and verdicts: the receive-error flags of a link (R150 to R156), the dark decision (R15), the
judgement of a scan (R17), the hold status (R108) and the unverified flag (R132). -/

namespace Sys2Proof.Machine

/-! ### Receive errors of a supervisory link (R156) -/

def noErrors : ErrorFlags := ⟨false, false, false, false⟩

/-- A header corrected: counted and flagged (R150). A clean one leaves the unit as it is. -/
def Link.noteHeader (h : Header) (l : Link) : Link :=
  match h with
  | .clean => l
  | .corrected =>
    { l with counts := { l.counts with corrected := bump l.counts.corrected },
             localFlags := { l.localFlags with corrected := true } }

/-- A header found uncorrectable (R150). -/
def Link.noteUncorrectable (l : Link) : Link :=
  { l with counts := { l.counts with uncorrectable := bump l.counts.uncorrectable },
           localFlags := { l.localFlags with uncorrectable := true } }

/-- A message discarded as unknown kind (R151). -/
def Link.noteUnknownKind (l : Link) : Link :=
  { l with counts := { l.counts with unknownKind := bump l.counts.unknownKind },
           localFlags := { l.localFlags with unknownKind := true } }

/-- A message discarded as body bad (R152). -/
def Link.noteBodyBad (l : Link) : Link :=
  { l with counts := { l.counts with bodyBad := bump l.counts.bodyBad },
           localFlags := { l.localFlags with bodyBad := true } }

/-! ### The dark decision (R14, R15) -/

/-- Whether a watch total is low: below the LOS threshold once the tap offset is taken off (R14). -/
def watchLow (total : Int) (p : DegreeParams) : Bool := decide (total - p.ingressTapOffset < p.losThreshold)

/-- The table of R15. -/
def Watch.decide (low : Bool) (w : Watch) : Watch :=
  match w.dark, low with
  | .lit, false => { w with run := 0 }
  | .lit, true => if w.run = 0 then { w with run := 1 } else { w with dark := .dark, run := 0 }
  | .dark, true => { w with run := 0 }
  | .dark, false => if w.run = 0 then { w with run := 1 } else { w with dark := .lit, run := 0 }

/-! ### Verdicts (R17) -/

/-- The code of a verdict (R185). -/
def Verdict.code : Verdict → Nat
  | .none => 0
  | .pass => 1
  | .low => 2
  | .high => 3
  | .disturb => 4
  | .unstable => 5
  | .masked => 6

/-- The verdict of a verification scan that is not MASKED, from the deviation and the disturbances (R17). -/
def judge (p : DegreeParams) (deviation : Int) (disturbances : List Int) : Verdict :=
  if disturbances.any (fun x => p.disturbanceLimit < (x.natAbs : Int)) then .disturb
  else if deviation < -p.tolerance then .low
  else if p.tolerance < deviation then .high
  else .pass

/-! ### Hold status and unverified flag -/

/-- HELD when the policy is HOLD_ALL and the backoff list is not empty (R108). -/
def Arbiter.rehold (holdAll : Bool) (a : Arbiter) : Arbiter := { a with held := holdAll && !a.backoff.isEmpty }

/-- Whether entering FROZEN sets the unverified flag: a numeric level that differs from the verified level, or no verified
level (R132). -/
def LineLeg.needsRecheck (l : LineLeg) : Bool :=
  match l.level with
  | .off => false
  | .num v => l.verified != some v

end Sys2Proof.Machine
end

