-- ==== Sys2Proof/Machine/Ramp.lean ====
section
/-! DEFINITION. The shared operations of the ramp engine, the path engine and the arbiters on one leg or one job (chapters 3, 5, 6,
7): joining and leaving a step queue, freezing, ending a step, sending a command, lowering, abandoning, failing and releasing. The
grant pass that follows an act stands in Arbiter.lean. -/

namespace Sys2Proof.Machine

/-! ### Finding a leg or a job -/

/-- What an operation does to a line leg that exists; a reference that finds none changes nothing. -/
def onLeg (r : LegRef) (k : LineLeg → State → State) (s : State) : State :=
  match s.leg? r with
  | some l => k l s
  | none => s

/-- What an operation does to a job in use; an id that finds none changes nothing. -/
def onCtx (id : JobId) (k : Context → State → State) (s : State) : State :=
  match s.ctx? id with
  | some c => k c s
  | none => s

/-- The ingress of a leg is dark: L never is (R17). -/
def State.ingressDark (s : State) : Point → Bool
  | .bank => false
  | .line d => (s.watch d).dark == .dark

/-- A failure at this node: its own id as origin (R45, R87). -/
def localFailure (cause : Cause) (verdict : Verdict) (s : State) : Failure :=
  ⟨cause, BitVec.ofNat 8 verdict.code, s.node.nodeId⟩

/-! ### Scan requests (R134, R137) -/

/-- A request joins the end of the scan queue; it is issued at the end of the act when nothing is in flight (R134). -/
def requestScan (q : ScanRequest) (s : State) : State := modMonitor (fun m => { m with queue := m.queue ++ [q] }) s

/-- A leg's request leaves the queue, or is marked withdrawn in flight (R137). -/
def Monitor.withdraw (r : LegRef) (m : Monitor) : Monitor :=
  { m with queue := m.queue.filter (fun q => q.requester ≠ .leg r),
           flight := m.flight.map (fun f => if f.request.requester = .leg r then { f with withdrawn := true } else f) }

def withdraw (r : LegRef) (s : State) : State := modMonitor (Monitor.withdraw r) s

/-! ### The arbiter's collections (R99, R101) -/

/-- The leg's reference leaves whatever collection of the arbiter holds it, and the hold status is computed anew (R101, R108). -/
def Arbiter.without (holdAll : Bool) (r : LegRef) (a : Arbiter) : Arbiter :=
  Arbiter.rehold holdAll
    { a with down := a.down.filter (· ≠ r), up := a.up.filter (fun e => e.leg ≠ r),
             wait := a.wait.filter (fun e => e.leg ≠ r), backoff := a.backoff.filter (· ≠ r) }

/-- The step token freed if the leg holds it (R100). -/
def Arbiter.releaseToken (r : LegRef) (a : Arbiter) : Arbiter :=
  { a with token := if a.token.any (fun t => t.leg = r) then none else a.token }

/-- The leg out of the arbiter of degree `d` altogether. -/
def detach (d : Degree) (r : LegRef) (s : State) : State :=
  modArb d (fun a => Arbiter.releaseToken r (Arbiter.without (s.deg d).holdAll r a)) s

/-- Every entry of the headroom-wait list moves to the end of the UP class (R107). -/
def Arbiter.requeue (a : Arbiter) : Arbiter := { a with up := a.up ++ a.wait, wait := [] }

def LineLeg.requeued (l : LineLeg) : LineLeg := { l with state := .queued, headroom := none }

/-- The headroom-wait list of degree `d` re-queued: each moved leg is QUEUED, its headroom timer stopped (R107). -/
def requeue (d : Degree) (s : State) : State :=
  modArb d Arbiter.requeue ((s.arb d).wait.foldl (fun s e => modLeg e.leg LineLeg.requeued s) s)

/-! ### Steps and their records (R48, R51) -/

/-- The newest records of a history that holds at most 8 (R51). -/
def pushRecord (h : List StepRecord) (x : StepRecord) : List StepRecord :=
  (h ++ [x]).drop (h.length + 1 - Config.maxHistory)

/-- The step in progress ends with a verdict: its record is written, steps taken go up, and the per-step state and its
timers are removed (R51). A leg with no step in progress is left as it is. -/
def LineLeg.endStep (v : Verdict) (l : LineLeg) : LineLeg :=
  match l.step with
  | none => l
  | some st =>
    let n := bump l.stepsTaken
    { l with
      stepsTaken := n
      history := pushRecord l.history
        { number := n, kind := st.kind, fromLevel := st.fromLevel, requested := st.requested, applied := st.applied,
          measured := st.measured, deviation := st.deviation, worst := st.worst, verdict := v, scansUsed := st.scansUsed }
      step := none
      settle := none
      spacing := none }

def endStep (r : LegRef) (v : Verdict) (s : State) : State := modLeg r (LineLeg.endStep v) s

/-- The per-step state at the start of a step (R48). -/
def startStep (cls : StepClass) (kind : StepKind) (stage : Stage) (fromLevel requested : Level) (observed : List Observed) :
    StepState where
  cls := cls
  kind := kind
  stage := stage
  fromLevel := fromLevel
  requested := requested
  observed := observed
  failingRun := 0
  scansUsed := 0
  worst := none
  applied := if kind = .recheck then some requested else none
  measured := none
  deviation := none
  previous := none

/-- A change of the per-step state. -/
def LineLeg.mapStep (f : StepState → StepState) (l : LineLeg) : LineLeg := { l with step := l.step.map f }

/-! ### Freezing and joining (R102, R130 to R132) -/

/-- A leg entering FROZEN (R49, R132): its timers stop, its step is gone, the dark timer starts for a dark ingress. The freeze sets the
unverified flag or leaves it as it stood: one already set stays set also in a leg whose level is exactly its verified level, by R49, which
clears it at a PASS alone, where R132 calls such a leg left clear (DESIGN CHOICE, log 26). -/
def LineLeg.freeze (cause : FrozenBy) (kind : RequestKind) (darkTimeout : Nat) (l : LineLeg) : LineLeg :=
  { l with state := .frozen, frozen := some (cause, kind), unverified := l.unverified || l.needsRecheck, step := none,
           settle := none, spacing := none, retry := none, headroom := none,
           darkTimer := if cause = .dark then some darkTimeout else none }

/-- A leg frozen: out of its arbiter's collections, the token released, last in the order of freezing. -/
def freeze (r : LegRef) (cause : FrozenBy) (kind : RequestKind) (s : State) : State :=
  onLeg r (fun l s =>
    let s1 := modLeg r (LineLeg.freeze cause kind (s.deg l.egress).darkTimeout) (detach l.egress r s)
    { s1 with frozenOrder := s1.frozenOrder.filter (· ≠ r) ++ [r] }) s

/-- A leg joins the end of its egress degree's UP class, or freezes when its ingress is dark (R102). -/
def joinUp (r : LegRef) (kind : RequestKind) (s : State) : State :=
  onLeg r (fun l s =>
    if s.ingressDark l.ingress then freeze r .dark kind s
    else modLeg r (fun l => { l with state := .queued })
      (modArb l.egress (fun a => { a with up := a.up ++ [⟨r, kind⟩] }) s)) s

/-- A leg's cause of freezing is gone: it leaves FROZEN and joins with its return state as kind (R132). -/
def thaw (r : LegRef) (s : State) : State :=
  onLeg r (fun l s =>
    match l.frozen with
    | some (_, kind) =>
      joinUp r kind (modLeg r (fun l => { l with frozen := none, darkTimer := none })
        { s with frozenOrder := s.frozenOrder.filter (· ≠ r) })
    | none => s) s

/-- Every frozen leg that `clears` says thaws, in the order in which they froze (R132). -/
def thawWhere (clears : LineLeg → Bool) (s : State) : State :=
  (s.frozenOrder.filter (fun r => (s.leg? r).any clears)).foldl (fun s r => thaw r s) s

/-! ### Commands (R119, R142) -/

/-- A set-level command leaves for the actuator (R142). -/
def Actuator.command (r : LegRef) (c : Context) (requested : Level) (timeout : Nat) (a : Actuator) : Actuator :=
  { a with flight := some ⟨r, c.first, c.count, requested, a.nextIssue, timeout⟩, nextIssue := (a.nextIssue + 1) % 256 }

/-- The leg holds a command in flight. -/
def State.commanded (s : State) (d : Degree) (r : LegRef) : Bool := (s.act d).flight.any (fun f => f.leg = r)

/-- Entry to ACTUATE: the command for the step's request is sent; a LIGHT_ON step lights the egress run in the same act (R27,
R119). -/
def actuate (r : LegRef) (s : State) : State :=
  onCtx r.job (fun c s => onLeg r (fun l s =>
    match l.step with
    | some st =>
      let s1 := modAct l.egress (Actuator.command r c st.requested (s.deg l.egress).actuatorTimeout) s
      let s2 := modLeg r (LineLeg.mapStep (fun st => { st with stage := .actuate })) s1
      if st.kind = .lightOn then changeFor c [(l.egress, .outgoing)] (SliceEntry.light c.id) s2 else s2
    | none => s) s) s

/-- The next down-step begins from the recorded level (R8, R127). -/
def startDown (r : LegRef) (s : State) : State :=
  onLeg r (fun l s =>
    let st := startStep .down .down .actuate l.level (downRequest l.level l.probe (s.deg l.egress)) []
    actuate r (modLeg r (fun l => { l with state := .rampingDown, step := some st }) s)) s

/-! ### Freeing a context and ending a job at this node (R53, R89, R94, R95) -/

/-- A context freed: its legs' scans are withdrawn and it leaves the table (R53). -/
def freeContext (c : Context) (s : State) : State := dropCtx c.id (withdraw ⟨c.id, .rev⟩ (withdraw ⟨c.id, .fwd⟩ s))

/-- The release of a job in FAILING whose line legs are all OFF (R89, R171). -/
def releaseFailed (c : Context) (s : State) : State :=
  match c.failure with
  | some f =>
    let s1 := if c.reached then writeResult c (if f.cause = .aborted then .aborted else .failed) (some f) s else s
    freeContext c (notifyOwner c.owner (.failed c.id f) s1)
  | none => s

/-- The end of a job in TEARDOWN whose line legs are all OFF: the entry set freed, CLOSED recorded and notified, DOWN_TURN sent
upstream, the context freed (R94, R95). A TRANSIT has no owner and a HEAD no upstream degree. -/
def releaseClosed (c : Context) (s : State) : State :=
  freeContext c (sendOn c.place.up? (.downTurn c.id)
    (notifyOwner c.owner (.closed c.id) (writeResult c .closed none (releaseSet c s))))

/-- The path engine is told that the legs of a job may all be OFF (R89, R94, R95). -/
def checkEnded (id : JobId) (s : State) : State :=
  onCtx id (fun c s =>
    if c.allOff then
      (if c.phase = .failing then releaseFailed c s else if c.phase = .teardown then releaseClosed c s else s)
    else s) s

/-- A line leg in leg state OFF (R47): level OFF, which never carries the unverified flag (R116; log 24), no step, no freeze, no
timer. -/
def LineLeg.off (l : LineLeg) : LineLeg :=
  { l with state := .off, level := .off, unverified := false, step := none, frozen := none, settle := none, spacing := none, retry := none,
           darkTimer := none, headroom := none }

/-- A line leg reaches leg state OFF, by whatever path: its scan is withdrawn, it leaves the arbiter and releases the token, the
headroom-wait list is re-queued (R107), a FAILING job's leg frees its runs (R30), and the path engine is told. -/
def reachOff (r : LegRef) (s : State) : State :=
  onCtx r.job (fun c s => onLeg r (fun l s =>
    let s1 := modLeg r LineLeg.off (detach l.egress r (withdraw r s))
    let s2 := requeue l.egress { s1 with frozenOrder := s1.frozenOrder.filter (· ≠ r) }
    let s3 := if c.phase = .failing then changeFor c (Leg.line l).runs (SliceEntry.release c.id) s2 else s2
    checkEnded r.job s3) s) s

/-- A leg on a degree whose actuator is in FAULT is abandoned: its egress run's LIT and LIVE entries become
BLOCKED(ABANDONED) and it goes OFF (R31, R129). -/
def abandonLeg (r : LegRef) (s : State) : State :=
  onCtx r.job (fun c s => onLeg r (fun l s =>
    reachOff r (changeFor c [(l.egress, .outgoing)] (SliceEntry.abandon c.id) s)) s) s

/-! ### Handing a leg for ramp-down (R103, R110, R128) -/

/-- A holder whose step has ended turns to ramp-down under its token (R110, R128). -/
def turnDown (r : LegRef) (s : State) : State :=
  onLeg r (fun l s =>
    if (s.act l.egress).faulted then abandonLeg r s
    else if l.level = .off then reachOff r s
    else startDown r (modArb l.egress (fun a => { a with token := some ⟨r, .down⟩ }) s)) s

/-- A leg without the token joins the DOWN class, goes OFF, or is abandoned (R103). -/
def joinDown (r : LegRef) (s : State) : State :=
  onLeg r (fun l s =>
    if (s.act l.egress).faulted then abandonLeg r s
    else if l.level = .off then reachOff r s
    else modLeg r (fun l => { l with state := .rampingDown })
      (modArb l.egress (fun a => { a with down := a.down ++ [r] }) s)) s

/-- A leg taken out of QUEUED, HEADROOM_WAIT, BACKOFF or FROZEN: its timers stop (R103). -/
def LineLeg.stopWaiting (l : LineLeg) : LineLeg :=
  { l with frozen := none, retry := none, darkTimer := none, headroom := none }

/-- A line leg handed to the ramp engine for ramp-down (R89, R94, R95): a holder with a command in flight stays STEPPING until
the completion; another holder ends its step and turns; a leg without the token leaves what it is in and is lowered. -/
def handOver (r : LegRef) (s : State) : State :=
  onLeg r (fun l s =>
    match l.state with
    | .off => s
    | .rampingDown => s
    | .stepping =>
      if s.commanded l.egress r then s else turnDown r (endStep r .none (withdraw r s))
    | _ =>
      let s1 := modLeg r LineLeg.stopWaiting (modArb l.egress (Arbiter.without (s.deg l.egress).holdAll r) s)
      joinDown r { s1 with frozenOrder := s1.frozenOrder.filter (· ≠ r) }) s

/-- Every line leg of a context handed for ramp-down, forward first. -/
def handAll (c : Context) (s : State) : State :=
  c.lineLegs.foldl (fun s x => handOver ⟨c.id, x.1⟩ s) s

/-! ### Failure (R87 to R90) -/

/-- The phases in which a job can fail (R87). -/
def Phase.canFail : Phase → Bool
  | .holding => true
  | .booked => true
  | .bringupFwd => true
  | .awaitLockFwd => true
  | .bringupRev => true
  | .awaitLockRev => true
  | .live => false
  | .teardown => false
  | .failing => false

/-- The newest records of the fail leg's history, at most four (R172). -/
def Context.copied (c : Context) (leg : Option Dir) : List StepRecord :=
  match leg.bind c.line? with
  | some l => l.history.drop (l.history.length - Config.maxPreceding)
  | none => []

/-- A context entering FAILING (R45, R87, R172): the fail fields are set, and the hold, lock and path timers stop. -/
def Context.failing (f : Failure) (leg : Option Dir) (c : Context) : Context :=
  { c with phase := .failing, failure := some f, hold := none, path := none, lock := none, failLeg := leg,
           failSteps := c.copied leg }

/-- FAIL on the job's degrees but the one it arrived on; a DOWN link places nothing (R88). The verdict byte goes on as it stands, also
beside a cause other than RETRIES_EXHAUSTED (log 15). -/
def sendFail (c : Context) (f : Failure) (arrival : Option Degree) (s : State) : State :=
  let m := Message.fail c.id f.cause f.verdict f.origin
  let on (d : Option Degree) (s : State) : State := if d = arrival then s else sendOn d m s
  on c.place.down? (on c.place.up? s)

/-- The legs of a job entering FAILING are unwound: drop legs' runs freed, line legs handed for ramp-down, and the job released
when none is left (R89). -/
def unwind (c : Context) (s : State) : State :=
  let drops := c.legs.flatMap (fun x => match x.2 with
    | .drop d => [(d, MapDir.incoming)]
    | .line _ => [])
  checkEnded c.id (handAll c (changeFor c drops (SliceEntry.release c.id) s))

/-- A job enters FAILING (R87, R90), where its phase lets it: by a cause of this node, or by a FAIL with its degree of arrival. -/
def failJob (id : JobId) (f : Failure) (leg : Option Dir) (arrival : Option Degree) (s : State) : State :=
  onCtx id (fun c s =>
    if c.phase.canFail then unwind c (sendFail c f arrival (modCtx id (Context.failing f leg) s)) else s) s

/-- A failure arising in a line leg (R172). -/
def failByLeg (r : LegRef) (cause : Cause) (v : Verdict) (s : State) : State :=
  failJob r.job (localFailure cause v s) (some r.dir) none s

/-- A failure arising in no leg. -/
def failLocally (id : JobId) (cause : Cause) (s : State) : State :=
  failJob id (localFailure cause .none s) none none s

end Sys2Proof.Machine
end

