-- ==== Sys2Proof/Machine/Arbiter.lean ====
section
/-! DEFINITION. The grant of a step: the degree total (R13), the step a leg would take (R116), the observed set (R117), the headroom
check and parking (R105, R106), the grant pass (R104), the issue of scans (R135), and the end of an act. -/

namespace Sys2Proof.Machine

/-! ### The members of a degree (R13, R117) -/

/-- A line leg on a degree at a numeric level: what R13 folds and R117 may observe. -/
structure Member where
  leg   : LegRef
  first : Nat
  count : Nat
  level : Int
deriving DecidableEq, Repr

/-- The member a leg of a context is on degree `d`, if its recorded level is not OFF. -/
def memberOf (d : Degree) (c : Context) (x : Dir × LineLeg) : Option Member :=
  if x.2.egress = d then
    match x.2.level with
    | .num v => some ⟨⟨c.id, x.1⟩, c.first, c.count, v⟩
    | .off => none
  else none

/-- The line legs egressing on degree `d` whose recorded level is not OFF, whatever their leg state and phase (R13). -/
def State.members (s : State) (d : Degree) : List Member :=
  s.jobs.flatMap (fun c => c.lineLegs.filterMap (memberOf d c))

/-- The degree total for a leg under test at its requested level: the members' recorded levels but its own, folded in
ascending first slice (R13). -/
def degreeTotal (d : Degree) (r : LegRef) (first : Nat) (request : Int) (s : State) : Int :=
  let others := ((s.members d).filter (fun m => m.leg ≠ r)).map (fun m => (m.first, m.level))
  foldLevels ((sortBy (fun a b => decide (a.1 < b.1)) ((first, request) :: others)).map (·.2))

/-- The observed set of a step: the other members within W slices, nearest first, ties to the lower first slice, at most 16
(R117). -/
def observedSet (d : Degree) (r : LegRef) (first count : Nat) (s : State) : List Observed :=
  let near := (s.members d).filter (fun m =>
    m.leg ≠ r && decide (sliceDistance first count m.first m.count ≤ (s.deg d).observationWindow))
  let dist (m : Member) : Nat := sliceDistance first count m.first m.count
  ((sortBy (fun a b => decide (dist a < dist b ∨ (dist a = dist b ∧ a.first < b.first))) near).take Config.maxObserved).map
    (fun m => ⟨m.leg.job, m.first, m.count, none⟩)

/-! ### The step a leg would take (R116) -/

/-- The kind and requested level of a step of the UP class. -/
def planStep (l : LineLeg) (p : DegreeParams) : StepKind × Int :=
  match l.level with
  | .off => (.lightOn, lightOnLevel l.probe p)
  | .num v =>
    if l.unverified then (.recheck, v)
    else if v < upRequest v l.target p then (.up, upRequest v l.target p)
    else (.recheck, v)

/-- The headroom limit of a degree (R105). -/
def headroomLimit (p : DegreeParams) : Int := p.outputCeiling - p.guardBand

/-! ### Starting a step (R117, R118) -/

/-- The scan a leg's step makes: its egress tap over the covering range of its run and its observed set (R118). -/
def legScan (r : LegRef) (c : Context) (l : LineLeg) (st : StepState) : ScanRequest :=
  let range := covering c.first c.count (st.observed.map (fun o => (o.first, o.count)))
  ⟨.leg r, l.egress, .outgoing, range.1, range.2⟩

/-- The ramp engine asks for the scan of the leg's step. -/
def askScan (r : LegRef) (s : State) : State :=
  onCtx r.job (fun c s => onLeg r (fun l s =>
    match l.step with
    | some st => requestScan (legScan r c l st) s
    | none => s) s) s

/-- Entry to VERIFY: the first verification scan is requested at once (R120, R121). -/
def enterVerify (r : LegRef) (s : State) : State :=
  askScan r (modLeg r (LineLeg.mapStep (fun st => { st with stage := .verify })) s)

/-- After BASELINE a RECHECK verifies and the other kinds actuate (R117, R118). -/
def afterBaseline (r : LegRef) (kind : StepKind) (s : State) : State :=
  if kind = .recheck then enterVerify r s else actuate r s

/-- A step of the UP class begins at its grant: the leg is STEPPING in BASELINE with its observed set; an empty set needs no
baseline scan (R104, R117). -/
def beginUp (r : LegRef) (kind : StepKind) (request : Int) (s : State) : State :=
  onCtx r.job (fun c s => onLeg r (fun l s =>
    let observed := observedSet l.egress r c.first c.count s
    let st := startStep .up kind .baseline l.level (.num request) observed
    let s1 := modLeg r (fun l => { l with state := .stepping, step := some st }) s
    if observed.isEmpty then afterBaseline r kind s1 else askScan r s1) s) s

/-! ### The grant pass (R104 to R106) -/

def LineLeg.park (timeout : Nat) (l : LineLeg) : LineLeg := { l with state := .headroomWait, headroom := some timeout }

/-- A leg whose headroom check fails moves to the end of the headroom-wait list, its headroom timer started (R106). -/
def park (d : Degree) (e : UpEntry) (s : State) : State :=
  modLeg e.leg (LineLeg.park (s.deg d).headroomTimeout)
    (modArb d (fun a => { a with up := a.up.filter (fun x => x.leg ≠ e.leg), wait := a.wait ++ [e] }) s)

/-- The entry leaves the queue and the token names its leg with class UP (R104). -/
def Arbiter.grantUp (r : LegRef) (a : Arbiter) : Arbiter :=
  { a with token := some ⟨r, .up⟩, up := a.up.filter (fun x => x.leg ≠ r) }

/-- The entries of the UP class considered in queue order (R104 step 4): STEP entries are skipped while the degree is HELD; the
first whose headroom check passes is granted, and those that fail are parked. -/
def considerUp (d : Degree) : List UpEntry → State → State
  | [], s => s
  | e :: es, s =>
    if e.kind = .step ∧ (s.arb d).held = true then considerUp d es s
    else
      match s.leg? e.leg, s.ctx? e.leg.job with
      | some l, some c =>
        let p := s.deg d
        let plan := planStep l p
        let total := degreeTotal d e.leg c.first plan.2 s
        let fits := decide (total ≤ headroomLimit p)
        let s1 := modArb d (fun a =>
          { a with lastCheck := some ⟨e.leg, plan.2, total, headroomLimit p, fits, s.time⟩ }) s
        if fits then beginUp e.leg plan.1 plan.2 (modArb d (Arbiter.grantUp e.leg) s1)
        else considerUp d es (park d e s1)
      | _, _ => considerUp d es s

/-- A grant pass of one degree (R104), made only while the token is free. -/
def grantPass (d : Degree) (s : State) : State :=
  let a := s.arb d
  if a.token.isSome then s
  else if (s.act d).faulted then s
  else
    match a.down with
    | r :: rest => startDown r (modArb d (fun a => { a with token := some ⟨r, .down⟩, down := rest }) s)
    | [] => if s.monitor.state = .fault then s else considerUp d a.up s

/-- The grant passes that follow an event, in ascending degree order (R99, R134; log 6). -/
def grantAll (s : State) : State := grantPass .d4 (grantPass .d3 (grantPass .d2 (grantPass .d1 s)))

/-! ### Issuing scans (R135) -/

/-- A scan sent to the monitor with the next issue number, its timeout started (R135). -/
def Monitor.issue (q : ScanRequest) (reissue withdrawn : Bool) (timeout : Nat) (m : Monitor) : Monitor :=
  { m with flight := some ⟨q, m.nextIssue, timeout, reissue, withdrawn⟩, nextIssue := (m.nextIssue + 1) % 256 }

/-- A watch whose request is issued is IN_FLIGHT (R141). -/
def markIssued (q : ScanRequest) (s : State) : State :=
  match q.requester with
  | .watch d => modWatch d (fun w => { w with state := .inFlight, interval := none }) s
  | _ => s

/-- The request at the head of the queue is issued when no scan is in flight and the monitor is not in FAULT (R134, R135). -/
def issueNext (s : State) : State :=
  if s.monitor.flight.isSome || s.monitor.state == .fault then s
  else
    match s.monitor.queue with
    | [] => s
    | q :: rest =>
      markIssued q (modMonitor (fun m => Monitor.issue q false false s.node.scanTimeout { m with queue := rest }) s)

/-- The end of an act that may have moved a leg: the grant passes, then the issue of the next scan. -/
def settleAct (s : State) : State := issueNext (grantAll s)

/-- The same for an act that concerns one arbiter alone (R111, R113). -/
def settleDegree (d : Degree) (s : State) : State := issueNext (grantPass d s)

end Sys2Proof.Machine
end

