-- ==== Sys2Proof/Machine/Verify.lean ====
section
/-! DEFINITION. What the ramp engine does with a scan result, a completion, a settle expiry and a change of darkness or monitor
state (chapter 7). -/

namespace Sys2Proof.Machine

/-! ### The end of an upward step (R77, R109, R123 to R126) -/

/-- A line leg reaches AT_TARGET: the path engine sends the turn on (R77). -/
def reachedTarget (c : Context) (dir : Dir) (s : State) : State :=
  match dir, c.place, c.phase with
  | .fwd, .head d, .bringupFwd => send d (.rampTurn c.id .fwd) s
  | .fwd, .transit _ d, .bringupFwd => send d (.rampTurn c.id .fwd) s
  | .rev, .tail u, .bringupRev => send u (.rampTurn c.id .rev) s
  | .rev, .transit u _, .bringupRev => send u (.rampTurn c.id .rev) s
  | _, _, _ => s

/-- The token released by a leg that keeps its record (R109). -/
def releaseToken (d : Degree) (r : LegRef) (s : State) : State := modArb d (Arbiter.releaseToken r) s

/-- A leg at the top of its ladder: AT_TARGET, short when the working ceiling keeps it below T (R123). -/
def LineLeg.arrive (v : Int) (l : LineLeg) : LineLeg :=
  { l with state := .atTarget, short := l.short || decide (v < l.target) }

/-- A step passes (R123). -/
def passStep (r : LegRef) (s : State) : State :=
  onCtx r.job (fun c s => onLeg r (fun l s =>
    match l.level with
    | .off => s
    | .num v =>
      let s1 := releaseToken l.egress r
        (modLeg r (fun l => { l with unverified := false, verified := some v }) (endStep r .pass s))
      if ladderTop l.target (s.deg l.egress) ≤ v then reachedTarget c r.dir (modLeg r (LineLeg.arrive v) s1)
      else joinUp r .step s1) s) s

/-- A leg enters BACKOFF: the token released, the backoff list joined, the retry timer started (R108, R125). -/
def enterBackoff (r : LegRef) (s : State) : State :=
  onLeg r (fun l s =>
    let p := s.deg l.egress
    modLeg r (fun l => { l with state := .backoff, retry := some p.retryInterval })
      (modArb l.egress (fun a =>
        Arbiter.rehold p.holdAll (Arbiter.releaseToken r { a with backoff := a.backoff ++ [r] })) s)) s

/-- The back-off level of a failed step (R124): its from level after DISTURB, else P; never above the recorded level. -/
def backoffLevel (l : LineLeg) (v : Verdict) (fromLevel : Level) : Level :=
  let want := if v = .disturb then fromLevel else .num l.probe
  if l.level.below want then l.level else want

/-- The BACKOFF step of a failed step, under the same grant (R124). With nothing to command it ends at once. -/
def beginBackoff (r : LegRef) (request : Level) (s : State) : State :=
  onLeg r (fun l s =>
    let s1 := modLeg r (fun l =>
      { l with retryCount := l.retryCount + 1, step := some (startStep .up .backoff .actuate l.level request []) }) s
    if l.level = request then enterBackoff r (endStep r .none s1) else actuate r s1) s

/-- A step fails with a verdict (R124, R126). -/
def failStep (r : LegRef) (v : Verdict) (s : State) : State :=
  onLeg r (fun l s =>
    match l.step with
    | none => s
    | some st =>
      let s1 := endStep r v s
      if l.retryCount < (s.deg l.egress).retryLimit then beginBackoff r (backoffLevel l v st.fromLevel) s1
      else failByLeg r .retriesExhausted v s1) s

/-! ### Scan results of a leg (R16, R17, R118, R121, R122) -/

/-- A step that ends at a MASKED result: the leg freezes for its dark ingress (R118, R122). -/
def endMasked (r : LegRef) (s : State) : State := freeze r .dark .step (endStep r .masked s)

/-- The baselines a baseline scan gives (R16). -/
def StepState.setBaselines (scanFirst : Nat) (readings : List Int) (st : StepState) : StepState :=
  { st with observed := st.observed.map (fun o =>
      { o with baseline := some (channelLevel scanFirst o.first o.count readings) }) }

/-- The disturbances of a verification scan, nearest channel first (R16). -/
def disturbances (scanFirst : Nat) (readings : List Int) (observed : List Observed) : List Int :=
  observed.filterMap (fun o => o.baseline.map (fun b => channelLevel scanFirst o.first o.count readings - b))

/-- What a verification result that is not MASKED leaves in the per-step state (R17, R121, R122). -/
def StepState.take (deviation measured : Int) (dist : List Int) (v : Verdict) (st : StepState) : StepState :=
  { st with
    scansUsed := st.scansUsed + 1
    worst := dist.foldl worseOf st.worst
    measured := some measured
    deviation := some deviation
    failingRun := if v = .pass then st.failingRun else if st.previous = some v then st.failingRun + 1 else 1
    previous := some v }

/-- A verification result judged (R122). -/
def verifyResult (r : LegRef) (readings : List Int) (s : State) : State :=
  onCtx r.job (fun c s => onLeg r (fun l s =>
    match l.step, l.level with
    | some st, .num level =>
      if s.ingressDark l.ingress then
        endMasked r (modLeg r (LineLeg.mapStep (fun st => { st with scansUsed := st.scansUsed + 1 })) s)
      else
        let p := s.deg l.egress
        let scanFirst := (legScan r c l st).first
        let measured := channelLevel scanFirst c.first c.count readings
        let deviation := measured - (level + p.egressTapOffset)
        let dist := disturbances scanFirst readings st.observed
        let v := judge p deviation dist
        let st1 := StepState.take deviation measured dist v st
        let s1 := modLeg r (fun l =>
          { l with step := some st1, lastDev := some deviation, worst := dist.foldl worseOf l.worst }) s
        if v = .pass then passStep r s1
        else if p.failRun ≤ st1.failingRun then failStep r v s1
        else if Config.maxScans ≤ st1.scansUsed then failStep r .unstable s1
        else modLeg r (fun l => { l with spacing := some p.scanSpacing }) s1
    | _, _ => s) s) s

/-- A baseline result taken (R118). -/
def baselineResult (r : LegRef) (readings : List Int) (s : State) : State :=
  onCtx r.job (fun c s => onLeg r (fun l s =>
    match l.step with
    | some st =>
      if s.ingressDark l.ingress then endMasked r s
      else
        let scanFirst := (legScan r c l st).first
        afterBaseline r st.kind (modLeg r (LineLeg.mapStep (StepState.setBaselines scanFirst readings)) s)
    | none => s) s) s

/-- A scan result handed to a leg: taken in BASELINE, or in VERIFY while no spacing timer runs; else the leg awaits none
(R118, R121). -/
def legResult (r : LegRef) (readings : List Int) (s : State) : State :=
  onLeg r (fun l s =>
    match l.step with
    | some st =>
      (match st.stage with
       | .baseline => baselineResult r readings s
       | .verify => if l.spacing.isSome then s else verifyResult r readings s
       | .actuate => s
       | .settle => s)
    | none => s) s

/-! ### Completions and settles (R9, R119, R120, R127) -/

/-- The recording of a completion (R9, R119): the level, the short flag and T when it came back below a numeric request, and the
step's applied level. A level of OFF never carries the unverified flag (R116; log 24). -/
def LineLeg.record (reported : Level) (p : DegreeParams) (l : LineLeg) : LineLeg :=
  match l.step with
  | none => l
  | some st =>
    match st.requested with
    | .off => { l with level := .off, unverified := false, step := some { st with applied := some .off } }
    | .num q =>
      let v := recordedLevel q reported p
      { l with level := .num v, short := l.short || decide (v < q), target := if v < q then v else l.target,
               step := some { st with applied := some (.num v) } }

/-- Entry to SETTLE (R18, R120). -/
def LineLeg.enterSettle (p : DegreeParams) (l : LineLeg) : LineLeg :=
  match l.step with
  | none => l
  | some st => { l with settle := some (settleTime st.kind p), step := some { st with stage := .settle } }

def enterSettle (r : LegRef) (s : State) : State :=
  onLeg r (fun l s => modLeg r (LineLeg.enterSettle (s.deg l.egress)) s) s

/-- The applied level of a leg's command (R119): recorded, then on to SETTLE unless a turn to ramp-down (R128) or a freeze (R130,
R131) waits on this completion; a turn comes before a freeze and a dark ingress before a monitor fault (log 7, log 8). A DOWN step's
completion re-queues the headroom-wait list (R107). -/
def legApplied (r : LegRef) (reported : Level) (s : State) : State :=
  onCtx r.job (fun c s => onLeg r (fun l s =>
    match l.step with
    | none => s
    | some st =>
      let s1 := modLeg r (LineLeg.record reported (s.deg l.egress)) s
      if st.cls = .down then enterSettle r (requeue l.egress s1)
      else if c.phase = .failing then turnDown r (endStep r .none s1)
      else if st.kind = .backoff then enterSettle r s1
      else if s1.ingressDark l.ingress then freeze r .dark .step (endStep r .none s1)
      else if s1.monitor.state = .fault then freeze r .monitor .step (endStep r .none s1)
      else enterSettle r s1) s) s

/-- The settle timer's expiry (R120). -/
def legSettled (r : LegRef) (s : State) : State :=
  onLeg r (fun l s =>
    match l.step, l.settle with
    | some st, some _ =>
      let s1 := modLeg r (fun l => { l with settle := none }) s
      (match st.kind with
       | .lightOn => enterVerify r s1
       | .up => enterVerify r s1
       | .recheck => s
       | .backoff => enterBackoff r (endStep r .none s1)
       | .down =>
         if l.level = .off then reachOff r (endStep r .none s1) else startDown r (endStep r .none s1))
    | _, _ => s) s

/-! ### Dark and monitor changes (R130, R131) -/

/-- The kinds of step a freeze stops (R130, R131). -/
def StepKind.freezable : StepKind → Bool
  | .lightOn => true
  | .up => true
  | .recheck => true
  | .down => false
  | .backoff => false

/-- The holder of a degree's token frozen, where it is in a LIGHT_ON, UP or RECHECK step: its scan is withdrawn, its step ends with
verdict NONE. In ACTUATE it waits for its completion (R130, R131). -/
def freezeHolder (d : Degree) (cause : FrozenBy) (concerns : LineLeg → Bool) (s : State) : State :=
  match (s.arb d).token with
  | some t =>
    onLeg t.leg (fun l s =>
      match l.step with
      | some st =>
        if concerns l && st.kind.freezable && st.stage != .actuate then
          freeze t.leg cause .step (endStep t.leg .none (withdraw t.leg s))
        else s
      | none => s) s
  | none => s

/-- The entries of a list whose legs a dark change concerns are frozen, in list order (R130). -/
def freezeEntries (concerns : LineLeg → Bool) (entries : List UpEntry) (s : State) : State :=
  entries.foldl (fun s e => if (s.leg? e.leg).any concerns then freeze e.leg .dark .step s else s) s

/-- The legs egressing on `d` that a dark change concerns: the holder, the UP class, the headroom-wait list (R130, R132). -/
def freezeDarkOn (concerns : LineLeg → Bool) (d : Degree) (s : State) : State :=
  let s1 := freezeHolder d .dark concerns s
  freezeEntries concerns (s.arb d).wait (freezeEntries concerns (s.arb d).up s1)

/-- The ingress of degree `g` becomes DARK (R130). -/
def freezeDark (g : Degree) (s : State) : State :=
  let concerns (l : LineLeg) : Bool := l.ingress == .line g
  Degree.all.foldl (fun s d => freezeDarkOn concerns d s) s

/-- The ingress of degree `g` becomes LIT (R132). -/
def thawLit (g : Degree) (s : State) : State :=
  thawWhere (fun l => l.ingress == .line g && l.frozen.any (fun x => x.1 == .dark)) s

/-- The monitor enters FAULT (R131). -/
def freezeMonitor (s : State) : State := Degree.all.foldl (fun s d => freezeHolder d .monitor (fun _ => true) s) s

/-- The monitor returns to OK (R132). -/
def thawMonitor (s : State) : State := thawWhere (fun l => l.frozen.any (fun x => x.1 == .monitor)) s

/-! ### An actuator's fault (R111, R129) -/

/-- The holder whose command timed out: its step ends with its record, its job fails with ACTUATOR where it can fail, and the leg is
abandoned. In FAILING and TEARDOWN the leg is abandoned alone (R96, R111, R129 case 1). -/
def faultHolder (r : LegRef) (s : State) : State :=
  onCtx r.job (fun c s =>
    let s1 := endStep r .none s
    if c.phase.canFail then failByLeg r .actuator .none s1 else abandonLeg r s1) s

/-- The change of a degree's actuator to FAULT taken by its arbiter (R111): the holder, then every leg of the DOWN class in
queue order. -/
def arbiterFault (d : Degree) (s : State) : State :=
  let down := (s.arb d).down
  let s1 := match (s.arb d).token with
    | some t => faultHolder t.leg s
    | none => s
  down.foldl (fun s r => abandonLeg r s) s1

end Sys2Proof.Machine
end

