-- ==== Sys2Proof/Machine/Monitor.lean ====
section
/-! DEFINITION. The monitor port and the actuator ports (chapter 8): SCAN_RESULT, SCAN_TIMEOUT, PROBE_TIMER_EXPIRY,
WATCH_INTERVAL_EXPIRY, ACTUATOR_COMPLETION, ACTUATOR_TIMEOUT. -/

namespace Sys2Proof.Machine

/-- The code of a dark state in a DEGREE_EVENT and in a reply (R185). -/
def Dark.code : Dark → Nat
  | .lit => 0
  | .dark => 1

/-- The code of a monitor state (R185). -/
def MonitorState.code : MonitorState → Nat
  | .ok => 0
  | .retrying => 1
  | .fault => 2

/-- The monitor state set and announced (R145). -/
def setMonitorState (m : MonitorState) (s : State) : State :=
  announce .monitor none m.code (modMonitor (fun x => { x with state := m }) s)

/-- The probe scan: degree 1's ingress tap over (0, 1), with no requester (R140). -/
def probeRequest : ScanRequest := ⟨.probe, .d1, .incoming, 0, 1⟩

/-- A probe issued: the probe timer stops (R140). -/
def issueProbe (s : State) : State :=
  modMonitor (fun m => Monitor.issue probeRequest false false s.node.scanTimeout { m with probe := none }) s

/-- A watch after its result: the dark decision made, then WAITING out its interval (R15, R141). -/
def Watch.taken (low : Bool) (interval : Nat) (w : Watch) : Watch :=
  { Watch.decide low w with state := .waiting, interval := some interval }

/-- A watch result of degree `d` (R14, R15, R141): a change of the dark state freezes or thaws legs and is announced. -/
def watchResult (d : Degree) (readings : List Int) (s : State) : State :=
  let low := watchLow (foldLevels readings) (s.deg d)
  let before := (s.watch d).dark
  let s1 := modWatch d (Watch.taken low s.node.watchInterval) s
  let after := (s1.watch d).dark
  if before = after then s1
  else if after = .dark then announce .dark (some d) Dark.dark.code (freezeDark d s1)
  else announce .dark (some d) Dark.lit.code (thawLit d s1)

/-- All four watch requests join the queue in degree order, each watch QUEUED (R140). -/
def queueWatches (s : State) : State :=
  Degree.all.foldl (fun s d => requestScan (watchRequest d) (modWatch d (fun w => { w with state := .queued, interval := none }) s)) s

/-- A probe's result ends the fault (R140). -/
def probeResult (s : State) : State :=
  thawMonitor (queueWatches (modMonitor (fun m => { m with probe := none }) (setMonitorState .ok s)))

/-- The result handed to its requester (R136). -/
def handResult (f : ScanFlight) (readings : List Int) (s : State) : State :=
  match f.request.requester with
  | .leg r => if f.withdrawn then s else legResult r readings s
  | .watch d => watchResult d readings s
  | .probe => probeResult s

/-- SCAN_RESULT (R136): a done that carries another issue number, or finds nothing in flight, or brings another number of
readings than the range's count is discarded. -/
def scanResult (issue : Nat) (readings : List Int) (s : State) : State :=
  match s.monitor.flight with
  | none => s
  | some f =>
    if f.issue = issue ∧ readings.length = f.request.count then
      let s1 := modMonitor (fun m => { m with flight := none }) s
      let s2 := if s.monitor.state = .retrying then setMonitorState .ok s1 else s1
      settleAct (handResult f (readings.map clampReading) s2)
    else s

/-- A watch at the entry to FAULT (R139). -/
def Watch.stop (w : Watch) : Watch := { w with run := 0, state := .stopped, interval := none }

def stopWatches (s : State) : State := Degree.all.foldl (fun s d => modWatch d Watch.stop s) s

/-- The monitor port at the entry to FAULT: nothing in flight, an empty queue, the probe timer started (R139). -/
def Monitor.fail (m : Monitor) : Monitor :=
  { m with flight := none, queue := [], state := .fault, probe := some Config.probePeriod }

/-- The entry to FAULT (R131, R139). -/
def monitorFault (s : State) : State :=
  announce .monitor none MonitorState.fault.code (freezeMonitor (stopWatches (modMonitor Monitor.fail s)))

/-- SCAN_TIMEOUT (R138). A result taken first has ended the scan, and the timeout of the next one has not run out. -/
def scanTimeout (s : State) : State :=
  match s.monitor.flight with
  | none => s
  | some f =>
    if f.timer ≠ 0 then s
    else if f.request.requester = .probe then
      modMonitor (fun m => { m with flight := none, probe := some Config.probePeriod }) s
    else if f.reissue then settleAct (monitorFault s)
    else setMonitorState .retrying (modMonitor (Monitor.issue f.request true f.withdrawn s.node.scanTimeout) s)

/-- PROBE_TIMER_EXPIRY (R140). -/
def probeTimerExpiry (s : State) : State :=
  if s.monitor.state = .fault ∧ ranOut s.monitor.probe ∧ s.monitor.flight.isNone then issueProbe s else s

/-- WATCH_INTERVAL_EXPIRY (R141). -/
def watchIntervalExpiry (d : Degree) (s : State) : State :=
  let w := s.watch d
  if w.state = .waiting ∧ ranOut w.interval then
    issueNext (requestScan (watchRequest d) (modWatch d (fun w => { w with state := .queued, interval := none }) s))
  else s

/-- The level a completion reports; none when it carries neither a number nor OFF (R142). -/
def reportedLevel : Applied → Option Level
  | .num v => some (.num v)
  | .off => some .off
  | .neither => none

/-- ACTUATOR_COMPLETION (R142): taken when it carries the issue number of the command in flight and a level. -/
def actuatorCompletion (d : Degree) (issue : Nat) (applied : Applied) (s : State) : State :=
  match (s.act d).flight, reportedLevel applied with
  | some f, some level =>
    if f.issue = issue then settleAct (legApplied f.leg level (modAct d (fun a => { a with flight := none }) s)) else s
  | _, _ => s

/-- ACTUATOR_TIMEOUT (R143): FAULT, handed to the arbiter (R111), then announced (R145). -/
def actuatorTimeout (d : Degree) (s : State) : State :=
  match (s.act d).flight with
  | none => s
  | some f =>
    if f.timer ≠ 0 then s
    else
      settleAct (announce .actuator (some d) 1
        (arbiterFault d (modAct d (fun a => { a with faulted := true, flight := none }) s)))

/-! ### The meanings -/

/-- SCAN_RESULT (R136). -/
def execScanResult (issue : Nat) (readings : List Int) (s : State) : Host.Outcome State Fault Refusal :=
  .next (scanResult issue readings s)

/-- SCAN_TIMEOUT (R138). -/
def execScanTimeout (s : State) : Host.Outcome State Fault Refusal := .next (scanTimeout s)

/-- PROBE_TIMER_EXPIRY (R140). -/
def execProbeTimerExpiry (s : State) : Host.Outcome State Fault Refusal := .next (probeTimerExpiry s)

/-- WATCH_INTERVAL_EXPIRY (R141). -/
def execWatchIntervalExpiry (d : Degree) (s : State) : Host.Outcome State Fault Refusal := .next (watchIntervalExpiry d s)

/-- ACTUATOR_COMPLETION (R142). -/
def execActuatorCompletion (d : Degree) (issue : Nat) (applied : Applied) (s : State) : Host.Outcome State Fault Refusal :=
  .next (actuatorCompletion d issue applied s)

/-- ACTUATOR_TIMEOUT (R143). -/
def execActuatorTimeout (d : Degree) (s : State) : Host.Outcome State Fault Refusal := .next (actuatorTimeout d s)

end Sys2Proof.Machine
end

