-- ==== Sys2Proof/Machine/PathEngine.lean ====
section
/-! DEFINITION. The shared operations of the path engine and the supervisory links: reservation checks and takes (chapter 4), acceptance,
teardown and link loss (chapter 5), and the raising and loss of a link (chapter 9). -/

namespace Sys2Proof.Machine

/-! ### Contexts put in use (R52) -/

/-- A context at its allocation by a reservation (R38, R52). -/
def newContext (id : JobId) (place : Place) (owner : Option Port) (bidir : Bool) (first count : Nat) (density : Int)
    (route : Option (List RawHop)) (hopIndex : Nat) (params : PerDegree DegreeParams) : Context :=
  let t := targetLevel density count
  { id := id, place := place, phase := .holding, owner := owner, bidir := bidir, first := first, count := count,
    density := density, route := route, hopIndex := hopIndex, hold := none, path := none, lock := none, teardown := none,
    failure := none, failLeg := none, failSteps := [], reached := false, fwd := forwardLeg place t params,
    rev := if bidir then some (reverseLeg place t params) else none }

/-- T is at or above the level floor of every line leg's egress degree (R5, R61, R63). -/
def levelsOk (place : Place) (bidir : Bool) (t : Int) (params : PerDegree DegreeParams) : Bool :=
  (lineEgress place bidir).all (fun d => decide ((params.get d).levelFloor ≤ t))

/-- The entries a context's entry set has in the map. -/
def entrySetOf (s : State) (c : Context) : List SliceEntry := s.map.readRuns c.first c.count c.entrySet

/-- The reason an OPEN gives for a refusal cause of the map (R61 check 8). -/
def reasonOfCause : Cause → Reason
  | .conflict => .conflict
  | .blocked => .blocked
  | _ => .nodeStarting

/-- The link of degree `d` is UP toward node `n`: none, or the cause it is not (R61 checks 4 and 5, R63 checks 4 and 5). -/
def linkCause (d : Degree) (n : Nat) (s : State) : Option Cause :=
  if (s.link d).up then
    (if (s.link d).neighbour.any (fun x => x.1 = n) then none else some .badRoute)
  else some .linkDown

/-! ### RESERVE (R63 to R65) -/

/-- The form checks of a RESERVE (R63 check 2): R58, R59, run, density, flag, and this node's hop. -/
def reserveFormOk (f : ReserveFields) (s : State) : Bool :=
  routeOk f.hops && decide (1 ≤ f.hopIndex ∧ f.hopIndex < f.hops.length) && channelRunOk f.first f.count
    && densityOk f.density && decide (f.bidir ≤ 1)
    && ((f.hops[f.hopIndex]?).any (fun h => h.node = s.node.nodeId))

/-- Where a RESERVE arriving on `d` puts this node: TAIL at a hop with egress point L, TRANSIT at a hop with an enabled degree other
than `d` (R40, R63 check 3). -/
def reservePlace (d : Degree) (hop : RawHop) (s : State) : Option Place :=
  if hop.egress = 0 then some (.tail d)
  else match hopDegree hop with
    | some e => if e ≠ d ∧ (s.deg e).enabled then some (.transit d e) else none
    | none => none

/-- The context a RESERVE would put in use. -/
def reserveContext (f : ReserveFields) (place : Place) (hop : RawHop) (s : State) : Context :=
  newContext f.job place
    (match place with
     | .tail _ => Port.ofInt hop.drop
     | _ => none)
    (f.bidir == 1) f.first f.count f.density none f.hopIndex s.degrees

/-- The checks 4 to 9 of R63 for a place: the cause of the first that fails. -/
def reserveCause (f : ReserveFields) (place : Place) (hop : RawHop) (s : State) : Option Cause :=
  let link := match place with
    | .transit _ e => linkCause e ((f.hops[f.hopIndex + 1]?.map (·.node)).getD 0) s
    | _ => none
  match link with
  | some c => some c
  | none =>
    if Config.maxContexts ≤ s.jobs.length then some .noContext
    else if (s.ctx? f.job).isSome then some .duplicate
    else if !levelsOk place (f.bidir == 1) (targetLevel f.density f.count) s.degrees then some .badLevel
    else reservationCause (entrySetOf s (reserveContext f place hop s))

/-- A RESERVE that passes every check: at a transit held, holding and forwarded (R64); at the tail booked and confirmed (R65). -/
def takeReserve (d : Degree) (f : ReserveFields) (place : Place) (hop : RawHop) (s : State) : State :=
  let c := reserveContext f place hop s
  match place with
  | .tail _ =>
    send d (.reserveOk f.job)
      (addCtx { c with phase := .booked, path := some s.node.pathLimit, reached := true }
        (changeFor c c.entrySet (SliceEntry.takeBooked f.job) s))
  | .transit _ e =>
    send e (.reserve { f with hopIndex := f.hopIndex + 1 })
      (addCtx { c with hold := some s.node.holdTime } (changeFor c c.entrySet (SliceEntry.take f.job) s))
  | .head _ => s

/-- A RESERVE arriving on degree `d` (R63): the first check that fails gives the cause of the REFUSE sent upstream. -/
def reserveAt (d : Degree) (f : ReserveFields) (s : State) : State :=
  let refuse (c : Cause) : State := send d (.refuse f.job c s.node.nodeId) s
  if !s.running then refuse .nodeStarting
  else if !reserveFormOk f s then refuse .badRoute
  else
    match f.hops[f.hopIndex]? with
    | none => refuse .badRoute
    | some hop =>
      match reservePlace d hop s with
      | none => refuse .badRoute
      | some place =>
        match reserveCause f place hop s with
        | some c => refuse c
        | none => takeReserve d f place hop s

/-! ### OPEN (R60 to R62) -/

/-- The first failing check of R61, or the degree of hop 0. -/
def openPlace (f : OpenFields) (s : State) : Except Reason Degree :=
  match f.route with
  | h0 :: h1 :: _ =>
    if !s.running then .error .nodeStarting
    else if h0.node ≠ s.node.nodeId then .error .badRoute
    else
      match hopDegree h0 with
      | none => .error .badRoute
      | some d =>
        if !(s.deg d).enabled then .error .badRoute
        else
          match linkCause d h1.node s with
          | some .linkDown => .error .linkDown
          | some _ => .error .badRoute
          | none =>
            if Config.maxContexts ≤ s.jobs.length then .error .noContext
            else if !levelsOk (.head d) (f.bidir == 1) (targetLevel f.density f.count.toNat) s.degrees then .error .badLevel
            else .ok d
  | _ => .error .badRoute

/-- The context an OPEN from port `p` would put in use, its egress degree and sequence number given. -/
def openContext (p : Port) (f : OpenFields) (d : Degree) (seq : Nat) (s : State) : Context :=
  newContext ⟨s.node.nodeId, seq⟩ (.head d) (some p) (f.bidir == 1) f.first.toNat f.count.toNat f.density (some f.route) 0
    s.degrees

/-- An OPEN (R60 to R62): the reason it is refused for, or the context to put in use. -/
def openCheck (p : Port) (f : OpenFields) (s : State) : Except Reason Context :=
  if !bitOk f.bidir then .error .badRequest
  else if !(channelRunOk f.first f.count && densityOk f.density) then .error .badRange
  else if !routeOk f.route then .error .badRoute
  else
    match openPlace f s with
    | .error r => .error r
    | .ok d =>
      let c := openContext p f d (freeSequence s (Config.maxContexts + 1) s.seqCounter) s
      match reservationCause (entrySetOf s c) with
      | some cause => .error (reasonOfCause cause)
      | none => .ok c

/-- The RESERVE the head sends (R59). -/
def openReserve (f : OpenFields) (id : JobId) : Message :=
  .reserve ⟨id, 1, f.first.toNat, f.count.toNat, f.density, f.bidir.toNat, f.route⟩

/-- An accepted OPEN (R62) but for its reply: entries HELD, the context in HOLDING, the counter past the number given, RESERVE sent
downstream. -/
def takeOpen (f : OpenFields) (c : Context) (s : State) : State :=
  let s1 := addCtx { c with hold := some s.node.holdTime } (changeFor c c.entrySet (SliceEntry.take c.id) s)
  sendOn c.place.down? (openReserve f c.id) { s1 with seqCounter := if c.id.seq = 65535 then 1 else c.id.seq + 1 }

/-! ### The end of a reservation (R67, R70 to R74) -/

/-- The REFUSED outcome at the head (R74). A REFUSE carries no verdict, so the record holds verdict 0 (NONE), also beside a cause byte 1
(RETRIES_EXHAUSTED), which R74 does not list (DESIGN CHOICE, log 15). -/
def refusedOutcome (c : Context) (cause : Cause) (node : Nat) (s : State) : State :=
  freeContext c (writeResult c .refused (some ⟨cause, 0#8, node⟩)
    (notifyOwner c.owner (.refused c.id cause node) (releaseSet c s)))

/-- A HOLDING context ended by a refusal from downstream, or by something that counts as one (R70, R72): REFUSE upstream at a
transit, the REFUSED outcome at the head. -/
def endHolding (c : Context) (cause : Cause) (node : Nat) (s : State) : State :=
  match c.place with
  | .head _ => refusedOutcome c cause node s
  | _ => freeContext c (sendOn c.place.up? (.refuse c.id cause node) (releaseSet c s))

/-- The hold timer's expiry (R67): RELEASE goes downstream, then as a refusal EXPIRED by this node. -/
def expireHolding (c : Context) (s : State) : State :=
  endHolding c .expired s.node.nodeId (sendOn c.place.down? (.release c.id) (releaseSet c s))

/-- A HOLDING or BOOKED context released from upstream, or a HOLDING one cut off from it (R71, R73). -/
def releaseReservation (c : Context) (s : State) : State :=
  freeContext c (sendOn c.place.down? (.release c.id) (releaseSet c s))

/-! ### Acceptance (R29, R81, R82, R85) -/

/-- Acceptance of a job at this node: entries LIVE, phase LIVE, timers stopped, COMMISSIONED recorded. -/
def acceptJob (c : Context) (s : State) : State :=
  writeResult c .commissioned none
    (modCtx c.id (fun c => { c with phase := .live, path := none, lock := none })
      (changeFor c c.entrySet (SliceEntry.accept c.id) s))

/-! ### Teardown (R93 to R95) -/

/-- A TEARDOWN head or transit begins its ramp-down, where every line leg is still AT_TARGET (R95). -/
def beginRampDown (id : JobId) (s : State) : State :=
  onCtx id (fun c s =>
    if c.allAtTarget then checkEnded id (handAll c (modCtx id (fun c => { c with teardown := none }) s)) else s) s

/-- A LIVE head or transit enters TEARDOWN: DROP downstream and the teardown timer, or the ramp-down at once when the downstream link
is DOWN (R93). -/
def startTeardown (c : Context) (d : Degree) (s : State) : State :=
  let s1 := modCtx c.id (fun c => { c with phase := .teardown }) s
  if (s.link d).up then
    send d (.drop c.id) (modCtx c.id (fun c => { c with teardown := some s.node.pathLimit }) s1)
  else beginRampDown c.id s1

/-- A LIVE tail enters TEARDOWN: CLOSING notified, its reverse line leg handed for ramp-down, and its end at once when it has none
(R94). -/
def tailTeardown (c : Context) (s : State) : State :=
  checkEnded c.id (handAll c (notifyOwner c.owner (.closing c.id)
    (modCtx c.id (fun c => { c with phase := .teardown }) s)))

/-- A CLOSE, or a DROP on the upstream degree, taken in LIVE (R93, R94). -/
def closeLive (c : Context) (s : State) : State :=
  match c.place with
  | .head d => startTeardown c d s
  | .transit _ d => startTeardown c d s
  | .tail _ => tailTeardown c s

/-! ### Links (R72, R73, R97, R98, R154, R155) -/

/-- What the loss of the link of degree `d` does to one job that uses it (R72, R73, R97, R98). -/
def lossOf (d : Degree) (c : Context) (s : State) : State :=
  match c.phase with
  | .holding =>
    if c.place.down? = some d then endHolding c .linkDown s.node.nodeId s else releaseReservation c s
  | .teardown => if c.place.down? = some d then beginRampDown c.id s else s
  | .live => s
  | .failing => s
  | _ => failLocally c.id .linkDown s

/-- The path engine's acts at the loss of a link: every context using the degree, in ascending job id (R97). -/
def linkLoss (d : Degree) (s : State) : State :=
  ((s.jobs.filter (fun c => c.uses d)).map (·.id)).foldl (fun s id => onCtx id (lossOf d) s) s

/-- The link unit at the loss of its link (R155 steps 1 to 3). -/
def Link.lose (l : Link) : Link := { l with up := false, timeout := none, neighbour := none, queue := [] }

/-- A link becomes DOWN (R155). -/
def linkDown (d : Degree) (s : State) : State := announce .link (some d) 0 (linkLoss d (modLink d Link.lose s))

/-- The link unit raised by a HELLO (R154). -/
def Link.raise (node degree : Nat) (flags : ErrorFlags) (timeout : Nat) (l : Link) : Link :=
  { l with up := true, neighbour := some (node, degree), farFlags := flags, timeout := some timeout }

/-- A link becomes UP (R154). -/
def linkUp (d : Degree) (node degree : Nat) (flags : ErrorFlags) (s : State) : State :=
  announce .link (some d) 1 (modLink d (Link.raise node degree flags s.node.linkTimeout) s)

end Sys2Proof.Machine
end

