-- ==== Sys2Proof/Machine/LinkEvents.lean ====
section
/-! DEFINITION. The events of a supervisory link (chapter 9): HELLO_TIMER_EXPIRY (R148), FRAMER_SEND_REQUEST (R149), the messages
discarded by R150, R151 and R152, HELLO (R153, R154), LINK_TIMEOUT_EXPIRY (R155). -/

namespace Sys2Proof.Machine

/-! ### Sending -/

/-- A HELLO formed: it replaces one already pending, and the timer restarts (R148). -/
def Link.formHello (l : Link) : Link := { l with pendingHello := true, helloTimer := some Config.helloPeriod }

def helloTimerExpiry (d : Degree) (s : State) : State :=
  if (s.deg d).enabled ∧ ranOut (s.link d).helloTimer then modLink d Link.formHello s else s

/-- What the framer takes: the pending HELLO, its node id and flags read now and the flags cleared, else the head of the queue
(R148, R149). -/
def Link.handOver (node : Nat) (d : Degree) (l : Link) : Link :=
  if l.pendingHello then
    { l with pendingHello := false, localFlags := noErrors, handed := helloBytes node d.toNat l.localFlags }
  else
    match l.queue with
    | [] => l
    | m :: rest => { l with queue := rest, handed := m.bytes }

def framerSendRequest (d : Degree) (s : State) : State :=
  if (s.deg d).enabled then modLink d (Link.handOver s.node.nodeId d) s else s

/-! ### Receiving -/

/-- A message delivered on an enabled degree; on a disabled one it is discarded unchecked (R147). -/
def onEnabled (d : Degree) (act : State → State) (s : State) : State := if (s.deg d).enabled then act s else s

/-- A message whose header passed R150 as clean or corrected. -/
def withHeader (d : Degree) (h : Header) (act : State → State) (s : State) : State :=
  onEnabled d (fun s => act (modLink d (Link.noteHeader h) s)) s

/-- A link unit's timeout timer started anew with the stored link timeout (R153). -/
def restartTimeout (d : Degree) (s : State) : State :=
  modLink d (fun l => { l with timeout := some s.node.linkTimeout }) s

/-- A valid path message: handed to the path engine on an UP link, discarded on a DOWN one (R153). -/
def receivePath (d : Degree) (h : Header) (act : State → State) (s : State) : State :=
  withHeader d h (fun s => if (s.link d).up then act (restartTimeout d s) else s) s

/-- The sender of a HELLO is a node and a degree (R152). -/
def helloOk (node degree : Nat) : Bool := nodeIdOk node && (Degree.ofInt degree).isSome

/-- The HELLO is from the neighbour the link knows (R154). -/
def Link.knows (node : Nat) (l : Link) : Bool := l.neighbour.any (fun n => n.1 = node)

/-- A HELLO taken (R152, R153, R154). -/
def takeHello (d : Degree) (node degree : Nat) (flags : ErrorFlags) (s : State) : State :=
  if helloOk node degree then
    (if (s.link d).up then
      (if (s.link d).knows node then modLink d (Link.raise node degree flags s.node.linkTimeout) s
       else settleAct (linkUp d node degree flags (linkDown d s)))
     else linkUp d node degree flags s)
  else modLink d Link.noteBodyBad s

/-- The timeout of an UP link has run out. A message taken first has restarted it, and the expiry does not happen (R155). -/
def linkTimeoutExpiry (d : Degree) (s : State) : State :=
  if (s.link d).up ∧ ranOut (s.link d).timeout then settleAct (linkDown d s) else s

/-! ### The meanings -/

/-- HELLO_TIMER_EXPIRY (R148). -/
def execHelloTimerExpiry (d : Degree) (s : State) : Host.Outcome State Fault Refusal := .next (helloTimerExpiry d s)

/-- FRAMER_SEND_REQUEST (R149). -/
def execFramerSendRequest (d : Degree) (s : State) : Host.Outcome State Fault Refusal := .next (framerSendRequest d s)

/-- HEADER_UNCORRECTABLE (R150). -/
def execHeaderUncorrectable (d : Degree) (s : State) : Host.Outcome State Fault Refusal :=
  .next (onEnabled d (modLink d Link.noteUncorrectable) s)

/-- UNKNOWN_KIND (R151). -/
def execUnknownKind (d : Degree) (h : Header) (s : State) : Host.Outcome State Fault Refusal :=
  .next (withHeader d h (modLink d Link.noteUnknownKind) s)

/-- BODY_BAD (R152). -/
def execBodyBad (d : Degree) (h : Header) (s : State) : Host.Outcome State Fault Refusal :=
  .next (withHeader d h (modLink d Link.noteBodyBad) s)

/-- HELLO (R154). -/
def execHello (d : Degree) (h : Header) (node degree : Nat) (flags : ErrorFlags) (s : State) :
    Host.Outcome State Fault Refusal :=
  .next (withHeader d h (takeHello d node degree flags) s)

/-- LINK_TIMEOUT_EXPIRY (R155). -/
def execLinkTimeoutExpiry (d : Degree) (s : State) : Host.Outcome State Fault Refusal := .next (linkTimeoutExpiry d s)

end Sys2Proof.Machine
end

