-- ==== Sys2Proof/Machine/PathMessages.lean ====
section
/-! DEFINITION. The path messages as they arrive (chapters 4 and 5): RESERVE, RESERVE_OK, REFUSE, RELEASE, RAMP_TURN, PATH_UP, FAIL,
DROP, DOWN_TURN. -/

namespace Sys2Proof.Machine

/-! ### Reservation (R68 to R71) -/

/-- The context of a confirmed reservation (R44, R68). -/
def Context.confirmed (pathLimit : Nat) (c : Context) : Context :=
  { c with phase := .booked, hold := none, path := some pathLimit, reached := true }

/-- A HOLDING job confirmed: a transit sends RESERVE_OK on, a head notifies and begins bring-up (R68, R76). -/
def confirmHolding (c : Context) (s : State) : State :=
  let s1 := modCtx c.id (Context.confirmed s.node.pathLimit) (changeFor c c.entrySet (SliceEntry.confirm c.id) s)
  match c.place with
  | .transit u _ => send u (.reserveOk c.id) s1
  | .head _ =>
    joinUp ⟨c.id, .fwd⟩ .step
      (modCtx c.id (fun c => { c with phase := .bringupFwd }) (notifyOwner c.owner (.reserved c.id) s1))
  | .tail _ => s1

/-- A RESERVE_OK arriving on degree `d` (R68, R69). -/
def takeReserveOk (d : Degree) (id : JobId) (s : State) : State :=
  match s.ctx? id with
  | none => send d (.release id) s
  | some c =>
    if c.phase = .holding ∧ c.place.down? = some d then settleAct (confirmHolding c s) else s

/-- A REFUSE arriving on degree `d` (R70). -/
def takeRefuse (d : Degree) (id : JobId) (cause : Cause) (node : Nat) (s : State) : State :=
  onCtx id (fun c s => if c.phase = .holding ∧ c.place.down? = some d then endHolding c cause node s else s) s

/-- A RELEASE taken: from BOOKED it leaves a FAILED record with cause RELEASED (R71). -/
def takeRelease (c : Context) (s : State) : State :=
  releaseReservation c
    (if c.phase = .booked then writeResult c .failed (some ⟨.released, 0#8, s.node.nodeId⟩) s else s)

/-- A RELEASE arriving on degree `d` (R71). -/
def releaseAt (d : Degree) (id : JobId) (s : State) : State :=
  onCtx id (fun c s =>
    if (c.phase = .holding ∨ c.phase = .booked) ∧ c.place.up? = some d then takeRelease c s else s) s

/-! ### RAMP_TURN (R78, R79, R84) -/

/-- The ingress run on the degree of arrival goes LIT (R28). -/
def lightIngress (c : Context) (d : Degree) (s : State) : State :=
  changeFor c [(d, .incoming)] (SliceEntry.light c.id) s

/-- A context that enters an AWAIT_LOCK phase (R44). -/
def Context.awaitLock (phase : Phase) (lockWait : Nat) (c : Context) : Context :=
  { c with phase := phase, lock := some lockWait }

/-- The forward turn at a transit (R78) and at the tail (R79), arriving upstream in BOOKED. -/
def turnForward (d : Degree) (c : Context) (s : State) : State :=
  if c.phase = .booked ∧ c.place.up? = some d then
    (match c.place with
     | .transit _ _ =>
       settleAct (joinUp ⟨c.id, .fwd⟩ .step (modCtx c.id (fun c => { c with phase := .bringupFwd }) (lightIngress c d s)))
     | .tail _ =>
       notifyOwner c.owner (.lockQuery c.id .fwd)
         (modCtx c.id (Context.awaitLock .awaitLockFwd s.node.lockWait) (lightIngress c d s))
     | .head _ => s)
  else s

/-- The forward leg is a line leg at AT_TARGET. -/
def Context.forwardAtTarget (c : Context) : Bool := (c.line? .fwd).any (fun l => l.state == .atTarget)

/-- The reverse turn at a transit and at the head, arriving downstream (R84). -/
def turnReverse (d : Degree) (c : Context) (s : State) : State :=
  if c.bidir ∧ c.phase = .bringupFwd ∧ c.place.down? = some d ∧ c.forwardAtTarget then
    (match c.place with
     | .transit _ _ =>
       settleAct (joinUp ⟨c.id, .rev⟩ .step (modCtx c.id (fun c => { c with phase := .bringupRev }) (lightIngress c d s)))
     | .head _ =>
       notifyOwner c.owner (.lockQuery c.id .rev)
         (modCtx c.id (Context.awaitLock .awaitLockRev s.node.lockWait) (lightIngress c d s))
     | .tail _ => s)
  else s

/-- A RAMP_TURN arriving on degree `d`; a direction byte with no code matches no rule (R184). -/
def takeRampTurn (d : Degree) (id : JobId) (dir : Nat) (s : State) : State :=
  match Dir.ofCode dir with
  | some .fwd => onCtx id (turnForward d) s
  | some .rev => onCtx id (turnReverse d) s
  | none => s

/-! ### PATH_UP (R82) -/

/-- The rows of R82 but for the legs: where a taken PATH_UP goes on, or none for the owner's notice. -/
def pathUpRow (d : Degree) (c : Context) : Option (Option Degree) :=
  match c.bidir, c.place, c.phase with
  | false, .transit u e, .bringupFwd => if d = e then some (some u) else none
  | false, .head e, .bringupFwd => if d = e then some none else none
  | true, .transit u e, .bringupRev => if d = u then some (some e) else none
  | true, .tail u, .bringupRev => if d = u then some none else none
  | _, _, _ => none

def acceptPathUp (d : Degree) (c : Context) (s : State) : State :=
  match pathUpRow d c with
  | none => s
  | some onward =>
    if c.allAtTarget then
      (match onward with
       | some e => send e (.pathUp c.id) (acceptJob c s)
       | none => notifyOwner c.owner (.commissioned c.id) (acceptJob c s))
    else s

/-! ### FAIL, DROP, DOWN_TURN (R90, R93 to R95) -/

/-- A FAIL arriving on one of the job's degrees, in a phase in which the job can fail (R90, R91, R96). -/
def takeFail (d : Degree) (id : JobId) (f : Failure) (s : State) : State :=
  onCtx id (fun c s => if c.uses d ∧ c.phase.canFail then settleAct (failJob id f none (some d) s) else s) s

/-- A DROP arriving upstream of a LIVE context (R93, R94). -/
def takeDrop (d : Degree) (c : Context) (s : State) : State :=
  if c.phase = .live ∧ c.place.up? = some d then settleAct (closeLive c s) else s

/-- A DOWN_TURN arriving downstream of a context in TEARDOWN whose ramp-down has not begun (R95). -/
def takeDownTurn (d : Degree) (c : Context) (s : State) : State :=
  if c.phase = .teardown ∧ c.place.down? = some d ∧ c.allAtTarget then settleAct (beginRampDown c.id s) else s

/-! ### The meanings -/

/-- RESERVE (R63). -/
def execReserve (d : Degree) (h : Header) (f : ReserveFields) (s : State) : Host.Outcome State Fault Refusal :=
  .next (receivePath d h (reserveAt d f) s)

/-- RESERVE_OK (R68). -/
def execReserveOk (d : Degree) (h : Header) (job : JobId) (s : State) : Host.Outcome State Fault Refusal :=
  .next (receivePath d h (takeReserveOk d job) s)

/-- REFUSE (R70). -/
def execRefuse (d : Degree) (h : Header) (job : JobId) (cause : Cause) (node : Nat) (s : State) :
    Host.Outcome State Fault Refusal :=
  .next (receivePath d h (takeRefuse d job cause node) s)

/-- RELEASE (R71). -/
def execRelease (d : Degree) (h : Header) (job : JobId) (s : State) : Host.Outcome State Fault Refusal :=
  .next (receivePath d h (releaseAt d job) s)

/-- RAMP_TURN (R78). -/
def execRampTurn (d : Degree) (h : Header) (job : JobId) (dir : Nat) (s : State) : Host.Outcome State Fault Refusal :=
  .next (receivePath d h (takeRampTurn d job dir) s)

/-- PATH_UP (R82). -/
def execPathUp (d : Degree) (h : Header) (job : JobId) (s : State) : Host.Outcome State Fault Refusal :=
  .next (receivePath d h (onCtx job (acceptPathUp d)) s)

/-- FAIL (R90). -/
def execFail (d : Degree) (h : Header) (job : JobId) (cause : Cause) (verdict : Byte) (origin : Nat) (s : State) :
    Host.Outcome State Fault Refusal :=
  .next (receivePath d h (takeFail d job ⟨cause, verdict, origin⟩) s)

/-- DROP (R93, R94). -/
def execDrop (d : Degree) (h : Header) (job : JobId) (s : State) : Host.Outcome State Fault Refusal :=
  .next (receivePath d h (onCtx job (takeDrop d)) s)

/-- DOWN_TURN (R95). -/
def execDownTurn (d : Degree) (h : Header) (job : JobId) (s : State) : Host.Outcome State Fault Refusal :=
  .next (receivePath d h (onCtx job (takeDownTurn d)) s)

end Sys2Proof.Machine
end

