-- ==== Sys2Proof/Machine/Replies.lean ====
section
/-! DEFINITION. What replies and notices carry, item by item (R180, R181), and the frames they are sent as (R179). Where the spec lists
fields without numbering their parts, the numbers are the model's reading (log 9, and log 23 for the runs of QUERY_MAP); codes R185 does
not give are log 10, and log 25 for names of one table row and for flags. -/

namespace Sys2Proof.Machine

/-! ### Building items -/

/-- Fields numbered from `n` on; an absent field has no item and the fields after it keep their numbers (R180). -/
def itemsFrom : Nat → List (Option Int) → List Item
  | _, [] => []
  | n, v :: vs => (match v with
      | some x => [⟨n, x⟩]
      | none => []) ++ itemsFrom (n + 1) vs

/-- A list at place `n`: its item holds the number of members, and each member stands between items 255 and 254 (R180). -/
def listAt (n : Nat) (members : List (List Item)) : List Item :=
  ⟨n, members.length⟩ :: members.flatMap (fun m => ⟨255, 0⟩ :: m ++ [⟨254, 0⟩])

/-- A field of several values: a list of one member; absent when there is none (R180). -/
def optListAt (n : Nat) (member : Option (List Item)) : List Item :=
  match member with
  | some m => listAt n [m]
  | none => []

def nat (n : Nat) : Option Int := some n
def bit (b : Bool) : Option Int := some b.toNat
def optNat (n : Option Nat) : Option Int := n.map (fun x => (x : Int))
def timeItem (t : BitVec 32) : Int := t.toInt

/-! ### Codes (R185, log 10) -/

def LegState.code : LegState → Nat
  | .dark => 0
  | .queued => 1
  | .headroomWait => 2
  | .stepping => 3
  | .backoff => 4
  | .frozen => 5
  | .atTarget => 6
  | .rampingDown => 7
  | .off => 8

def StepKind.code : StepKind → Nat
  | .lightOn => 0
  | .up => 1
  | .down => 2
  | .backoff => 3
  | .recheck => 4

def Phase.code : Phase → Nat
  | .holding => 0
  | .booked => 1
  | .bringupFwd => 2
  | .awaitLockFwd => 3
  | .bringupRev => 4
  | .awaitLockRev => 5
  | .live => 6
  | .teardown => 7
  | .failing => 8

def JobOutcome.code : JobOutcome → Nat
  | .commissioned => 0
  | .closed => 1
  | .failed => 2
  | .aborted => 3
  | .refused => 4

def EventKind.code : EventKind → Nat
  | .dark => 0
  | .actuator => 1
  | .monitor => 2
  | .link => 3

def Stage.code : Stage → Nat
  | .baseline => 0
  | .actuate => 1
  | .settle => 2
  | .verify => 3

def StepClass.code : StepClass → Nat
  | .up => 0
  | .down => 1

def RequestKind.code : RequestKind → Nat
  | .step => 0
  | .retry => 1

def FrozenBy.code : FrozenBy → Nat
  | .dark => 0
  | .monitor => 1

/-- A watch state (DESIGN CHOICE, log 10): R141's table, which lists the names, has several rows for one state, so the distinct names are
numbered from 0 in the order in which they first appear in it. -/
def WatchState.code : WatchState → Nat
  | .queued => 0
  | .inFlight => 1
  | .waiting => 2
  | .stopped => 3

/-- A leg reference's own values: its job id and its direction (R41). -/
def LegRef.items (r : LegRef) : List Item := itemsFrom 1 [some r.job.item, nat r.dir.code]

/-- Four error flags, 1 for set (log 25). -/
def flagItems (x : ErrorFlags) : List Item := itemsFrom 1 [bit x.corrected, bit x.uncorrectable, bit x.bodyBad, bit x.unknownKind]

/-- The five error counts (R146, R156), one field of several values, where other counts are a field each (DESIGN CHOICE, log 9). -/
def LinkCounts.items (n : LinkCounts) : List Item :=
  itemsFrom 1 [nat n.corrected, nat n.uncorrectable, nat n.bodyBad, nat n.unknownKind, nat n.dropped]

/-! ### Jobs and legs (R56) -/

/-- A step record (R51). -/
def StepRecord.items (x : StepRecord) : List Item :=
  itemsFrom 1 [nat x.number, nat x.kind.code, some x.fromLevel.item, some x.requested.item, x.applied.map Level.item,
    x.measured, x.deviation, x.worst, nat x.verdict.code, nat x.scansUsed]

/-- An entry of an observed set (R48). -/
def Observed.items (o : Observed) : List Item :=
  itemsFrom 1 [some o.job.item] ++ listAt 2 [itemsFrom 1 [nat o.first, nat o.count]] ++ itemsFrom 3 [o.baseline]

/-- The per-step state (R48). -/
def StepState.items (st : StepState) : List Item :=
  itemsFrom 1 [nat st.cls.code, nat st.kind.code, nat st.stage.code, some st.fromLevel.item, some st.requested.item]
    ++ listAt 6 (st.observed.map Observed.items)
    ++ itemsFrom 7 [nat st.failingRun, nat st.scansUsed, st.worst]

/-- The running leg timers, each its name (its row of R50) and its remaining time. -/
def LineLeg.timers (l : LineLeg) : List (List Item) :=
  ([(0, l.settle), (1, l.spacing), (2, l.retry), (3, l.darkTimer), (4, l.headroom)] : List (Nat × Option Nat)).filterMap
    (fun x => x.2.map (fun t => itemsFrom 1 [nat x.1, nat t]))

/-- A line leg (R46, R56); a flag is 1 when set (log 25). R56 lists the direction and the points and then every field of R46, which holds
them again, and R46's table has the step history before the per-step state, R56's list has it last. Here each field is sent once, and the
order is the model's (DESIGN CHOICE, log 9): direction and points at places 1 to 3, R46's fields from the target to the worst disturbance
at 4 to 14, the per-step state 15, frozen-by 16, return state 17, the timers 18, the step history 19. -/
def LineLeg.items (dir : Dir) (l : LineLeg) : List Item :=
  itemsFrom 1 [nat dir.code, nat l.ingress.code, nat l.egress.toNat, some l.target, some l.probe, some l.level.item,
      nat l.state.code, nat l.stepsTaken, nat l.retryCount, bit l.short, bit l.unverified, l.verified, l.lastDev, l.worst]
    ++ optListAt 15 (l.step.map StepState.items)
    ++ itemsFrom 16 [l.frozen.map (fun x => (x.1.code : Int)), l.frozen.map (fun x => (x.2.code : Int))]
    ++ listAt 18 l.timers
    ++ listAt 19 (l.history.map StepRecord.items)

/-- A leg: a drop leg by its direction and its ingress degree alone (R42; log 11). -/
def legItems (x : Dir × Leg) : List Item :=
  match x.2 with
  | .line l => l.items x.1
  | .drop d => itemsFrom 1 [nat x.1.code, nat d.toNat]

/-- The last verdict a cause carries: with RETRIES_EXHAUSTED alone (R45). -/
def Failure.lastVerdict (f : Failure) : Option Int := if f.cause = .retriesExhausted then nat f.verdict.toNat else none

/-- The cause with the verdict it carries, and the origin node (R45, R170): two fields, the cause a list of one member (log 9). -/
def failureItems (n : Nat) (f : Option Failure) : List Item :=
  match f with
  | some f => listAt n [itemsFrom 1 [nat f.cause.code.toNat, f.lastVerdict]] ++ itemsFrom (n + 1) [nat f.origin]
  | none => []

/-- A context (R38, R56). -/
def Context.items (c : Context) : List Item :=
  itemsFrom 1 [some c.id.item, nat c.place.role, nat c.phase.code, c.owner.map (fun p => (p.toNat : Int)),
      c.place.up?.map (fun d => (d.toNat : Int)), c.place.down?.map (fun d => (d.toNat : Int)), bit c.bidir, nat c.first,
      nat c.count, some c.density]
    ++ (match c.route with
        | some hops => listAt 11 (hops.map (fun h => itemsFrom 1 [some h.item]))
        | none => [])
    ++ itemsFrom 12 [nat c.hopIndex, optNat c.hold, optNat c.path, optNat c.lock, optNat c.teardown]
    ++ failureItems 17 c.failure
    ++ listAt 19 [legItems (.fwd, c.fwd)]
    ++ optListAt 20 (c.rev.map (fun l => legItems (.rev, l)))

/-- The list of the contexts in use (R56). -/
def jobListItems (jobs : List Context) : List Item :=
  itemsFrom 1 [nat jobs.length]
    ++ listAt 2 (jobs.map (fun c => itemsFrom 1 [some c.id.item, nat c.place.role, nat c.phase.code]))

/-! ### The map (R34) -/

/-- Stretches of equal consecutive entries with their lengths. -/
def sliceRuns : List SliceEntry → List (SliceEntry × Nat)
  | [] => []
  | e :: es =>
    match sliceRuns es with
    | (f, n) :: rest => if e = f then (f, n + 1) :: rest else (e, 1) :: (f, n) :: rest
    | [] => [(e, 1)]

/-- A run: the state in byte 0 and the length in byte 1, then the job id where the state names a job (R180). Every run item is
numbered 5 and every job id item 6 (log 23). -/
def runItems (x : SliceEntry × Nat) : List Item :=
  itemsFrom 5 [nat (x.1.code + 256 * x.2), x.1.job?.map JobId.item]

def mapItems (r : RangeFields) (entries : List SliceEntry) : List Item :=
  itemsFrom 1 [some r.degree, some r.direction, some r.first, some r.count] ++ (sliceRuns entries).flatMap runItems

/-! ### Parameters, node and degree (R164 to R166, R114, R156) -/

def NodeParams.fields (n : NodeParams) : List (Option Int) :=
  [nat n.nodeId, nat n.holdTime, nat n.pathLimit, nat n.lockWait, nat n.silenceLimit, nat n.gapLimit, nat n.scanTimeout,
    nat n.watchInterval, nat n.linkTimeout]

def DegreeParams.fields (p : DegreeParams) : List (Option Int) :=
  [bit p.enabled, some p.stepSize, some p.probeDepth, some p.levelFloor, some p.levelCeiling, some p.outputCeiling,
    some p.guardBand, some p.egressTapOffset, some p.ingressTapOffset, nat p.amplifierCount, nat p.settleBase,
    nat p.settlePerAmp, some p.tolerance, some p.disturbanceLimit, nat p.observationWindow, nat p.failRun,
    nat p.scanSpacing, nat p.retryLimit, nat p.retryInterval, bit p.holdAll, some p.losThreshold, nat p.darkTimeout,
    nat p.headroomTimeout, nat p.actuatorTimeout]

/-- The requester of the scan in flight: a leg by job id and direction, a watch by its degree; a probe has none (R140). -/
def requesterItems (m : Monitor) : Option (List Item) :=
  match m.flight with
  | none => none
  | some f =>
    match f.request.requester with
    | .leg r => some r.items
    | .watch d => some (itemsFrom 3 [nat d.toNat])
    | .probe => none

/-- A slot link in the reply of QUERY_NODE (R164): its three counts are a field each (DESIGN CHOICE, log 9). -/
def SlotLink.items (u : SlotLink) : List Item :=
  itemsFrom 1 [bit u.up, optNat u.silence, nat u.tx.length, nat u.discarded, nat u.overrun, nat u.noticesDropped]

/-- The reply of QUERY_NODE (R164): the nine node parameters are a field each (DESIGN CHOICE, log 9). -/
def nodeItems (s : State) : List Item :=
  itemsFrom 1 ([bit s.running, nat s.node.nodeId, some (timeItem s.time)] ++ s.node.fields
      ++ [nat s.jobs.length, nat s.seqCounter, nat s.monitor.state.code, nat s.monitor.queue.length])
    ++ optListAt 17 (requesterItems s.monitor)
    ++ listAt 18 (Port.all.map (fun p => (s.port p).items))

/-- The members of the token's list: the holder with the class of its grant and the kind and stage of its step (R114). R114 says of a
token without a holder only that it is free; here its list, sent at its place, then has 0 members (DESIGN CHOICE, log 9). -/
def tokenItems (s : State) (t : Option Token) : List (List Item) :=
  match t with
  | none => []
  | some t =>
    let st := (s.leg? t.leg).bind (·.step)
    [listAt 1 [t.leg.items] ++ itemsFrom 2 [nat t.cls.code, st.map (fun x => (x.kind.code : Int)),
      st.map (fun x => (x.stage.code : Int))]]

def HeadroomCheck.items (h : HeadroomCheck) : List Item :=
  listAt 1 [h.leg.items]
    ++ itemsFrom 2 [some h.requested, some h.total, some h.limit, bit (!h.granted), some (timeItem h.time)]

/-- The reply of QUERY_DEGREE: the arbiter (R114), the link unit (R156), the devices (R145). A leg reference with further values beside
it is a list of one member (log 9); names of one table row are coded in the order written (log 25). The order in which the three rules'
lists are joined is the model's (DESIGN CHOICE, log 9): R114's as far as the last headroom check at places 1 to 8, R156's at 9 to 16, then
the actuator state 17, the dark state 18, the run count 19, the watch state 20 and the monitor state 21. -/
def degreeItems (d : Degree) (s : State) : List Item :=
  let a := s.arb d
  let l := s.link d
  let w := s.watch d
  let timer (f : LineLeg → Option Nat) (r : LegRef) : Option Int := optNat ((s.leg? r).bind f)
  itemsFrom 1 [bit (s.deg d).holdAll, bit (!a.held)]
    ++ listAt 3 (tokenItems s a.token)
    ++ listAt 4 (a.down.map LegRef.items)
    ++ listAt 5 (a.up.map (fun e => listAt 1 [e.leg.items] ++ itemsFrom 2 [nat e.kind.code]))
    ++ listAt 6 (a.wait.map (fun e => listAt 1 [e.leg.items] ++ itemsFrom 2 [nat e.kind.code, timer (·.headroom) e.leg]))
    ++ listAt 7 (a.backoff.map (fun r => listAt 1 [r.items] ++ itemsFrom 2 [timer (·.retry) r]))
    ++ optListAt 8 (a.lastCheck.map HeadroomCheck.items)
    ++ itemsFrom 9 [bit l.up, l.neighbour.map (fun n => (n.1 : Int)), l.neighbour.map (fun n => (n.2 : Int)),
        optNat l.timeout, nat l.queue.length]
    ++ listAt 14 [l.counts.items] ++ listAt 15 [flagItems l.localFlags] ++ listAt 16 [flagItems l.farFlags]
    ++ itemsFrom 17 [bit (s.act d).faulted, nat w.dark.code, nat w.run, nat w.state.code, nat s.monitor.state.code]

/-! ### The log (R173, R174) -/

def LegEntry.items (e : LegEntry) : List Item :=
  itemsFrom 1 [nat e.egress.toNat, some e.target, some e.level.item, bit e.short, nat e.stepsTaken, nat e.retryCount,
    e.lastDev, e.worst]

/-- A result record, its fields in the order of R170. -/
def ResultRecord.items (r : ResultRecord) : List Item :=
  itemsFrom 1 [some r.job.item, nat r.role, nat r.outcome.code]
    ++ failureItems 4 r.failure
    ++ itemsFrom 6 [some (timeItem r.time)]
    ++ (if r.outcome = .refused then [] else listAt 7 (r.legs.map LegEntry.items))
    ++ itemsFrom 8 [r.failLeg.map (fun d => (d.code : Int))]
    ++ (if r.preceding = [] then [] else listAt 9 (r.preceding.map StepRecord.items))

/-- A record with its slot number (R174): the record, a list of one member, then the number (log 9). -/
def recordItems (slot : Nat) (r : ResultRecord) : List Item := listAt 1 [r.items] ++ itemsFrom 2 [nat slot]

/-- The slot holding the oldest record: the one after the index once the log has wrapped, else slot 1 (R174). -/
def Results.oldest (x : Results) : Nat :=
  if (x.slots.getD (nextSlot x.index - 1) none).isSome then nextSlot x.index else 1

def prevSlot (slot : Nat) : Nat := if slot ≤ 1 then Config.logSlots else slot - 1

/-- The walk back from a slot: at most `n` records, none past the oldest, each fitting whole in the items left (R174). -/
def Results.walk (x : Results) : Nat → Nat → Nat → List (List Item)
  | 0, _, _ => []
  | n + 1, slot, room =>
    match x.slots.getD (slot - 1) none with
    | none => []
    | some r =>
      let m := recordItems slot r
      if room < m.length + 2 then []
      else m :: (if slot = x.oldest then [] else x.walk n (prevSlot slot) (room - (m.length + 2)))

/-- The reply of READ_LOG: index, number of records, records newest first; a body holds 4000 bytes, 800 items (R174, R181). -/
def logItems (x : Results) (start count : Nat) : List Item :=
  let found := x.walk (if count = 0 then Config.logSlots else count) (if start = 0 then x.index else start)
    (Config.replyMax / 5 - 3)
  itemsFrom 1 [nat x.index, nat found.length] ++ listAt 3 found

/-- The reply of READ_COUNTS (R173): the five counts are a field each, and the log index follows (DESIGN CHOICE, log 9). -/
def countItems (x : Results) : List Item :=
  itemsFrom 1 [nat x.counts.commissioned, nat x.counts.closed, nat x.counts.failed, nat x.counts.aborted,
    nat x.counts.refused, nat x.index]

/-! ### Frames (R179 to R181) -/

/-- The items of a notice (R180). -/
def Notice.items : Notice → List Item
  | .reserved j => itemsFrom 1 [some j.item]
  | .refused j c n => itemsFrom 1 [some j.item, nat c.code.toNat, nat n]
  | .lockQuery j d => itemsFrom 1 [some j.item, nat d.code]
  | .commissioned j => itemsFrom 1 [some j.item]
  | .closing j => itemsFrom 1 [some j.item]
  | .closed j => itemsFrom 1 [some j.item]
  | .failed j f => itemsFrom 1 [some j.item, nat f.cause.code.toNat, f.lastVerdict, nat f.origin]
  | .degreeEvent k d st t =>
    itemsFrom 1 [nat k.code, d.map (fun x => (x.toNat : Int)), nat st, some (timeItem t)]

/-- The kind of a notice (R179). -/
def Notice.kind : Notice → Byte
  | .reserved _ => 0xC0#8
  | .refused _ _ _ => 0xC1#8
  | .lockQuery _ _ => 0xC2#8
  | .commissioned _ => 0xC3#8
  | .closing _ => 0xC4#8
  | .closed _ => 0xC5#8
  | .failed _ _ => 0xC6#8
  | .degreeEvent _ _ _ _ => 0xC7#8

def kindDone : Byte := 0x80#8
def kindDonePart : Byte := 0x81#8
def kindRefused : Byte := 0x82#8

/-- The segments of a DONE reply: all but the last are DONE_PART with 250 bytes (R181). The fuel is an upper bound of their
number. -/
def segments : Nat → Byte → List Byte → List (List Byte)
  | 0, _, _ => []
  | n + 1, tag, body =>
    if body.length ≤ Config.bodyMax then [frameBytes kindDone tag body]
    else frameBytes kindDonePart tag (body.take Config.bodyMax) :: segments n tag (body.drop Config.bodyMax)

/-- The frames a place of the transmit queue leaves as (R181). -/
def TxFrame.wire : TxFrame → List (List Byte)
  | .reply tag (.done items) =>
    let body := bytesOfItems items
    segments (body.length / Config.bodyMax + 1) tag body
  | .reply tag (.refused r) => [frameBytes kindRefused tag (bytesOfItems [⟨1, r.code⟩])]
  | .notice n => [frameBytes n.kind 0#8 (bytesOfItems n.items)]

end Sys2Proof.Machine
end

