-- ==== Sys2Proof/Machine/NodeRequests.lean ====
section
/-! DEFINITION. RESET; the path every request travels (R159, R160, R162); and the parameter and port requests of chapter 10: NOP,
QUERY_NODE, SET_NODE, SET_DEGREE. Each request is an operation `do…` on the state in which its frame has been taken; the same
operations serve the request commands and the frames that BYTE_RECEIVED completes. -/

namespace Sys2Proof.Machine

/-! ### Taking a good frame (R159, R160) -/

/-- A slot link unit as a good frame is taken: the receiver back in HUNT, the port UP, the silence timer started anew. -/
def SlotLink.raise (limit : Nat) (u : SlotLink) : SlotLink :=
  { u with receive := none, gap := none, up := true, silence := some limit }

def raisePort (p : Port) (s : State) : State := modPort p (SlotLink.raise s.node.silenceLimit) s

/-- A request discarded at a full transmit queue (R159). -/
def SlotLink.countOverrun (u : SlotLink) : SlotLink := { u with overrun := bump u.overrun }

/-- A good frame on port `p` taken as the request `act`, unless the transmit queue holds 32 frames (R159; log 3). -/
def takeRequest (p : Port) (act : State → State) (s : State) : State :=
  if (s.port p).tx.length < Config.maxFrames then act (raisePort p s)
  else modPort p SlotLink.countOverrun (raisePort p s)

/-! ### NOP and QUERY_NODE (R164) -/

def doNop (p : Port) (tag : Byte) (s : State) : State := replyDone p tag [] s

def doQueryNode (p : Port) (tag : Byte) (s : State) : State := replyDone p tag (nodeItems s) s

/-! ### SET_NODE (R165, R167) -/

def storeNode (n : NodeParams) (s : State) : State := { s with node := n }

/-- The request would change the node id while a context is in use. -/
def nodeIdBusy (f : NodeFields) (s : State) : Bool :=
  f.nodeId.isSome && decide ((NodeParams.apply f s.node).nodeId ≠ s.node.nodeId) && !s.jobs.isEmpty

def doSetNode (p : Port) (tag : Byte) (f : NodeFields) (s : State) : State :=
  if nodeIdBusy f s then replyRefused p tag .busy s
  else replyDone p tag (itemsFrom 1 (NodeParams.apply f s.node).fields) (storeNode (NodeParams.apply f s.node) s)

/-! ### SET_DEGREE (R113, R147, R166, R167) -/

def storeDegree (d : Degree) (p : DegreeParams) (s : State) : State := { s with degrees := s.degrees.set d p }

/-- The unit of a degree that becomes enabled (R147): counts and flags cleared, a HELLO formed, the HELLO timer started. -/
def Link.enable (l : Link) : Link :=
  { l with counts := ⟨0, 0, 0, 0, 0⟩, localFlags := noErrors, pendingHello := true, helloTimer := some Config.helloPeriod }

/-- The unit of a degree that becomes disabled (R147): HELLO timer stopped, pending HELLO and queue dropped. -/
def Link.disable (l : Link) : Link := { l with helloTimer := none, pendingHello := false, queue := [] }

/-- A degree that becomes disabled loses its link if it is UP (R147, R155). -/
def disableLink (d : Degree) (s : State) : State :=
  let s1 := modLink d Link.disable s
  if (s1.link d).up then linkDown d s1 else s1

/-- The link unit's part of a SET_DEGREE that changes enabled (R147). -/
def enabledChanged (d : Degree) (before after : Bool) (s : State) : State :=
  if before = after then s else if after then modLink d Link.enable s else disableLink d s

/-- The arbiter's part of a SET_DEGREE (R113; log 19). -/
def arbiterChanged (d : Degree) (before after : DegreeParams) (s : State) : State :=
  let s1 := if before.holdAll = after.holdAll then s else modArb d (Arbiter.rehold after.holdAll) s
  if before.outputCeiling = after.outputCeiling ∧ before.guardBand = after.guardBand then s1 else requeue d s1

/-- A SET_DEGREE that is taken: stored, answered, and acted on by arbiter and link unit (R166). -/
def takeSetDegree (p : Port) (tag : Byte) (d : Degree) (f : DegreeFields) (s : State) : State :=
  let before := s.deg d
  let after := DegreeParams.apply f before
  let s1 := replyDone p tag (⟨1, d.toNat⟩ :: itemsFrom 2 after.fields) (storeDegree d after s)
  settleDegree d (enabledChanged d before.enabled after.enabled (arbiterChanged d before after s1))

/-- The enumerated fields of SET_DEGREE hold one of their two codes (R162, R166). -/
def degreeCodesOk (f : DegreeFields) : Bool := f.enabled.all bitOk && f.holdPolicy.all bitOk

/-- The request would disable a used degree (R166). -/
def disableBusy (d : Degree) (f : DegreeFields) (s : State) : Bool :=
  f.enabled == some 0 && (s.deg d).enabled && s.degreeUsed d

def doSetDegree (p : Port) (tag : Byte) (degree : Int) (f : DegreeFields) (s : State) : State :=
  if degreeCodesOk f then
    match Degree.ofInt degree with
    | none => replyRefused p tag .badRange s
    | some d => if disableBusy d f s then replyRefused p tag .busy s else takeSetDegree p tag d f s
  else replyRefused p tag .badRequest s

/-! ### The meanings -/

/-- RESET (R175, 11.5). The queue of waiting commands is the model's, not the part's, and stays (log 20). -/
def execReset (s : State) : Host.Outcome State Fault Refusal := .next { State.reset with pending := s.pending }

/-- NOP (R164). -/
def execNop (p : Port) (tag : Byte) (s : State) : Host.Outcome State Fault Refusal := .next (takeRequest p (doNop p tag) s)

/-- QUERY_NODE (R164). -/
def execQueryNode (p : Port) (tag : Byte) (s : State) : Host.Outcome State Fault Refusal :=
  .next (takeRequest p (doQueryNode p tag) s)

/-- SET_NODE (R165). -/
def execSetNode (p : Port) (tag : Byte) (f : NodeFields) (s : State) : Host.Outcome State Fault Refusal :=
  .next (takeRequest p (doSetNode p tag f) s)

/-- SET_DEGREE (R166). -/
def execSetDegree (p : Port) (tag : Byte) (degree : Int) (f : DegreeFields) (s : State) :
    Host.Outcome State Fault Refusal :=
  .next (takeRequest p (doSetDegree p tag degree f) s)

end Sys2Proof.Machine
end

