-- ==== Sys2Proof/Machine/JobRequests.lean ====
section
/-! DEFINITION. The job requests: OPEN (R60 to R62), ABORT (R92), CLOSE (R93), ADOPT (R55), LOCK_REPORT (R80 to R85), QUERY_JOB (R56),
with the checks of R54 in its order. -/

namespace Sys2Proof.Machine

/-- The request arrived on the job's owner port (R54 check 2). -/
def ownedBy (c : Context) (p : Port) : Bool := c.owner == some p

/-! ### OPEN -/

def doOpen (p : Port) (tag : Byte) (f : OpenFields) (s : State) : State :=
  match openCheck p f s with
  | .error r => replyRefused p tag r s
  | .ok c => takeOpen f c (replyDone p tag [⟨1, c.id.item⟩] s)

/-! ### ABORT -/

/-- An ABORT from the owner of a HEAD context, by its phase (R54, R92). -/
def abortOwned (p : Port) (tag : Byte) (c : Context) (s : State) : State :=
  if c.phase = .failing then replyDone p tag [] s
  else if c.phase.canFail then settleAct (failLocally c.id .aborted (replyDone p tag [] s))
  else replyRefused p tag .wrongPhase s

def doAbort (p : Port) (tag : Byte) (id : JobId) (s : State) : State :=
  match s.ctx? id with
  | none => replyRefused p tag .notFound s
  | some c =>
    if ownedBy c p ∧ c.place.role = 0 then abortOwned p tag c s else replyRefused p tag .notOwner s

/-! ### CLOSE -/

def doClose (p : Port) (tag : Byte) (id : JobId) (s : State) : State :=
  match s.ctx? id with
  | none => replyRefused p tag .notFound s
  | some c =>
    if ownedBy c p ∨ c.place.role = 1 then
      (if c.phase = .live then settleAct (closeLive c (replyDone p tag [] s)) else replyRefused p tag .wrongPhase s)
    else replyRefused p tag .notOwner s

/-! ### ADOPT -/

/-- LOCK_QUERY to the owner of a job that awaits lock (R55, R79, R84). -/
def queryLock (c : Context) (s : State) : State :=
  match c.phase with
  | .awaitLockFwd => notifyOwner c.owner (.lockQuery c.id .fwd) s
  | .awaitLockRev => notifyOwner c.owner (.lockQuery c.id .rev) s
  | _ => s

/-- The owner port becomes the requesting port (R55 check 5). -/
def takeOwner (p : Port) (c : Context) (s : State) : State :=
  queryLock { c with owner := some p } (modCtx c.id (fun c => { c with owner := some p }) s)

def doAdopt (p : Port) (tag : Byte) (id : JobId) (s : State) : State :=
  match s.ctx? id with
  | none => replyRefused p tag .notFound s
  | some c =>
    match c.owner with
    | none => replyRefused p tag .notOwner s
    | some q =>
      if q = p then replyDone p tag [] s
      else if (s.port q).up then replyRefused p tag .ownerAlive s
      else takeOwner p c (replyDone p tag [] s)

/-! ### LOCK_REPORT -/

def Phase.awaitsLock : Phase → Bool
  | .awaitLockFwd => true
  | .awaitLockRev => true
  | _ => false

/-- A tail of a bidirectional job turns it round (R83). -/
def turnRound (c : Context) (s : State) : State :=
  joinUp ⟨c.id, .rev⟩ .step (modCtx c.id (fun c => { c with phase := .bringupRev, lock := none }) s)

/-- Lock reported: acceptance at a unidirectional tail (R81) and at a head (R85), the turn at a bidirectional tail (R83). -/
def lockReported (c : Context) (s : State) : State :=
  match c.place with
  | .tail u =>
    if c.bidir then turnRound c s else send u (.pathUp c.id) (notifyOwner c.owner (.commissioned c.id) (acceptJob c s))
  | .head d => send d (.pathUp c.id) (notifyOwner c.owner (.commissioned c.id) (acceptJob c s))
  | .transit _ _ => s

/-- A LOCK_REPORT taken (R80). -/
def takeLockReport (locked : Bool) (c : Context) (s : State) : State :=
  settleAct (if locked then lockReported c s else failLocally c.id .lockFailed s)

def doLockReport (p : Port) (tag : Byte) (id : JobId) (report : Int) (s : State) : State :=
  if bitOk report then
    match s.ctx? id with
    | none => replyRefused p tag .notFound s
    | some c =>
      if ownedBy c p then
        (if c.phase.awaitsLock then takeLockReport (report == 1) c (replyDone p tag [] s)
         else replyRefused p tag .wrongPhase s)
      else replyRefused p tag .notOwner s
  else replyRefused p tag .badRequest s

/-! ### QUERY_JOB -/

def doQueryJob (p : Port) (tag : Byte) (job : Option JobId) (s : State) : State :=
  match job with
  | none => replyDone p tag (jobListItems s.jobs) s
  | some id =>
    match s.ctx? id with
    | none => replyRefused p tag .notFound s
    | some c => replyDone p tag c.items s

/-! ### The meanings -/

/-- OPEN (R60 to R62). -/
def execOpenJob (p : Port) (tag : Byte) (f : OpenFields) (s : State) : Host.Outcome State Fault Refusal :=
  .next (takeRequest p (doOpen p tag f) s)

/-- ABORT (R92). -/
def execAbortJob (p : Port) (tag : Byte) (job : JobId) (s : State) : Host.Outcome State Fault Refusal :=
  .next (takeRequest p (doAbort p tag job) s)

/-- CLOSE (R93). -/
def execCloseJob (p : Port) (tag : Byte) (job : JobId) (s : State) : Host.Outcome State Fault Refusal :=
  .next (takeRequest p (doClose p tag job) s)

/-- ADOPT (R55). -/
def execAdoptJob (p : Port) (tag : Byte) (job : JobId) (s : State) : Host.Outcome State Fault Refusal :=
  .next (takeRequest p (doAdopt p tag job) s)

/-- LOCK_REPORT (R80). -/
def execLockReport (p : Port) (tag : Byte) (job : JobId) (report : Int) (s : State) : Host.Outcome State Fault Refusal :=
  .next (takeRequest p (doLockReport p tag job report) s)

/-- QUERY_JOB (R56). -/
def execQueryJob (p : Port) (tag : Byte) (job : Option JobId) (s : State) : Host.Outcome State Fault Refusal :=
  .next (takeRequest p (doQueryJob p tag job) s)

end Sys2Proof.Machine
end

