-- ==== Sys2Proof/Machine/MapRequests.lean ====
section
/-! DEFINITION. The map, degree and device requests: QUERY_MAP (R34), BLOCK (R32), UNBLOCK (R33), QUERY_DEGREE (R114), CLEAR_FAULT
(R144) and CLEAR_FAULT_MONITOR (R140). -/

namespace Sys2Proof.Machine

/-- The field checks of R32 against a row of R1: the direction's code (R162; log 18), the degree, the range. -/
def checkRange (rangeOk : Int → Int → Bool) (r : RangeFields) : Except Reason (Degree × MapDir) :=
  match MapDir.ofInt r.direction with
  | none => .error .badRequest
  | some dir =>
    match Degree.ofInt r.degree with
    | none => .error .badRange
    | some d => if rangeOk r.first r.count then .ok (d, dir) else .error .badRange

def doQueryMap (p : Port) (tag : Byte) (r : RangeFields) (s : State) : State :=
  match checkRange mapQueryOk r with
  | .error e => replyRefused p tag e s
  | .ok (d, dir) => replyDone p tag (mapItems r (s.map.read d dir r.first.toNat r.count.toNat)) s

/-- A change of a range by request, answered with the number of entries it leaves as they are (R32, R33). -/
def changeByRequest (p : Port) (tag : Byte) (r : RangeFields) (f : SliceEntry → SliceEntry) (s : State) : State :=
  match checkRange mapChangeOk r with
  | .error e => replyRefused p tag e s
  | .ok (d, dir) =>
    replyDone p tag [⟨1, unchanged f (s.map.read d dir r.first.toNat r.count.toNat)⟩]
      (modMap (fun m => m.change f r.first.toNat r.count.toNat (d, dir)) s)

def doBlock (p : Port) (tag : Byte) (r : RangeFields) (s : State) : State := changeByRequest p tag r SliceEntry.block s

def doUnblock (p : Port) (tag : Byte) (r : RangeFields) (s : State) : State := changeByRequest p tag r SliceEntry.unblock s

def doQueryDegree (p : Port) (tag : Byte) (degree : Int) (s : State) : State :=
  match Degree.ofInt degree with
  | none => replyRefused p tag .badRange s
  | some d => replyDone p tag (degreeItems d s) s

/-- The actuator of degree `d` returns to OK: announced, and followed by a grant pass (R111, R144). -/
def clearActuator (d : Degree) (s : State) : State :=
  settleDegree d (announce .actuator (some d) 0 (modAct d (fun a => { a with faulted := false }) s))

def doClearFault (p : Port) (tag : Byte) (degree : Int) (s : State) : State :=
  match Degree.ofInt degree with
  | none => replyRefused p tag .badRange s
  | some d =>
    if (s.act d).faulted then clearActuator d (replyDone p tag [] s) else replyDone p tag [] s

def doClearFaultMonitor (p : Port) (tag : Byte) (s : State) : State :=
  if s.monitor.state = .fault ∧ s.monitor.probe.isSome then issueProbe (replyDone p tag [] s) else replyDone p tag [] s

/-! ### The meanings -/

/-- QUERY_MAP (R34). -/
def execQueryMap (p : Port) (tag : Byte) (r : RangeFields) (s : State) : Host.Outcome State Fault Refusal :=
  .next (takeRequest p (doQueryMap p tag r) s)

/-- BLOCK (R32). -/
def execBlock (p : Port) (tag : Byte) (r : RangeFields) (s : State) : Host.Outcome State Fault Refusal :=
  .next (takeRequest p (doBlock p tag r) s)

/-- UNBLOCK (R33). -/
def execUnblock (p : Port) (tag : Byte) (r : RangeFields) (s : State) : Host.Outcome State Fault Refusal :=
  .next (takeRequest p (doUnblock p tag r) s)

/-- QUERY_DEGREE (R114). -/
def execQueryDegree (p : Port) (tag : Byte) (degree : Int) (s : State) : Host.Outcome State Fault Refusal :=
  .next (takeRequest p (doQueryDegree p tag degree) s)

/-- CLEAR_FAULT with a degree (R144). -/
def execClearFault (p : Port) (tag : Byte) (degree : Int) (s : State) : Host.Outcome State Fault Refusal :=
  .next (takeRequest p (doClearFault p tag degree) s)

/-- CLEAR_FAULT for the monitor (R140). -/
def execClearFaultMonitor (p : Port) (tag : Byte) (s : State) : Host.Outcome State Fault Refusal :=
  .next (takeRequest p (doClearFaultMonitor p tag) s)

end Sys2Proof.Machine
end

