-- ==== Sys2Proof/Machine/LogRequests.lean ====
section
/-! DEFINITION. The log and start-up requests of chapter 11: READ_LOG (R174), READ_COUNTS (R173), RESTORE_LIVE (R176, R177),
END_RESTORE (R178). -/

namespace Sys2Proof.Machine

/-! ### READ_LOG and READ_COUNTS -/

/-- A start or count of READ_LOG: 0 to 32 (R174). -/
def logNumberOk (n : Int) : Bool := decide (0 ≤ n ∧ n ≤ 32)

def doReadLog (p : Port) (tag : Byte) (start count : Int) (s : State) : State :=
  if logNumberOk start && logNumberOk count then replyDone p tag (logItems s.results start.toNat count.toNat) s
  else replyRefused p tag .badRange s

def Results.clearCounts (x : Results) : Results := { x with counts := ⟨0, 0, 0, 0, 0⟩ }

def doReadCounts (p : Port) (tag : Byte) (clear : Int) (s : State) : State :=
  let answered := replyDone p tag (countItems s.results) s
  if clear = 0 then answered
  else if clear = 1 then modResults Results.clearCounts answered
  else if clear = 2 then modResults (fun _ => Results.initial) answered
  else replyRefused p tag .badRequest s

/-! ### RESTORE_LIVE -/

/-- A restored line leg (R46, R177): AT_TARGET at its level, verified there, short below T. -/
def LineLeg.restore (level : Level) (l : LineLeg) : LineLeg :=
  match level with
  | .off => l
  | .num v => { l with level := .num v, verified := some v, state := .atTarget, short := decide (v < l.target) }

def Leg.restore (levels : List Level) (leg : Leg) : Leg :=
  match leg, levels with
  | .line l, v :: _ => .line (l.restore v)
  | _, _ => leg

/-- The levels left for the reverse leg once the forward leg has taken its own. -/
def restLevels (fwd : Leg) (levels : List Level) : List Level :=
  match fwd with
  | .line _ => levels.drop 1
  | .drop _ => levels

/-- The context a RESTORE_LIVE puts in use (R52, R177). -/
def restoreContext (f : RestoreFields) (place : Place) (s : State) : Context :=
  let c := newContext f.job place (f.owner.bind Port.ofInt) (f.bidir == 1) f.first.toNat f.count.toNat f.density none
    f.hopIndex.toNat s.degrees
  { c with
    phase := .live
    reached := true
    fwd := c.fwd.restore (restoreLevels f)
    rev := c.rev.map (Leg.restore (restLevels c.fwd (restoreLevels f))) }

/-- Check 3 of R176. -/
def restoreLevelsOk (f : RestoreFields) (place : Place) (s : State) : Bool :=
  ((lineEgress place (f.bidir == 1)).zip (restoreLevels f)).all
    (fun x => restoreLevelOk (targetLevel f.density f.count.toNat) (s.deg x.1) x.2)

/-- The checks of R176 after the form's, in its order. -/
def restoreCheck (f : RestoreFields) (s : State) : Except Reason Context :=
  if s.running then .error .wrongPhase
  else if !restoreRangesOk f then .error .badRange
  else
    match restorePlace f with
    | none => .error .badRange
    | some place =>
      if !restoreLevelsOk f place s then .error .badLevel
      else if Config.maxContexts ≤ s.jobs.length then .error .noContext
      else if (s.ctx? f.job).isSome then .error .conflict
      else if (entrySetOf s (restoreContext f place s)).all (· == .unknown) then .ok (restoreContext f place s)
      else .error .conflict

def doRestoreLive (p : Port) (tag : Byte) (f : RestoreFields) (s : State) : State :=
  if restoreFits f then
    match restoreCheck f s with
    | .error r => replyRefused p tag r s
    | .ok c => replyDone p tag [] (addCtx c (changeFor c c.entrySet (SliceEntry.restore c.id) s))
  else replyRefused p tag .badRequest s

/-! ### END_RESTORE -/

def doEndRestore (p : Port) (tag : Byte) (s : State) : State :=
  if s.running then replyRefused p tag .wrongPhase s
  else
    replyDone p tag [⟨1, s.jobs.length⟩]
      { s with map := s.map.mapAll SliceEntry.endRestore, running := true }

/-! ### The meanings -/

/-- READ_LOG (R174). -/
def execReadLog (p : Port) (tag : Byte) (start count : Int) (s : State) : Host.Outcome State Fault Refusal :=
  .next (takeRequest p (doReadLog p tag start count) s)

/-- READ_COUNTS (R173). -/
def execReadCounts (p : Port) (tag : Byte) (clear : Int) (s : State) : Host.Outcome State Fault Refusal :=
  .next (takeRequest p (doReadCounts p tag clear) s)

/-- RESTORE_LIVE (R176, R177). -/
def execRestoreLive (p : Port) (tag : Byte) (f : RestoreFields) (s : State) : Host.Outcome State Fault Refusal :=
  .next (takeRequest p (doRestoreLive p tag f) s)

/-- END_RESTORE (R178). -/
def execEndRestore (p : Port) (tag : Byte) (s : State) : Host.Outcome State Fault Refusal :=
  .next (takeRequest p (doEndRestore p tag) s)

end Sys2Proof.Machine
end

