-- ==== Sys2Proof/Machine/SlotEvents.lean ====
section
/-! DEFINITION. The events of a slot link: BYTE_RECEIVED and FRAME_GAP_EXPIRY (R158), FRAME_CRC_BAD, REQUEST_OVERRUN and BAD_REQUEST
(R159, R162), PORT_SILENCE_EXPIRY (R160), TRANSMIT_FRAME_DONE (R161, R181). -/

namespace Sys2Proof.Machine

/-- What a request does, its frame taken (R162 step 3). -/
def runRequest (p : Port) (tag : Byte) : Request → State → State
  | .nop => doNop p tag
  | .queryNode => doQueryNode p tag
  | .setNode f => doSetNode p tag f
  | .setDegree d f => doSetDegree p tag d f
  | .openJob f => doOpen p tag f
  | .abortJob j => doAbort p tag j
  | .closeJob j => doClose p tag j
  | .adoptJob j => doAdopt p tag j
  | .lockReport j r => doLockReport p tag j r
  | .queryJob j => doQueryJob p tag j
  | .queryMap r => doQueryMap p tag r
  | .block r => doBlock p tag r
  | .unblock r => doUnblock p tag r
  | .queryDegree d => doQueryDegree p tag d
  | .clearFault d => doClearFault p tag d
  | .clearFaultMonitor => doClearFaultMonitor p tag
  | .readLog a n => doReadLog p tag a n
  | .readCounts c => doReadCounts p tag c
  | .restoreLive f => doRestoreLive p tag f
  | .endRestore => doEndRestore p tag

/-- The request of a frame, by its kind and body; none is refused BAD_REQUEST (R162 steps 1 and 2). -/
def doFrame (p : Port) (tag kind : Byte) (body : List Byte) (s : State) : State :=
  match decodeRequest kind body with
  | some r => runRequest p tag r s
  | none => replyRefused p tag .badRequest s

/-- A good frame taken (R159, R162). -/
def goodFrame (p : Port) (tag kind : Byte) (body : List Byte) (s : State) : State :=
  takeRequest p (doFrame p tag kind body) s

/-- The receiver discards its frame, counts it and hunts (R158, R159). -/
def SlotLink.discard (u : SlotLink) : SlotLink := { u with receive := none, gap := none, discarded := bump u.discarded }

/-- The receiver keeps a byte and restarts the gap timer (R158). -/
def SlotLink.keep (bytes : List Byte) (limit : Nat) (u : SlotLink) : SlotLink :=
  { u with receive := some bytes, gap := some limit }

/-- A byte received in a partial frame that holds `bytes` (R158, R159). -/
def partialByte (p : Port) (bytes : List Byte) (b : Byte) (s : State) : State :=
  if bytes = [] ∧ Config.bodyMax < b.toNat then modPort p SlotLink.discard s
  else
    match completeFrame (bytes ++ [b]) with
    | none => modPort p (SlotLink.keep (bytes ++ [b]) s.node.gapLimit) s
    | some f => if f.good then goodFrame p f.tag f.kind f.body s else modPort p SlotLink.discard s

/-- BYTE_RECEIVED (R158). -/
def byteReceived (p : Port) (b : Byte) (s : State) : State :=
  match (s.port p).receive with
  | none => if b = marker then modPort p (SlotLink.keep [] s.node.gapLimit) s else s
  | some bytes => partialByte p bytes b s

def frameGapExpiry (p : Port) (s : State) : State :=
  if ranOut (s.port p).gap then modPort p SlotLink.discard s else s

/-- The port becomes DOWN (R160). -/
def SlotLink.fallSilent (u : SlotLink) : SlotLink := { u with up := false, silence := none }

def portSilenceExpiry (p : Port) (s : State) : State :=
  if ranOut (s.port p).silence then modPort p SlotLink.fallSilent s else s

/-- The transmitter finishes a frame of the reply or notice at the head of the queue; its place is freed with its last segment
(R161, R181; log 21). -/
def SlotLink.frameDone (u : SlotLink) : SlotLink :=
  match u.tx with
  | [] => u
  | f :: rest =>
    let wire := f.wire
    let sent := wire.getD u.segmentsSent []
    if u.segmentsSent + 1 < wire.length then { u with segmentsSent := u.segmentsSent + 1, lastSent := sent }
    else { u with tx := rest, segmentsSent := 0, lastSent := sent }

/-! ### The meanings -/

/-- BAD_REQUEST (R162): the frame is taken as any good frame is (log 4). -/
def execBadRequest (p : Port) (tag kind : Byte) (body : List Byte) (s : State) : Host.Outcome State Fault Refusal :=
  .next (goodFrame p tag kind body s)

/-- REQUEST_OVERRUN (R159): the frame is taken as any good frame is (log 4). -/
def execRequestOverrun (p : Port) (tag kind : Byte) (body : List Byte) (s : State) : Host.Outcome State Fault Refusal :=
  .next (goodFrame p tag kind body s)

/-- FRAME_CRC_BAD (R159). -/
def execFrameCrcBad (p : Port) (s : State) : Host.Outcome State Fault Refusal := .next (modPort p SlotLink.discard s)

/-- FRAME_GAP_EXPIRY (R158). -/
def execFrameGapExpiry (p : Port) (s : State) : Host.Outcome State Fault Refusal := .next (frameGapExpiry p s)

/-- PORT_SILENCE_EXPIRY (R160). -/
def execPortSilenceExpiry (p : Port) (s : State) : Host.Outcome State Fault Refusal := .next (portSilenceExpiry p s)

/-- TRANSMIT_FRAME_DONE (R161). -/
def execTransmitFrameDone (p : Port) (s : State) : Host.Outcome State Fault Refusal :=
  .next (modPort p SlotLink.frameDone s)

/-- BYTE_RECEIVED (R158). -/
def execByteReceived (p : Port) (b : Byte) (s : State) : Host.Outcome State Fault Refusal := .next (byteReceived p b s)

end Sys2Proof.Machine
end

