-- ==== Sys2Proof/Machine/TimerEvents.lean ====
section
/-! DEFINITION. The expiries of job timers (R67, R80, R86, R93) and of leg timers (R106, R120, R121, R125, R133). Each is taken only
of a timer that has run out, in the condition that runs it (R44, R50; log 2). -/

namespace Sys2Proof.Machine

/-! ### Job timers -/

def holdExpiry (c : Context) (s : State) : State :=
  if c.phase = .holding ∧ ranOut c.hold then expireHolding c s else s

def pathExpiry (c : Context) (s : State) : State :=
  if c.phase.canFail ∧ ranOut c.path then settleAct (failLocally c.id .pathTimeout s) else s

def lockExpiry (c : Context) (s : State) : State :=
  if (c.phase = .awaitLockFwd ∨ c.phase = .awaitLockRev) ∧ ranOut c.lock then
    settleAct (failLocally c.id .lockTimeout s)
  else s

def teardownExpiry (c : Context) (s : State) : State :=
  if c.phase = .teardown ∧ ranOut c.teardown then settleAct (beginRampDown c.id s) else s

/-! ### Leg timers -/

/-- The settle timer's expiry (R120). -/
def settleExpiry (r : LegRef) (l : LineLeg) (s : State) : State :=
  if ranOut l.settle then settleAct (legSettled r s) else s

/-- The scan-spacing timer's expiry asks for the next verification scan (R121). -/
def spacingExpiry (r : LegRef) (l : LineLeg) (s : State) : State :=
  if ranOut l.spacing then issueNext (askScan r (modLeg r (fun l => { l with spacing := none }) s)) else s

/-- The retry timer's expiry: out of the backoff list and into the UP class as RETRY, or frozen (R108, R125). -/
def retryExpiry (r : LegRef) (l : LineLeg) (s : State) : State :=
  if l.state = .backoff ∧ ranOut l.retry then
    settleAct (joinUp r .retry (modLeg r (fun l => { l with retry := none })
      (modArb l.egress (Arbiter.without (s.deg l.egress).holdAll r) s)))
  else s

def darkExpiry (r : LegRef) (l : LineLeg) (s : State) : State :=
  if l.state = .frozen ∧ ranOut l.darkTimer then settleAct (failByLeg r .ingressDark .none s) else s

def headroomExpiry (r : LegRef) (l : LineLeg) (s : State) : State :=
  if l.state = .headroomWait ∧ ranOut l.headroom then settleAct (failByLeg r .noHeadroom .none s) else s

/-! ### The meanings -/

/-- HOLD_TIMER_EXPIRY (R67). -/
def execHoldTimerExpiry (job : JobId) (s : State) : Host.Outcome State Fault Refusal := .next (onCtx job holdExpiry s)

/-- PATH_TIMER_EXPIRY (R86). -/
def execPathTimerExpiry (job : JobId) (s : State) : Host.Outcome State Fault Refusal := .next (onCtx job pathExpiry s)

/-- LOCK_TIMER_EXPIRY (R80). -/
def execLockTimerExpiry (job : JobId) (s : State) : Host.Outcome State Fault Refusal := .next (onCtx job lockExpiry s)

/-- TEARDOWN_TIMER_EXPIRY (R93). -/
def execTeardownTimerExpiry (job : JobId) (s : State) : Host.Outcome State Fault Refusal :=
  .next (onCtx job teardownExpiry s)

/-- SETTLE_TIMER_EXPIRY (R120). -/
def execSettleTimerExpiry (job : JobId) (dir : Dir) (s : State) : Host.Outcome State Fault Refusal :=
  .next (onLeg ⟨job, dir⟩ (settleExpiry ⟨job, dir⟩) s)

/-- SCAN_SPACING_EXPIRY (R121). -/
def execScanSpacingExpiry (job : JobId) (dir : Dir) (s : State) : Host.Outcome State Fault Refusal :=
  .next (onLeg ⟨job, dir⟩ (spacingExpiry ⟨job, dir⟩) s)

/-- RETRY_TIMER_EXPIRY (R125). -/
def execRetryTimerExpiry (job : JobId) (dir : Dir) (s : State) : Host.Outcome State Fault Refusal :=
  .next (onLeg ⟨job, dir⟩ (retryExpiry ⟨job, dir⟩) s)

/-- DARK_TIMER_EXPIRY (R133). -/
def execDarkTimerExpiry (job : JobId) (dir : Dir) (s : State) : Host.Outcome State Fault Refusal :=
  .next (onLeg ⟨job, dir⟩ (darkExpiry ⟨job, dir⟩) s)

/-- HEADROOM_TIMER_EXPIRY (R106). -/
def execHeadroomTimerExpiry (job : JobId) (dir : Dir) (s : State) : Host.Outcome State Fault Refusal :=
  .next (onLeg ⟨job, dir⟩ (headroomExpiry ⟨job, dir⟩) s)

end Sys2Proof.Machine
end

