-- ==== Sys2Proof/Machine/Dispatch.lean ====
section
/-! DEFINITION. The dispatch: one arm per command, each one call of its meaning. -/

namespace Sys2Proof.Machine

def exec (i : Instr) (s : State) : Host.Outcome State Fault Refusal :=
  match i with
  | .reset => Sys2Proof.Machine.execReset s
  | .nop p tag => Sys2Proof.Machine.execNop p tag s
  | .queryNode p tag => Sys2Proof.Machine.execQueryNode p tag s
  | .setNode p tag f => Sys2Proof.Machine.execSetNode p tag f s
  | .setDegree p tag degree f => Sys2Proof.Machine.execSetDegree p tag degree f s
  | .openJob p tag f => Sys2Proof.Machine.execOpenJob p tag f s
  | .abortJob p tag job => Sys2Proof.Machine.execAbortJob p tag job s
  | .closeJob p tag job => Sys2Proof.Machine.execCloseJob p tag job s
  | .adoptJob p tag job => Sys2Proof.Machine.execAdoptJob p tag job s
  | .lockReport p tag job report => Sys2Proof.Machine.execLockReport p tag job report s
  | .queryJob p tag job => Sys2Proof.Machine.execQueryJob p tag job s
  | .queryMap p tag r => Sys2Proof.Machine.execQueryMap p tag r s
  | .block p tag r => Sys2Proof.Machine.execBlock p tag r s
  | .unblock p tag r => Sys2Proof.Machine.execUnblock p tag r s
  | .queryDegree p tag degree => Sys2Proof.Machine.execQueryDegree p tag degree s
  | .clearFault p tag degree => Sys2Proof.Machine.execClearFault p tag degree s
  | .clearFaultMonitor p tag => Sys2Proof.Machine.execClearFaultMonitor p tag s
  | .readLog p tag start count => Sys2Proof.Machine.execReadLog p tag start count s
  | .readCounts p tag clear => Sys2Proof.Machine.execReadCounts p tag clear s
  | .restoreLive p tag f => Sys2Proof.Machine.execRestoreLive p tag f s
  | .endRestore p tag => Sys2Proof.Machine.execEndRestore p tag s
  | .badRequest p tag kind body => Sys2Proof.Machine.execBadRequest p tag kind body s
  | .requestOverrun p tag kind body => Sys2Proof.Machine.execRequestOverrun p tag kind body s
  | .frameCrcBad p => Sys2Proof.Machine.execFrameCrcBad p s
  | .frameGapExpiry p => Sys2Proof.Machine.execFrameGapExpiry p s
  | .portSilenceExpiry p => Sys2Proof.Machine.execPortSilenceExpiry p s
  | .transmitFrameDone p => Sys2Proof.Machine.execTransmitFrameDone p s
  | .helloTimerExpiry d => Sys2Proof.Machine.execHelloTimerExpiry d s
  | .framerSendRequest d => Sys2Proof.Machine.execFramerSendRequest d s
  | .headerUncorrectable d => Sys2Proof.Machine.execHeaderUncorrectable d s
  | .unknownKind d h => Sys2Proof.Machine.execUnknownKind d h s
  | .hello d h node degree flags => Sys2Proof.Machine.execHello d h node degree flags s
  | .reserve d h f => Sys2Proof.Machine.execReserve d h f s
  | .reserveOk d h job => Sys2Proof.Machine.execReserveOk d h job s
  | .refuse d h job cause node => Sys2Proof.Machine.execRefuse d h job cause node s
  | .release d h job => Sys2Proof.Machine.execRelease d h job s
  | .rampTurn d h job dir => Sys2Proof.Machine.execRampTurn d h job dir s
  | .pathUp d h job => Sys2Proof.Machine.execPathUp d h job s
  | .fail d h job cause verdict origin => Sys2Proof.Machine.execFail d h job cause verdict origin s
  | .drop d h job => Sys2Proof.Machine.execDrop d h job s
  | .downTurn d h job => Sys2Proof.Machine.execDownTurn d h job s
  | .linkTimeoutExpiry d => Sys2Proof.Machine.execLinkTimeoutExpiry d s
  | .holdTimerExpiry job => Sys2Proof.Machine.execHoldTimerExpiry job s
  | .pathTimerExpiry job => Sys2Proof.Machine.execPathTimerExpiry job s
  | .lockTimerExpiry job => Sys2Proof.Machine.execLockTimerExpiry job s
  | .teardownTimerExpiry job => Sys2Proof.Machine.execTeardownTimerExpiry job s
  | .settleTimerExpiry job dir => Sys2Proof.Machine.execSettleTimerExpiry job dir s
  | .scanSpacingExpiry job dir => Sys2Proof.Machine.execScanSpacingExpiry job dir s
  | .retryTimerExpiry job dir => Sys2Proof.Machine.execRetryTimerExpiry job dir s
  | .darkTimerExpiry job dir => Sys2Proof.Machine.execDarkTimerExpiry job dir s
  | .headroomTimerExpiry job dir => Sys2Proof.Machine.execHeadroomTimerExpiry job dir s
  | .scanResult issue readings => Sys2Proof.Machine.execScanResult issue readings s
  | .scanTimeout => Sys2Proof.Machine.execScanTimeout s
  | .probeTimerExpiry => Sys2Proof.Machine.execProbeTimerExpiry s
  | .watchIntervalExpiry d => Sys2Proof.Machine.execWatchIntervalExpiry d s
  | .actuatorCompletion d issue applied => Sys2Proof.Machine.execActuatorCompletion d issue applied s
  | .actuatorTimeout d => Sys2Proof.Machine.execActuatorTimeout d s
  | .byteReceived p b => Sys2Proof.Machine.execByteReceived p b s
  | .bodyBad d h => Sys2Proof.Machine.execBodyBad d h s

end Sys2Proof.Machine
end

