-- ==== Sys2Proof/Safety.lean ====
section
/-! DEFINITION. What counts as a sound state of the part: the bounds and the agreements that the spec states of its registers,
queues, tables and logs, as the claims use them. -/

namespace Sys2Proof.Machine

/-! ### The spectrum map (R1, R20) -/

/-- Each of the eight tables holds one entry for each slice. -/
def SpectrumMap.Shaped (m : SpectrumMap) : Prop :=
  ∀ d, (m.incoming.get d).length = Config.slices ∧ (m.outgoing.get d).length = Config.slices

/-- What the acts of a job may do to an entry (R26 to R31), by rows of the table of 2.2 one after another: from HELD through BOOKED and
LIT to LIVE it only goes on, naming the same job, until it is FREE or BLOCKED(ABANDONED); an entry that names no job stays as it is. -/
def SliceEntry.Keeps (e e' : SliceEntry) : Prop :=
  e' = e ∨
  match e with
  | .held j => e' = .booked j ∨ e' = .lit j ∨ e' = .live j ∨ e' = .free ∨ e' = .blocked .abandoned
  | .booked j => e' = .lit j ∨ e' = .live j ∨ e' = .free ∨ e' = .blocked .abandoned
  | .lit j => e' = .live j ∨ e' = .free ∨ e' = .blocked .abandoned
  | .live _ => e' = .free ∨ e' = .blocked .abandoned
  | _ => False

/-- What one command other than RESET may do to an entry, by rows of the table of 2.2 one after another: what the acts of a job may
do; and a FREE entry may be taken HELD or BOOKED or be blocked ADMIN, a BLOCKED one freed, an UNKNOWN one taken LIVE or freed. -/
def SliceEntry.Moves (e e' : SliceEntry) : Prop :=
  e.Keeps e' ∨
  match e with
  | .unknown => e' = .free ∨ ∃ j, e' = .live j
  | .free => e' = .blocked .admin ∨ ∃ j, e' = .held j ∨ e' = .booked j
  | .blocked _ => e' = .free
  | _ => False

/-! ### The job table (R37, R38, R46, R51) -/

/-- At most 64 contexts, in ascending job id, no two with the same id. -/
def JobTable (jobs : List Context) : Prop :=
  jobs.length ≤ Config.maxContexts ∧ jobs.Pairwise (fun a b => a.id.before b.id)

/-- What a line leg keeps for its life: ingress point, egress degree, probe level (R6, R41). -/
def LineLeg.fixed (l : LineLeg) : Point × Degree × Int := (l.ingress, l.egress, l.probe)

def Leg.fixed : Leg → Degree ⊕ (Point × Degree × Int)
  | .line l => .inr l.fixed
  | .drop d => .inl d

/-- The fields of a context that are set at allocation and keep their values until it is freed (R38). -/
structure FixedFields where
  id       : JobId
  place    : Place
  bidir    : Bool
  first    : Nat
  count    : Nat
  density  : Int
  route    : Option (List RawHop)
  hopIndex : Nat
  fwd      : Degree ⊕ (Point × Degree × Int)
  rev      : Option (Degree ⊕ (Point × Degree × Int))

def Context.fixed (c : Context) : FixedFields :=
  ⟨c.id, c.place, c.bidir, c.first, c.count, c.density, c.route, c.hopIndex, c.fwd.fixed, c.rev.map Leg.fixed⟩

/-- A context with its legs blanked out: what a claim compares to say that the fields outside the legs are unchanged. -/
def Context.outer (c : Context) : Context := { c with fwd := .drop .d1, rev := none }

/-- The bounds of a leg's history and steps taken (R46, R51). -/
def LineLeg.Bounded (l : LineLeg) : Prop := l.history.length ≤ Config.maxHistory ∧ l.stepsTaken ≤ Config.countMax

def Leg.Bounded : Leg → Prop
  | .line l => l.Bounded
  | .drop _ => True

def Context.Bounded (c : Context) : Prop := c.fwd.Bounded ∧ ∀ l, c.rev = some l → l.Bounded

/-! ### Slot link units (R157, R160, R161) -/

/-- The transmit queue within its 32 frames, the counts within 65535, the silence timer running exactly while UP and the gap
timer exactly while a partial frame is held. -/
def SlotLink.Sound (u : SlotLink) : Prop :=
  u.tx.length ≤ Config.maxFrames ∧ u.discarded ≤ Config.countMax ∧ u.overrun ≤ Config.countMax
    ∧ u.noticesDropped ≤ Config.countMax ∧ u.silence.isSome = u.up ∧ u.gap.isSome = u.receive.isSome

/-! ### Supervisory link units (R146, R149, R156) -/

/-- The five counts within 65535. -/
def LinkCounts.Bounded (n : LinkCounts) : Prop :=
  n.corrected ≤ Config.countMax ∧ n.uncorrectable ≤ Config.countMax ∧ n.bodyBad ≤ Config.countMax
    ∧ n.unknownKind ≤ Config.countMax ∧ n.dropped ≤ Config.countMax

/-- The queue within its 32 messages, the counts bounded, neighbour and timeout timer there exactly while UP, the HELLO timer
running exactly while the degree is enabled, and a disabled degree's link DOWN with nothing to send. -/
def Link.Sound (enabled : Bool) (l : Link) : Prop :=
  l.queue.length ≤ Config.maxMessages ∧ l.counts.Bounded ∧ l.neighbour.isSome = l.up ∧ l.timeout.isSome = l.up
    ∧ l.helloTimer.isSome = enabled ∧ (enabled = false → l.up = false ∧ l.pendingHello = false ∧ l.queue = [])

/-! ### Arbiters, monitor port, actuator ports (R108, R134, R140 to R142) -/

/-- The hold status is HELD exactly when the policy is HOLD_ALL and the backoff list is not empty (R108). -/
def Arbiter.HoldAgrees (holdAll : Bool) (a : Arbiter) : Prop := a.held = (holdAll && !a.backoff.isEmpty)

/-- The run count is 0 or 1 and the interval timer runs exactly while the watch is WAITING (R15, R141). -/
def Watch.Sound (w : Watch) : Prop := w.run ≤ 1 ∧ (w.interval.isSome = true ↔ w.state = .waiting)

/-- The issue number to give next is 0 to 255 (R134). -/
def Monitor.Sound (m : Monitor) : Prop := m.nextIssue < 256

/-- The same for an actuator port (R142). -/
def Actuator.Sound (a : Actuator) : Prop := a.nextIssue < 256

/-! ### The result store (R169, R173) -/

def OutcomeCounts.Bounded (n : OutcomeCounts) : Prop :=
  n.commissioned ≤ Config.countMax ∧ n.closed ≤ Config.countMax ∧ n.failed ≤ Config.countMax
    ∧ n.aborted ≤ Config.countMax ∧ n.refused ≤ Config.countMax

/-- The log has wrapped and every slot holds a record, or exactly the slots up to the index do (R169). -/
def Results.Filled (x : Results) : Prop :=
  (1 ≤ x.index ∧ ∀ k, k < Config.logSlots → (x.slots.getD k none).isSome = true)
    ∨ ∀ k, k < Config.logSlots → ((x.slots.getD k none).isSome = true ↔ k < x.index)

/-- 32 slots, an index from 0 to 32, the log filled in order, counts within 65535. -/
def Results.Sound (x : Results) : Prop :=
  x.slots.length = Config.logSlots ∧ x.index ≤ Config.logSlots ∧ x.Filled ∧ x.counts.Bounded

/-! ### The parameters (R165, R166) -/

/-- A parameter lies in its permitted range. -/
def Within (r : Config.Range) (v : Int) : Prop := r.lo ≤ v ∧ v ≤ r.hi

def NodeParams.InRange (n : NodeParams) : Prop :=
  Within Config.nodeId n.nodeId ∧ Within Config.holdTime n.holdTime ∧ Within Config.pathLimit n.pathLimit
    ∧ Within Config.lockWait n.lockWait ∧ Within Config.silenceLimit n.silenceLimit ∧ Within Config.gapLimit n.gapLimit
    ∧ Within Config.scanTimeout n.scanTimeout ∧ Within Config.watchInterval n.watchInterval
    ∧ Within Config.linkTimeout n.linkTimeout

def DegreeParams.InRange (p : DegreeParams) : Prop :=
  Within Config.stepSize p.stepSize ∧ Within Config.probeDepth p.probeDepth ∧ Within Config.levelFloor p.levelFloor
    ∧ Within Config.levelCeiling p.levelCeiling ∧ Within Config.outputCeiling p.outputCeiling
    ∧ Within Config.guardBand p.guardBand ∧ Within Config.egressTapOffset p.egressTapOffset
    ∧ Within Config.ingressTapOffset p.ingressTapOffset ∧ Within Config.amplifierCount p.amplifierCount
    ∧ Within Config.settleBase p.settleBase ∧ Within Config.settlePerAmp p.settlePerAmp ∧ Within Config.tolerance p.tolerance
    ∧ Within Config.disturbanceLimit p.disturbanceLimit ∧ Within Config.observationWindow p.observationWindow
    ∧ Within Config.failRun p.failRun ∧ Within Config.scanSpacing p.scanSpacing ∧ Within Config.retryLimit p.retryLimit
    ∧ Within Config.retryInterval p.retryInterval ∧ Within Config.losThreshold p.losThreshold
    ∧ Within Config.darkTimeout p.darkTimeout ∧ Within Config.headroomTimeout p.headroomTimeout
    ∧ Within Config.actuatorTimeout p.actuatorTimeout

/-! ### The invariants of the whole part, one for each kind of state -/

def MapInv (s : State) : Prop := s.map.Shaped

def JobInv (s : State) : Prop := JobTable s.jobs

def LegInv (s : State) : Prop := ∀ c, c ∈ s.jobs → c.Bounded

def PortInv (s : State) : Prop := ∀ p, (s.port p).Sound

def LinkInv (s : State) : Prop := ∀ d, (s.link d).Sound (s.deg d).enabled

def ArbiterInv (s : State) : Prop := ∀ d, (s.arb d).HoldAgrees (s.deg d).holdAll

def DeviceInv (s : State) : Prop := s.monitor.Sound ∧ ∀ d, (s.watch d).Sound ∧ (s.act d).Sound

def ResultInv (s : State) : Prop := s.results.Sound

def ParamInv (s : State) : Prop := s.node.InRange ∧ ∀ d, (s.deg d).InRange

def SeqInv (s : State) : Prop := 1 ≤ s.seqCounter ∧ s.seqCounter ≤ 65535

/-- A state that no rule of the spec forbids in its bounds and agreements. -/
structure Sound (s : State) : Prop where
  map      : MapInv s
  jobs     : JobInv s
  legs     : LegInv s
  ports    : PortInv s
  links    : LinkInv s
  arbiters : ArbiterInv s
  devices  : DeviceInv s
  results  : ResultInv s
  params   : ParamInv s
  seq      : SeqInv s

/-! ### What the units agree on (R19, R29, R41, R43, R44, R47 to R50, R99 to R101, R134, R142) -/

/-- A leg's ingress and egress point (R41). -/
def Leg.ends : Leg → Point × Point
  | .line l => (l.ingress, .line l.egress)
  | .drop d => (.line d, .bank)

/-- The legs and the owner a context's role gives it (R38, R40, R41). -/
def Context.Shaped (c : Context) : Prop :=
  match c.place with
  | .head d => c.fwd.ends = (.bank, .line d) ∧ c.rev.map Leg.ends = (if c.bidir then some (.line d, .bank) else none)
      ∧ c.owner.isSome = true
  | .transit u d => u ≠ d ∧ c.fwd.ends = (.line u, .line d)
      ∧ c.rev.map Leg.ends = (if c.bidir then some (.line d, .line u) else none) ∧ c.owner = none
  | .tail u => c.fwd.ends = (.line u, .bank) ∧ c.rev.map Leg.ends = (if c.bidir then some (.bank, .line u) else none)
      ∧ c.owner.isSome = true

/-- Each job timer runs, and the fail fields are set, exactly in the phases that have them (R38, R44, R45). -/
def Context.TimersAgree (c : Context) : Prop :=
  (c.hold.isSome = true ↔ c.phase = .holding)
    ∧ (c.path.isSome = true ↔ c.phase ∈ [Phase.booked, .bringupFwd, .awaitLockFwd, .bringupRev, .awaitLockRev])
    ∧ (c.lock.isSome = true ↔ c.phase ∈ [Phase.awaitLockFwd, .awaitLockRev])
    ∧ (c.teardown.isSome = true ↔ c.phase = .teardown ∧ c.allAtTarget = true)
    ∧ (c.failure.isSome = true ↔ c.phase = .failing)

/-- The leg states of a leg that is being ramped up or has been (R47). -/
def LegState.raised (x : LegState) : Prop := x ∈ [LegState.queued, .headroomWait, .stepping, .backoff, .frozen, .atTarget]

/-- The leg states that go with a phase (R43, R76 to R85, R89, R93 to R95). -/
def Context.PhaseAgrees (c : Context) : Prop :=
  match c.phase with
  | .holding => c.place.role ≠ 2 ∧ ∀ x, x ∈ c.lineLegs → x.2.state = .dark
  | .booked => c.place.role ≠ 0 ∧ ∀ x, x ∈ c.lineLegs → x.2.state = .dark
  | .bringupFwd => c.place.role ≠ 2 ∧ ∀ x, x ∈ c.lineLegs → if x.1 = .fwd then x.2.state.raised else x.2.state = .dark
  | .awaitLockFwd => c.place.role = 2 ∧ ∀ x, x ∈ c.lineLegs → x.2.state = .dark
  | .bringupRev => c.place.role ≠ 0 ∧ c.bidir = true
      ∧ ∀ x, x ∈ c.lineLegs → if x.1 = .fwd then x.2.state = .atTarget else x.2.state.raised
  | .awaitLockRev => c.place.role = 0 ∧ c.bidir = true ∧ c.allAtTarget = true
  | .live => c.allAtTarget = true
  | .teardown => (c.place.role ≠ 2 ∧ c.allAtTarget = true)
      ∨ (c.allOff = false ∧ ∀ x, x ∈ c.lineLegs → x.2.state ∈ [LegState.rampingDown, .off])
  | .failing => c.allOff = false ∧ ∀ x, x ∈ c.lineLegs → x.2.state ∈ [LegState.stepping, .rampingDown, .off]

/-- A leg's level and its leg state (R47, R116). -/
def LineLeg.LevelAgrees (l : LineLeg) : Prop :=
  (l.state ∈ [LegState.dark, .off] → l.level = .off)
    ∧ ((l.state = .atTarget ∨ (l.state = .rampingDown ∧ l.step = none)) → l.level ≠ .off)
    ∧ (l.unverified = true → l.level ≠ .off)

/-- Each leg timer runs exactly in the leg state or stage that has it (R49, R50). -/
def LineLeg.TimersAgree (l : LineLeg) : Prop :=
  (l.settle.isSome = true ↔ l.step.map (·.stage) = some .settle)
    ∧ (l.spacing.isSome = true → l.step.map (·.stage) = some .verify)
    ∧ (l.retry.isSome = true ↔ l.state = .backoff)
    ∧ (l.headroom.isSome = true ↔ l.state = .headroomWait)
    ∧ (l.frozen.isSome = true ↔ l.state = .frozen)
    ∧ (l.darkTimer.isSome = true ↔ l.frozen.map (·.1) = some .dark)

/-- The step in progress fits its kind: the stages the kind passes through, its request and its bounds (R48, R115 to R121, R127). -/
def StepState.Fits (level : Level) (st : StepState) : Prop :=
  (st.cls = .down ↔ st.kind = .down)
    ∧ (st.kind ∈ [StepKind.down, .backoff] → st.stage ∈ [Stage.actuate, .settle])
    ∧ (st.kind = .recheck → st.stage ∈ [Stage.baseline, .verify])
    ∧ (st.kind ∈ [StepKind.lightOn, .up, .recheck] → st.requested ≠ .off)
    ∧ ((st.kind ∈ [StepKind.up, .recheck] ∨ (st.kind = .lightOn ∧ st.stage ∈ [Stage.settle, .verify])) → level ≠ .off)
    ∧ st.observed.length ≤ 16 ∧ st.failingRun ≤ 7 ∧ st.scansUsed ≤ 8

/-- The scan queue or the scan in flight serves a requester: what is withdrawn serves none (R134, R137). -/
def Monitor.serves (m : Monitor) (x : Requester) : Prop :=
  x ∈ m.queue.map (·.requester) ∨ ∃ f, m.flight = some f ∧ f.request.requester = x ∧ f.withdrawn = false

/-- A line leg agrees with its step, its degree's arbiter and actuator, and the monitor port (R47, R48, R99 to R101, R134, R142). -/
structure LegAgrees (s : State) (phase : Phase) (r : LegRef) (l : LineLeg) : Prop where
  level  : l.LevelAgrees
  timers : l.TimersAgree
  token  : l.step.isSome = true ↔ ∃ t, (s.arb l.egress).token = some t ∧ t.leg = r
  holder : ∀ st, l.step = some st → st.Fits l.level ∧ (s.arb l.egress).token = some ⟨r, st.cls⟩
             ∧ l.state = (if st.cls = .down then .rampingDown else .stepping)
             ∧ (phase = .failing → st.cls = .up → st.stage = .actuate)
             ∧ (st.stage = .actuate ↔ ∃ f, (s.act l.egress).flight = some f ∧ f.leg = r)
             ∧ ((st.stage ∈ [Stage.baseline, .verify] ∧ l.spacing = none) ↔ s.monitor.serves (.leg r))
             ∧ (s.monitor.state = .fault → st.kind ∈ [StepKind.lightOn, .up, .recheck] → st.stage = .actuate)
  up     : l.state = .queued ↔ r ∈ (s.arb l.egress).up.map (·.leg)
  wait   : l.state = .headroomWait ↔ r ∈ (s.arb l.egress).wait.map (·.leg)
  back   : l.state = .backoff ↔ r ∈ (s.arb l.egress).backoff
  down   : (l.state = .rampingDown ∧ l.step = none) ↔ r ∈ (s.arb l.egress).down
  holds  : l.state = .stepping → l.step.isSome = true
  frozen : l.state = .frozen ↔ r ∈ s.frozenOrder

/-- What the arbiter and the actuator of degree `d` name are line legs that egress there, in each collection once; a command in flight is
that of a step in ACTUATE; a faulted actuator's degree has no holder, no DOWN entry and no command (R99 to R101, R111, R142). -/
structure ArbiterAgrees (s : State) (d : Degree) : Prop where
  names   : ∀ r, r ∈ ((s.arb d).token.toList.map (·.leg)) ++ (s.arb d).down ++ (s.arb d).up.map (·.leg) ++ (s.arb d).wait.map (·.leg)
              ++ (s.arb d).backoff ++ ((s.act d).flight.toList.map (·.leg)) → ∃ l, s.leg? r = some l ∧ l.egress = d
  flown   : ∀ f, (s.act d).flight = some f → ∃ l st, s.leg? f.leg = some l ∧ l.step = some st ∧ st.stage = .actuate
  once    : ((s.arb d).down ++ (s.arb d).up.map (·.leg) ++ (s.arb d).wait.map (·.leg) ++ (s.arb d).backoff).Nodup
  faulted : (s.act d).faulted = true → (s.arb d).token = none ∧ (s.arb d).down = [] ∧ (s.act d).flight = none

/-- The monitor port (R134, R136 to R141): no two requests of one requester, at most 132; a watch QUEUED or IN_FLIGHT as its request
is; RETRYING exactly while a reissue is in flight; in FAULT an empty queue, stopped watches and a probe or the probe timer. -/
structure MonitorAgrees (s : State) : Prop where
  once     : (s.monitor.queue.map (·.requester)).Nodup
  bound    : s.monitor.queue.length ≤ 132
  names    : ∀ q, q ∈ s.monitor.queue → q.requester ≠ .probe ∧ ∀ r, q.requester = .leg r → (s.leg? r).isSome = true
  queued   : ∀ d, (s.watch d).state = .queued ↔ .watch d ∈ s.monitor.queue.map (·.requester)
  flying   : ∀ d, (s.watch d).state = .inFlight ↔ ∃ f, s.monitor.flight = some f ∧ f.request.requester = .watch d
  stopped  : ∀ d, (s.watch d).state = .stopped ↔ s.monitor.state = .fault
  flight   : ∀ f, s.monitor.flight = some f →
               (f.withdrawn = false → f.request.requester ∉ s.monitor.queue.map (·.requester)
                 ∧ ∀ r, f.request.requester = .leg r → (s.leg? r).isSome = true)
               ∧ (f.withdrawn = true → ∃ r, f.request.requester = .leg r)
               ∧ (f.request.requester = .probe ↔ s.monitor.state = .fault)
               ∧ (f.reissue = true ↔ s.monitor.state = .retrying)
  idle     : s.monitor.flight = none → s.monitor.queue = [] ∧ s.monitor.state ≠ .retrying
  fault    : s.monitor.state = .fault → s.monitor.queue = []
  probe    : s.monitor.probe.isSome = true ↔ s.monitor.state = .fault ∧ s.monitor.flight = none

/-- The entry of slice `k` of a table. -/
def State.entry (s : State) (d : Degree) (dir : MapDir) (k : Nat) : Option SliceEntry := (s.map.table d dir)[k]?

/-- The directions whose light the node has let in on a job being commissioned: forward from bring-up or the lock wait on, reverse from
the turnaround on (R28, R76, R78, R79, R83, R84). -/
def Context.turned (c : Context) (dir : Dir) : Prop :=
  match c.phase with
  | .bringupFwd => dir = .fwd
  | .awaitLockFwd => dir = .fwd
  | .bringupRev => True
  | .awaitLockRev => True
  | _ => False

/-- The leg has nothing left to lower: a drop leg, or a line leg that is OFF. -/
def Leg.isOff : Leg → Prop
  | .line l => l.state = .off
  | .drop _ => True

/-- A line leg that may not have sent light yet: its level is OFF and none of its commands is in flight (R27). -/
def Leg.unlit : Leg → Prop
  | .line l => l.level = .off ∧ l.step.map (·.stage) ≠ some .actuate
  | .drop _ => False

/-- What an entry of a leg's ingress or egress run holds, by the phase of its job (R19, R26 to R31): HELD, BOOKED and LIVE throughout the
phases of those names; while the job is commissioned LIT once its direction is turned, but for an egress run that no light has left on
yet, and BOOKED before; in TEARDOWN LIVE, but for the egress run of a leg that was abandoned; in FAILING LIT until the leg is OFF, then
no longer the job's. -/
def Context.RunFits (c : Context) (dir : Dir) (leg : Leg) (side : MapDir) (e : SliceEntry) : Prop :=
  match c.phase with
  | .holding => e = .held c.id
  | .booked => e = .booked c.id
  | .live => e = .live c.id
  | .teardown => e = .live c.id ∨ (side = .outgoing ∧ leg.isOff ∧ e.job? ≠ some c.id)
  | .failing => (leg.isOff ∧ e.job? ≠ some c.id) ∨ (¬ leg.isOff ∧ e = .lit c.id)
  | _ => (c.turned dir ∧ e = .lit c.id) ∨ (c.turned dir ∧ side = .outgoing ∧ leg.unlit ∧ e = .booked c.id)
      ∨ (¬ c.turned dir ∧ e = .booked c.id)

/-- The spectrum map and the job table (R19, R29, R30): every entry of every context's entry set stands as the phase has it, and an entry
that names a job lies in the entry set of a context in use with that job id. -/
structure MapAgrees (s : State) : Prop where
  runs  : ∀ c, c ∈ s.jobs → ∀ x, x ∈ c.legs → ∀ run, run ∈ x.2.runs → ∀ k, c.first ≤ k → k < c.first + c.count →
            ∃ e, s.entry run.1 run.2 k = some e ∧ c.RunFits x.1 x.2 run.2 e
  names : ∀ d dir (k : Nat) e j, s.entry d dir k = some e → e.job? = some j →
            ∃ c, c ∈ s.jobs ∧ c.id = j ∧ (d, dir) ∈ c.entrySet ∧ c.first ≤ k ∧ k < c.first + c.count

/-- The units of the part agree: contexts with their roles, timers and phases, line legs with their arbiters, actuators and scans, the
spectrum map with the contexts. -/
structure Agreed (s : State) : Prop where
  shapes   : ∀ c, c ∈ s.jobs → c.Shaped
  timers   : ∀ c, c ∈ s.jobs → c.TimersAgree
  phases   : ∀ c, c ∈ s.jobs → c.PhaseAgrees
  legs     : ∀ c, c ∈ s.jobs → ∀ x, x ∈ c.lineLegs → LegAgrees s c.phase ⟨c.id, x.1⟩ x.2
  arbiters : ∀ d, ArbiterAgrees s d
  monitor  : MonitorAgrees s
  frozen   : s.frozenOrder.Nodup ∧ ∀ r, r ∈ s.frozenOrder → (s.leg? r).isSome = true
  map      : MapAgrees s

end Sys2Proof.Machine
end

