-- ==== Sys2Proof/WellFormed.lean ====
section
/-! DEFINITION. When a command is well formed: every operand fits the field that carries it (the widths of R180 and R183).
A value that fits its field and lies outside the range a rule allows is well formed; the rule that owns it refuses or clamps
it. -/

namespace Sys2Proof

/-- An item value: a signed 32-bit integer (R180). -/
def fitsItem (v : Int) : Bool := decide (-2147483648 ≤ v ∧ v ≤ 2147483647)

def fitsOptItem (v : Option Int) : Bool := v.all fitsItem

/-- A job id: two 16-bit numbers (R180, R183). -/
def JobId.wf (j : JobId) : Bool := decide (j.head < 65536 ∧ j.seq < 65536)

/-- A hop: a 16-bit node id and two bytes (R180). -/
def RawHop.wf (h : RawHop) : Bool := decide (h.node < 65536 ∧ h.egress < 256 ∧ h.drop < 256)

/-- At least one hop item is there (R180 requires every item not marked optional), and the body fits a frame. -/
def OpenFields.wf (f : OpenFields) : Bool :=
  f.route.all RawHop.wf && decide (1 ≤ f.route.length) && decide (5 * (4 + f.route.length) ≤ Config.bodyMax)
    && fitsItem f.first && fitsItem f.count && fitsItem f.density && fitsItem f.bidir

def RangeFields.wf (r : RangeFields) : Bool :=
  fitsItem r.degree && fitsItem r.direction && fitsItem r.first && fitsItem r.count

def NodeFields.wf (f : NodeFields) : Bool :=
  [f.nodeId, f.holdTime, f.pathLimit, f.lockWait, f.silenceLimit, f.gapLimit, f.scanTimeout, f.watchInterval,
    f.linkTimeout].all fitsOptItem

def DegreeFields.wf (f : DegreeFields) : Bool :=
  [f.enabled, f.stepSize, f.probeDepth, f.levelFloor, f.levelCeiling, f.outputCeiling, f.guardBand, f.egressTapOffset,
    f.ingressTapOffset, f.amplifierCount, f.settleBase, f.settlePerAmp, f.tolerance, f.disturbanceLimit,
    f.observationWindow, f.failRun, f.scanSpacing, f.retryLimit, f.retryInterval, f.holdPolicy, f.losThreshold,
    f.darkTimeout, f.headroomTimeout, f.actuatorTimeout].all fitsOptItem

def RestoreFields.wf (f : RestoreFields) : Bool :=
  f.job.wf && [f.role, f.hopIndex, f.bidir, f.first, f.count, f.density].all fitsItem
    && [f.owner, f.upstream, f.downstream, f.level1, f.level2].all fitsOptItem

/-- The widths of a RESERVE body (R183), whose length must stay within 255 bytes (R152). -/
def ReserveFields.wf (f : ReserveFields) : Bool :=
  f.job.wf && decide (f.hopIndex < 256 ∧ f.first < 65536 ∧ f.count < 256 ∧ f.bidir < 256)
    && decide (-32768 ≤ f.density ∧ f.density ≤ 32767) && f.hops.all RawHop.wf
    && decide (12 + 4 * f.hops.length ≤ 255)

/-- The kinds that name a request (R179). -/
def requestKinds : List Byte :=
  [0x01#8, 0x02#8, 0x03#8, 0x04#8, 0x10#8, 0x11#8, 0x12#8, 0x13#8, 0x14#8, 0x15#8, 0x20#8, 0x21#8, 0x22#8, 0x23#8,
    0x24#8, 0x30#8, 0x31#8, 0x32#8, 0x33#8]

def Instr.wf : Instr → Bool
  | .reset => true
  | .nop _ _ => true
  | .queryNode _ _ => true
  | .setNode _ _ f => f.wf
  | .setDegree _ _ d f => fitsItem d && f.wf
  | .openJob _ _ f => f.wf
  | .abortJob _ _ j => j.wf
  | .closeJob _ _ j => j.wf
  | .adoptJob _ _ j => j.wf
  | .lockReport _ _ j r => j.wf && fitsItem r
  | .queryJob _ _ j => j.all JobId.wf
  | .queryMap _ _ r => r.wf
  | .block _ _ r => r.wf
  | .unblock _ _ r => r.wf
  | .queryDegree _ _ d => fitsItem d
  | .clearFault _ _ d => fitsItem d
  | .clearFaultMonitor _ _ => true
  | .readLog _ _ a n => fitsItem a && fitsItem n
  | .readCounts _ _ c => fitsItem c
  | .restoreLive _ _ f => f.wf
  | .endRestore _ _ => true
  | .badRequest _ _ kind body => decide (body.length ≤ Config.bodyMax) && !requestKinds.contains kind
  | .requestOverrun _ _ _ body => decide (body.length ≤ Config.bodyMax)
  | .frameCrcBad _ => true
  | .frameGapExpiry _ => true
  | .portSilenceExpiry _ => true
  | .transmitFrameDone _ => true
  | .helloTimerExpiry _ => true
  | .framerSendRequest _ => true
  | .headerUncorrectable _ => true
  | .unknownKind _ _ => true
  | .hello _ _ node degree _ => decide (node < 65536 ∧ degree < 256)
  | .reserve _ _ f => f.wf
  | .reserveOk _ _ j => j.wf
  | .refuse _ _ j _ node => j.wf && decide (node < 65536)
  | .release _ _ j => j.wf
  | .rampTurn _ _ j dir => j.wf && decide (dir < 256)
  | .pathUp _ _ j => j.wf
  | .fail _ _ j _ _ origin => j.wf && decide (origin < 65536)
  | .drop _ _ j => j.wf
  | .downTurn _ _ j => j.wf
  | .linkTimeoutExpiry _ => true
  | .holdTimerExpiry j => j.wf
  | .pathTimerExpiry j => j.wf
  | .lockTimerExpiry j => j.wf
  | .teardownTimerExpiry j => j.wf
  | .settleTimerExpiry j _ => j.wf
  | .scanSpacingExpiry j _ => j.wf
  | .retryTimerExpiry j _ => j.wf
  | .darkTimerExpiry j _ => j.wf
  | .headroomTimerExpiry j _ => j.wf
  | .scanResult issue _ => decide (issue < 256)
  | .scanTimeout => true
  | .probeTimerExpiry => true
  | .watchIntervalExpiry _ => true
  | .actuatorCompletion _ issue _ => decide (issue < 256)
  | .actuatorTimeout _ => true
  | .byteReceived _ _ => true
  | .bodyBad _ _ => true

end Sys2Proof
end

