-- ==== Sys2Proof/Certificates/Slice0/Obligations.lean ====
section
/-! DEFINITION. The statements for the provers. The terms they share come first: a state after a good frame or a valid message has been
taken, written out as a record of the state before, and the sense in which a parameter is stored and a job fails. -/

namespace Sys2Proof.Machine

/-! ### Terms -/

/-- The transmit queue of port `p` holds fewer than 32 frames, so that a request is taken (R159). -/
def HasRoom (p : Port) (s : State) : Prop := (s.port p).tx.length < 32

/-- The state with another slot link unit on port `p`. -/
def State.withPort (s : State) (p : Port) (u : SlotLink) : State := { s with ports := s.ports.set p u }

/-- The state with another link unit on degree `d`. -/
def State.withLink (s : State) (d : Degree) (l : Link) : State := { s with links := s.links.set d l }

/-- The state after a good frame on port `p` (R159, R160): the receiver hunts, the port is UP, its silence timer started anew. -/
def Raised (p : Port) (s : State) : State :=
  s.withPort p { s.port p with receive := none, gap := none, up := true, silence := some s.node.silenceLimit }

/-- The same with a reply placed last on the port's transmit queue (R161, R162). -/
def Answered (p : Port) (tag : Byte) (r : Reply) (s : State) : State :=
  s.withPort p { s.port p with receive := none, gap := none, up := true, silence := some s.node.silenceLimit,
                               tx := (s.port p).tx ++ [.reply tag r] }

/-- The same for a good frame discarded at a full queue (R159). -/
def Overrun (p : Port) (s : State) : State :=
  s.withPort p { s.port p with receive := none, gap := none, up := true, silence := some s.node.silenceLimit,
                               overrun := min ((s.port p).overrun + 1) 65535 }

/-- A link unit that has received a header, clean or corrected (R150). -/
def Noted (h : Header) (l : Link) : Link :=
  match h with
  | .clean => l
  | .corrected => { l with counts := { l.counts with corrected := min (l.counts.corrected + 1) 65535 },
                           localFlags := { l.localFlags with corrected := true } }

/-- The state after a valid path message on an UP link (R150, R153): the header noted, the timeout timer started anew. -/
def Heard (d : Degree) (h : Header) (s : State) : State :=
  s.withLink d { Noted h (s.link d) with timeout := some s.node.linkTimeout }

/-- Degree `d` is enabled and its link UP. -/
def Hears (d : Degree) (s : State) : Prop := (s.deg d).enabled = true ∧ (s.link d).up = true

/-- `b` is stored of a field present or absent over the range `lo` to `hi`, where `a` stood (R167). -/
def Stores (lo hi : Int) (field : Option Int) (a b : Int) : Prop :=
  (field = none → b = a) ∧
  ∀ v, field = some v → (v < lo → b = lo) ∧ (hi < v → b = hi) ∧ (lo ≤ v → v ≤ hi → b = v)

/-- What is not a job's, a port's, a link's or a device's: parameters, node state, time, sequence counter, waiting commands. -/
def SameParams (s t : State) : Prop :=
  t.node = s.node ∧ t.degrees = s.degrees ∧ t.running = s.running ∧ t.time = s.time ∧ t.seqCounter = s.seqCounter
    ∧ t.pending = s.pending

/-- The contexts of the other jobs, outside their legs: the same ones, unchanged. -/
def OthersKept (id : JobId) (s t : State) : Prop :=
  (t.jobs.filter (fun c => c.id ≠ id)).map Context.outer = (s.jobs.filter (fun c => c.id ≠ id)).map Context.outer

/-- The newest four of a history's records, or all of them (R172). -/
def newestFour (h : List StepRecord) : List StepRecord := h.drop (h.length - 4)

/-- The job has failed between `s` and `t` (R45, R87, R172): its context is freed, or in FAILING with the given cause and origin, its
hold, lock and path timers stopped, and the leg the cause arose in with the newest four records of that leg's history as they stood
(or no leg and no records); the entries of its drop legs' runs that named it are FREE, and each of its line legs that is left has been
handed for ramp-down, out of DARK, AT_TARGET, BACKOFF and FROZEN (R89); no other context has changed outside its legs, and nothing that
no failure concerns. -/
def JobFails (id : JobId) (f : Failure) (leg : Option (Dir × List StepRecord)) (s t : State) : Prop :=
  (∀ b, b ∈ t.jobs → b.id = id → b.phase = .failing ∧ b.failure = some f ∧ b.hold = none ∧ b.path = none ∧ b.lock = none
      ∧ b.failLeg = leg.map (·.1) ∧ b.failSteps = (match leg with
        | some x => newestFour x.2
        | none => []))
    ∧ (∀ c, s.ctx? id = some c → ∀ x, x ∈ c.legs →
        (∀ d k e, x.2 = .drop d → c.first ≤ k → k < c.first + c.count → s.entry d .incoming k = some e → e.job? = some id →
          t.entry d .incoming k = some .free)
        ∧ ∀ l y, x.2 = .line l → t.leg? ⟨id, x.1⟩ = some y → y.state ∉ [LegState.dark, .atTarget, .backoff, .frozen])
    ∧ OthersKept id s t ∧ SameParams s t

/-- The phases in which a job can fail (R87). -/
def BeforeLive (c : Context) : Prop := c.phase ≠ .live ∧ c.phase ≠ .teardown ∧ c.phase ≠ .failing

/-- Between two maps, the entries of `count` slices from `first` on in the named tables change by `f`, and no other entry. -/
def RunsChange (first count : Nat) (runs : List (Degree × MapDir)) (f : SliceEntry → SliceEntry) (m m' : SpectrumMap) : Prop :=
  ∀ d dir (k : Nat), (m'.table d dir)[k]? =
    if (d, dir) ∈ runs ∧ first ≤ k ∧ k < first + count then ((m.table d dir)[k]?).map f else (m.table d dir)[k]?

/-- Every entry of the run is there and FREE (R23). -/
def RunFree (s : State) (runs : List (Degree × MapDir)) (first count : Nat) : Prop :=
  ∀ x, x ∈ runs → ∀ k, first ≤ k → k < first + count → s.entry x.1 x.2 k = some .free

/-- The command makes the request: as the request's own command, as a frame given whole, or as the byte that completes its frame, the
last of the bytes after the marker (R158, R162). -/
def Carries (c : Instr) (s : State) (r : Request) : Prop :=
  ∃ (p : Port) (tag : Byte), c = r.command p tag
    ∨ ∃ kind body, decodeRequest kind body = some r ∧
        (c = .badRequest p tag kind body ∨ c = .requestOverrun p tag kind body
          ∨ ∃ (b : Byte) (bytes : List Byte), c = .byteReceived p b ∧ (s.port p).receive = some bytes
              ∧ marker :: (bytes ++ [b]) = frameBytes kind tag body)

/-- The contexts with a change of the job's. -/
def setJob (id : JobId) (f : Context → Context) (jobs : List Context) : List Context :=
  jobs.map (fun c => if c.id = id then f c else c)

/-- The bytes of a frame received one by one on port `p`. -/
def receiveAll (p : Port) : List Byte → State → Host.Outcome State Fault Refusal
  | [], s => .next s
  | b :: bs, s =>
    match exec (.byteReceived p b) s with
    | .next t => receiveAll p bs t
    | .fault e => .fault e
    | .refused e => .refused e

/-! ### Terms of jobs and legs -/

/-- A line leg as a reservation creates it, with its target and probe level (R46). -/
def DarkLeg (ingress : Point) (egress : Degree) (target probe : Int) : LineLeg where
  ingress := ingress
  egress := egress
  target := target
  probe := probe
  level := .off
  state := .dark
  stepsTaken := 0
  retryCount := 0
  short := false
  unverified := false
  verified := none
  lastDev := none
  worst := none
  history := []
  step := none
  frozen := none
  settle := none
  spacing := none
  retry := none
  darkTimer := none
  headroom := none

/-- The probe level of a line leg of target `T` on degree `d` (R6). -/
def State.probeOn (s : State) (d : Degree) (T : Int) : Int := max (T - (s.deg d).probeDepth) (s.deg d).levelFloor

/-- A context as it is allocated by a reservation but for phase, timers and the `reached` mark (R38, R52). -/
def FreshContext (id : JobId) (place : Place) (owner : Option Port) (bidir : Bool) (first count : Nat) (density : Int)
    (route : Option (List RawHop)) (hopIndex : Nat) (fwd : Leg) (rev : Option Leg) : Context where
  id := id
  place := place
  phase := .holding
  owner := owner
  bidir := bidir
  first := first
  count := count
  density := density
  route := route
  hopIndex := hopIndex
  hold := none
  path := none
  lock := none
  teardown := none
  failure := none
  failLeg := none
  failSteps := []
  reached := false
  fwd := fwd
  rev := rev

/-- The channel-run row of R1. -/
def ChannelRun (first count : Int) : Prop := 0 ≤ first ∧ first ≤ 383 ∧ 2 ≤ count ∧ count ≤ 16 ∧ first + count ≤ 384

/-- The form check of a route (R58): 2 to 16 hops, node ids 1 to 65534 and none twice; a degree as egress point and no drop port at
every hop but the last; point L and a drop port 1 to 8 at the last. -/
def RouteFits (route : List RawHop) : Prop :=
  2 ≤ route.length ∧ route.length ≤ 16 ∧ (route.map (·.node)).Nodup ∧
  ∀ (i : Nat) h, route[i]? = some h → 1 ≤ h.node ∧ h.node ≤ 65534 ∧
    (i + 1 < route.length → 1 ≤ h.egress ∧ h.egress ≤ 4 ∧ h.drop = 0) ∧
    (i + 1 = route.length → h.egress = 0 ∧ 1 ≤ h.drop ∧ h.drop ≤ 8)

/-- The value after a sequence number: 65535 is followed by 1 (R39). -/
def nextSeq (v : Nat) : Nat := if v = 65535 then 1 else v + 1

/-- The result record of a job at this node with its log slot and count (R169 to R171): `r` is written after the index. -/
def Recorded (r : ResultRecord) (s : State) : State := { s with results := s.results.write r }

/-- The record of a job with no cause: COMMISSIONED or CLOSED (R170). -/
def plainRecord (c : Context) (o : JobOutcome) (time : BitVec 32) : ResultRecord where
  job := c.id
  role := c.place.role
  outcome := o
  failure := none
  time := time
  legs := c.lineLegs.map (fun x =>
    ⟨x.2.egress, x.2.target, x.2.level, x.2.short, x.2.stepsTaken, x.2.retryCount, x.2.lastDev, x.2.worst⟩)
  failLeg := none
  preceding := []

/-- The state after acceptance of a job at this node (R29, R81, R82, R85), with the entries that result. -/
def Accepted (c : Context) (m : SpectrumMap) (s : State) : State :=
  { s with
    map := m
    jobs := setJob c.id (fun b => { b with phase := .live, path := none, lock := none }) s.jobs
    results := s.results.write (plainRecord c .commissioned s.time) }

/-- The state in which a LIVE HEAD or TRANSIT has entered TEARDOWN with its downstream link UP (R93): DROP goes downstream and the
teardown timer runs. -/
def Dropping (id : JobId) (d : Degree) (s : State) : State :=
  send d (.drop id)
    { s with jobs := setJob id (fun b => { b with phase := .teardown, teardown := some s.node.pathLimit }) s.jobs }

/-- The job ramps down between `s` and `t` (R94, R95): its context is freed, or in TEARDOWN with no teardown timer and no line leg left
AT_TARGET; the LIVE entries of its entry set stay LIVE, or are FREE once it is freed, but for abandoned ones, which are BLOCKED (R30,
R31); no other context has changed outside its legs. -/
def RampsDown (id : JobId) (s t : State) : Prop :=
  (∀ b, b ∈ t.jobs → b.id = id → b.phase = .teardown ∧ b.teardown = none ∧ ∀ x, x ∈ b.lineLegs → x.2.state ≠ .atTarget)
    ∧ (∀ c, s.ctx? id = some c → ∀ x, x ∈ c.entrySet → ∀ k, c.first ≤ k → k < c.first + c.count →
        s.entry x.1 x.2 k = some (.live id) →
        t.entry x.1 x.2 k = some (.blocked .abandoned)
          ∨ t.entry x.1 x.2 k = some (if t.ctx? id = none then .free else .live id))
    ∧ OthersKept id s t ∧ SameParams s t

/-- The context of a job freed (R53): its legs' scans leave the queue or are marked withdrawn in flight, and it leaves the table. -/
def Freed (id : JobId) (s : State) : State :=
  { s with
    jobs := s.jobs.filter (fun c => c.id ≠ id)
    monitor := { s.monitor with
      queue := s.monitor.queue.filter (fun q => q.requester ≠ .leg ⟨id, .fwd⟩ ∧ q.requester ≠ .leg ⟨id, .rev⟩)
      flight := s.monitor.flight.map (fun f =>
        if f.request.requester = .leg ⟨id, .fwd⟩ ∨ f.request.requester = .leg ⟨id, .rev⟩ then { f with withdrawn := true }
        else f) } }

/-- Confirmation, lighting, acceptance and release of an entry for a job (R26 to R30). -/
def confirmed (id : JobId) (e : SliceEntry) : SliceEntry := if e = .held id then .booked id else e
def lit (id : JobId) (e : SliceEntry) : SliceEntry := if e = .booked id then .lit id else e
def accepted (id : JobId) (e : SliceEntry) : SliceEntry := if e = .booked id ∨ e = .lit id then .live id else e
def released (id : JobId) (e : SliceEntry) : SliceEntry := if e.job? = some id then .free else e

/-- A change of the line leg of a reference. -/
def setLeg (r : LegRef) (f : LineLeg → LineLeg) (jobs : List Context) : List Context :=
  setJob r.job (fun c => c.mapLine r.dir f) jobs

/-- The loss of the link of degree `d` has been taken by the jobs between `s` and `t` (R72, R73, R97, R98): of the contexts that use the
degree only LIVE, TEARDOWN and FAILING ones are left, a LIVE one as it was outside its legs; the others have not changed there. -/
def LossTaken (d : Degree) (s t : State) : Prop :=
  (∀ b, b ∈ t.jobs → b.uses d = true → b.phase = .live ∨ b.phase = .teardown ∨ b.phase = .failing)
    ∧ (∀ c, c ∈ s.jobs → c.phase = .live → ∃ b, b ∈ t.jobs ∧ b.outer = c.outer)
    ∧ (t.jobs.filter (fun c => !c.uses d)).map Context.outer = (s.jobs.filter (fun c => !c.uses d)).map Context.outer
    ∧ SameParams s t

/-- The loss of the link of degree `d`, taken by one job that uses it (R72 to R74, R97, R98). In HOLDING the reservation ends: at the loss
of its downstream link as if refused LINK_DOWN by this node, REFUSE going upstream at a TRANSIT and the REFUSED outcome following at a HEAD;
at the loss of its upstream link with RELEASE downstream. From BOOKED on and before LIVE the job fails with LINK_DOWN and this node as
origin, FAIL going out on its other degree. In TEARDOWN, its downstream link lost with no ramp-down begun, it ramps down. Else the loss
changes nothing. -/
def JobTakesLoss (d : Degree) (id : JobId) (s t : State) : Prop :=
  ∃ c, s.ctx? id = some c ∧ c.uses d = true
    ∧ (c.phase = .holding → ∃ m, RunsChange c.first c.count c.entrySet (released id) s.map m
      ∧ (c.place.down? = some d →
        (∀ u e, c.place = .transit u e → t = Freed id (send u (.refuse id .linkDown s.node.nodeId) { s with map := m }))
        ∧ (∀ e, c.place = .head e → t = Freed id (Recorded ⟨id, 0, .refused, some ⟨.linkDown, 0#8, s.node.nodeId⟩, s.time, [], none, []⟩
            (notifyOwner c.owner (.refused id .linkDown s.node.nodeId) { s with map := m }))))
      ∧ (c.place.down? ≠ some d → t = Freed id (match c.place.down? with
          | some e => send e (.release id) { s with map := m }
          | none => { s with map := m })))
    ∧ (BeforeLive c → c.phase ≠ .holding → JobFails id ⟨.linkDown, 0#8, s.node.nodeId⟩ none s t
      ∧ ∀ e, e ≠ d → c.uses e = true → ((send e (.fail id .linkDown 0#8 s.node.nodeId) s).link e).queue <+: (t.link e).queue)
    ∧ (c.phase = .teardown → c.place.down? = some d → c.allAtTarget = true → RampsDown id s t)
    ∧ ((c.phase = .live ∨ c.phase = .failing ∨ (c.phase = .teardown ∧ (c.place.down? ≠ some d ∨ c.allAtTarget = false))) → t = s)

/-- The jobs take the loss of the link of degree `d` one after another, in the order given (R97). -/
def JobsTakeLoss (d : Degree) : List JobId → State → State → Prop
  | [], s, t => t = s
  | id :: ids, s, t => ∃ u, JobTakesLoss d id s u ∧ JobsTakeLoss d ids u t

/-- The job ids of the contexts that use the degree, as the job table has them: in ascending order (R97). -/
def State.usersOf (s : State) (d : Degree) : List JobId := (s.jobs.filter (fun c => c.uses d)).map (·.id)

/-- A message of the path engine's, received on degree `d` with the given outcome of its header. -/
def PathMessage (d : Degree) (h : Header) (c : Instr) : Prop :=
  (∃ f, c = .reserve d h f) ∨ (∃ j, c = .reserveOk d h j) ∨ (∃ j k n, c = .refuse d h j k n) ∨ (∃ j, c = .release d h j)
    ∨ (∃ j n, c = .rampTurn d h j n) ∨ (∃ j, c = .pathUp d h j) ∨ (∃ j k v n, c = .fail d h j k v n) ∨ (∃ j, c = .drop d h j)
    ∨ ∃ j, c = .downTurn d h j

/-- A line leg as a restored job has it, at a level (R46, R177). -/
def RestoredLeg (ingress : Point) (egress : Degree) (target probe v : Int) : LineLeg :=
  { DarkLeg ingress egress target probe with
    level := .num v, verified := some v, state := .atTarget, short := decide (v < target) }

/-- A verification scan's result for a line leg that awaits it (R121, R136): the scan of issue `issue` is in flight for the leg `r`, not
withdrawn, and brings the readings its range asks for; the leg is in VERIFY with no spacing timer, at level `v`, its ingress not dark. -/
structure Verifying (s : State) (issue : Nat) (readings : List Int) (r : LegRef) (c : Context) (l : LineLeg) (st : StepState)
    (v : Int) : Prop where
  flight  : ∃ f, s.monitor.flight = some f ∧ f.issue = issue ∧ readings.length = f.request.count ∧ f.request.requester = .leg r
              ∧ f.withdrawn = false
  calm    : s.monitor.state ≠ .retrying
  job     : s.ctx? r.job = some c
  leg     : c.leg? r.dir = some (.line l)
  step    : l.step = some st
  stage   : st.stage = .verify
  free    : l.spacing = none
  level   : l.level = .num v
  bright  : ∀ g, l.ingress = .line g → (s.watch g).dark = .lit

/-- The measured level, the deviation and the disturbances of a verification scan, nearest observed channel first (R12, R16). -/
def measuredLevel (r : LegRef) (c : Context) (l : LineLeg) (st : StepState) (readings : List Int) : Int :=
  channelLevel (legScan r c l st).first c.first c.count (readings.map clampReading)
def deviationOf (s : State) (r : LegRef) (c : Context) (l : LineLeg) (st : StepState) (v : Int) (readings : List Int) : Int :=
  measuredLevel r c l st readings - (v + (s.deg l.egress).egressTapOffset)
def disturbancesOf (r : LegRef) (c : Context) (l : LineLeg) (st : StepState) (readings : List Int) : List Int :=
  st.observed.filterMap (fun o => o.baseline.map (fun b =>
    channelLevel (legScan r c l st).first o.first o.count (readings.map clampReading) - b))

/-- A line leg entering FROZEN (R49, R132): its step and timers gone, the dark timer started for a dark ingress, the unverified flag set
where its level is a number other than the verified one, else left as it stood (that a flag already set stays set at the verified level is
the model's choice, log 26). -/
def FrozenLeg (s : State) (x : FrozenBy) (k : RequestKind) (l : LineLeg) : LineLeg :=
  { l with
    state := .frozen, frozen := some (x, k), step := none, settle := none, spacing := none, retry := none, headroom := none
    darkTimer := if x = .dark then some (s.deg l.egress).darkTimeout else none
    unverified := l.unverified || (match l.level with
      | .off => false
      | .num v => l.verified != some v) }

/-- The leg holds the token for a LIGHT_ON, UP or RECHECK step with no command of it in flight: what a freeze stops at once (R130,
R131). -/
def stoppedHolder (l : LineLeg) : Bool :=
  l.step.any (fun st => (st.kind == .lightOn || st.kind == .up || st.kind == .recheck) && st.stage != .actuate)

/-- The leg is frozen when the ingress of degree `g` becomes DARK: the rows of R130 but for a holder in ACTUATE. -/
def frozenByDark (g : Degree) (l : LineLeg) : Bool :=
  l.ingress == .line g && (l.state == .queued || l.state == .headroomWait || stoppedHolder l)

/-- From `u`, which is `s` but for monitor and watches, to `t` just the legs that `f` says have frozen (R130 to R132, R137): each ends its
step with verdict NONE, leaves its arbiter's token, UP class or headroom-wait list, and a holder's scan is withdrawn; they froze in
ascending degree, the holder first, then the UP class, then the headroom-wait list (log 6). -/
def LegsFrozen (x : FrozenBy) (f : LineLeg → Bool) (s u t : State) : Prop :=
  let caught (r : LegRef) : Bool := (s.leg? r).any f
  let stopped (q : ScanRequest) : Bool := match q.requester with
    | .leg r => caught r && (s.leg? r).any (fun l => l.step.isSome)
    | _ => false
  (∀ r l, s.leg? r = some l → t.leg? r = some (if f l then FrozenLeg s x .step (LineLeg.endStep .none l) else l))
    ∧ t.frozenOrder = s.frozenOrder ++ [Degree.d1, .d2, .d3, .d4].flatMap (fun d =>
        ((s.arb d).token.toList.map (·.leg) ++ (s.arb d).up.map (·.leg) ++ (s.arb d).wait.map (·.leg)).filter caught)
    ∧ (∀ d, t.arb d =
        { s.arb d with
          token := if (s.arb d).token.any (fun k => caught k.leg) then none else (s.arb d).token
          up := (s.arb d).up.filter (fun e => !caught e.leg)
          wait := (s.arb d).wait.filter (fun e => !caught e.leg) })
    ∧ t.monitor =
        { u.monitor with
          queue := u.monitor.queue.filter (fun q => !stopped q)
          flight := u.monitor.flight.map (fun y => if stopped y.request then { y with withdrawn := true } else y) }
    ∧ SameParams s t ∧ t.jobs.map Context.outer = s.jobs.map Context.outer ∧ t.ports = s.ports ∧ t.links = s.links
    ∧ t.map = s.map ∧ t.watches = u.watches ∧ t.actuators = s.actuators ∧ t.results = s.results

/-- From `u`, which is `s` but for monitor and watches, to `t` just the frozen legs that `f` says have thawed, in the order in which they
froze (R102, R132): each leaves FROZEN, its dark timer stopped, and joins the end of its degree's UP class with its return state as kind,
or, its ingress DARK, freezes again at once, last in the order. -/
def LegsThawed (f : LineLeg → Bool) (s u t : State) : Prop :=
  let dark (l : LineLeg) : Bool := match l.ingress with
    | .bank => false
    | .line h => (u.watch h).dark == .dark
  (∀ r l, s.leg? r = some l → (f l = false → t.leg? r = some l)
      ∧ (f l = true → ∀ x k, l.frozen = some (x, k) → t.leg? r = some
          (if dark l then FrozenLeg s .dark k l else { l with state := .queued, frozen := none, darkTimer := none })))
    ∧ t.frozenOrder = s.frozenOrder.filter (fun r => !(s.leg? r).any f)
        ++ s.frozenOrder.filter (fun r => (s.leg? r).any (fun l => f l && dark l))
    ∧ (∀ d, t.arb d =
        { s.arb d with
          up := (s.arb d).up ++ s.frozenOrder.filterMap (fun r => (s.leg? r).bind (fun l =>
            if f l && !dark l && l.egress == d then l.frozen.map (fun y => ⟨r, y.2⟩) else none)) })
    ∧ t.monitor = u.monitor ∧ SameParams s t ∧ t.jobs.map Context.outer = s.jobs.map Context.outer ∧ t.ports = s.ports
    ∧ t.links = s.links ∧ t.map = s.map ∧ t.watches = u.watches ∧ t.actuators = s.actuators ∧ t.results = s.results

/-- The entry of an UP class is skipped by a grant pass: of kind STEP while the degree is HELD (R104, R108). -/
def skipped (a : Arbiter) (e : UpEntry) : Bool := a.held && e.kind == .step

/-- The headroom check of an UP entry of degree `d` passes: the total with its leg at the level it would request is within C - G (R105). -/
def Fits (s : State) (d : Degree) (e : UpEntry) : Prop :=
  ∀ l c, s.leg? e.leg = some l → s.ctx? e.leg.job = some c →
    degreeTotal d e.leg c.first (planStep l (s.deg d)).2 s ≤ (s.deg d).outputCeiling - (s.deg d).guardBand

/-- The line legs of degree `d` at a numeric level other than the leg `r`, each with its context and its level (R13). -/
def State.others (s : State) (d : Degree) (r : LegRef) : List (Context × Int) :=
  s.jobs.flatMap (fun c => c.lineLegs.filterMap (fun x => match x.2.level with
    | .num v => if x.2.egress = d ∧ (⟨c.id, x.1⟩ : LegRef) ≠ r then some (c, v) else none
    | .off => none))

/-- The state with nothing in flight at the monitor. -/
def Landed (s : State) : State := { s with monitor := { s.monitor with flight := none } }

/-- The arbiter of degree `d` with the token taken from the leg, if it holds it. -/
def State.arbFree (s : State) (d : Degree) (r : LegRef) : Arbiter :=
  { s.arb d with token := if (s.arb d).token.any (fun t => t.leg = r) then none else (s.arb d).token }

/-- A command sent for the leg on the actuator of degree `d` (R142). -/
def State.actSent (s : State) (d : Degree) (r : LegRef) (c : Context) (q : Level) : Actuator :=
  { s.act d with flight := some ⟨r, c.first, c.count, q, (s.act d).nextIssue, (s.deg d).actuatorTimeout⟩,
                 nextIssue := ((s.act d).nextIssue + 1) % 256 }

/-- The command a message arrives as. -/
def messageCommand (d : Degree) (h : Header) : Message → Instr
  | .reserve f => .reserve d h f
  | .reserveOk j => .reserveOk d h j
  | .refuse j c n => .refuse d h j c n
  | .release j => .release d h j
  | .rampTurn j dir => .rampTurn d h j dir.code
  | .pathUp j => .pathUp d h j
  | .fail j c v n => .fail d h j c v n
  | .drop j => .drop d h j
  | .downTurn j => .downTurn d h j

/-- The cause a message carries is one its byte stands for: a named one, or a byte that names none. -/
def CauseFits : Message → Prop
  | .refuse _ c _ => Cause.ofByte c.code = c
  | .fail _ c _ _ => Cause.ofByte c.code = c
  | _ => True

/-- What the framer's bytes of a whole message are read as (R150 to R152). -/
def readMessage (d : Degree) : List Byte → Option Instr
  | h0 :: h1 :: h2 :: check :: rest => some (commandOfMessage d h0 h1 h2 check rest)
  | _ => none

/-! ### Terms of replies -/

/-- A field of a reply as R180 sends it: absent, one value, or a list of members, each with fields of its own. -/
inductive Sent
  | absent
  | one (v : Int)
  | list (members : List (List Sent))

mutual
/-- A field sent at place `n`: an absent one has no item, a list's item holds the number of its members. -/
def Sent.laid : Nat → Sent → List Item
  | _, .absent => []
  | n, .one v => [⟨n, v⟩]
  | n, .list ms => ⟨n, ms.length⟩ :: laidMembers ms
termination_by structural _ f => f
/-- Fields sent from place `n` on; an absent one keeps its place. -/
def laid : Nat → List Sent → List Item
  | _, [] => []
  | n, f :: fs => f.laid n ++ laid (n + 1) fs
termination_by structural _ fs => fs
/-- The members of a list, each numbered afresh from 1 between an item 255 and an item 254. -/
def laidMembers : List (List Sent) → List Item
  | [] => []
  | m :: ms => ⟨255, 0⟩ :: laid 1 m ++ ⟨254, 0⟩ :: laidMembers ms
termination_by structural ms => ms
end

def Sent.opt : Option Int → Sent
  | some v => .one v
  | none => .absent
def Sent.optNat (v : Option Nat) : Sent := .opt (v.map (fun n => (n : Int)))
/-- A flag, or a name of a row of two names (log 25): 1 for the second or set, 0 for the first or clear. -/
def Sent.bit (b : Bool) : Sent := .one (if b then 1 else 0)
/-- A field of several values: a list of one member (R180). -/
def Sent.group (fields : List Sent) : Sent := .list [fields]
/-- A job id as an item's value: bytes 0 and 1 the head node id, bytes 2 and 3 the sequence number, signed (R180). -/
def jobValue (j : JobId) : Int := (BitVec.ofNat 16 j.seq ++ BitVec.ofNat 16 j.head).toInt
/-- A leg reference. -/
def Sent.leg (r : LegRef) : Sent := .group [.one (jobValue r.job), .one r.dir.code]

/-- The fields of a step record (R51), of a leg entry and of a result record (R170). -/
def stepRecordFields (x : StepRecord) : List Sent :=
  [.one x.number, .one x.kind.code, .one x.fromLevel.item, .one x.requested.item, .opt (x.applied.map Level.item),
    .opt x.measured, .opt x.deviation, .opt x.worst, .one x.verdict.code, .one x.scansUsed]
def legEntryFields (e : LegEntry) : List Sent :=
  [.one e.egress.toNat, .one e.target, .one e.level.item, .bit e.short, .one e.stepsTaken, .one e.retryCount, .opt e.lastDev,
    .opt e.worst]
def causeFields (f : Option Failure) : List Sent :=
  match f with
  | none => [.absent, .absent]
  | some f =>
    [.group [.one f.cause.code.toNat, if f.cause = .retriesExhausted then .one f.verdict.toNat else .absent], .one f.origin]
def resultFields (r : ResultRecord) : List Sent :=
  [.one (jobValue r.job), .one r.role, .one r.outcome.code] ++ causeFields r.failure ++
    [.one (r.time.toInt), if r.outcome = .refused then .absent else .list (r.legs.map legEntryFields),
      .opt (r.failLeg.map (fun d => (d.code : Int))),
      if r.preceding = [] then .absent else .list (r.preceding.map stepRecordFields)]

/-- The fields of a line leg and of a drop leg (R42, R46, R48 to R50, R56). -/
def stepFields (st : StepState) : List Sent :=
  [.one st.cls.code, .one st.kind.code, .one st.stage.code, .one st.fromLevel.item, .one st.requested.item,
    .list (st.observed.map (fun o => [.one (jobValue o.job), .group [.one o.first, .one o.count], .opt o.baseline])),
    .one st.failingRun, .one st.scansUsed, .opt st.worst]
def lineFields (dir : Dir) (l : LineLeg) : List Sent :=
  [.one dir.code, .one l.ingress.code, .one l.egress.toNat, .one l.target, .one l.probe, .one l.level.item, .one l.state.code,
    .one l.stepsTaken, .one l.retryCount, .bit l.short, .bit l.unverified, .opt l.verified, .opt l.lastDev, .opt l.worst,
    (match l.step with
     | some st => .group (stepFields st)
     | none => .absent),
    .opt (l.frozen.map (fun x => (x.1.code : Int))), .opt (l.frozen.map (fun x => (x.2.code : Int))),
    .list ([(0, l.settle), (1, l.spacing), (2, l.retry), (3, l.darkTimer), (4, l.headroom)].filterMap
      (fun (x : Int × Option Nat) => x.2.map (fun t => [.one x.1, .one t]))),
    .list (l.history.map stepRecordFields)]
def legFields (dir : Dir) : Leg → List Sent
  | .line l => lineFields dir l
  | .drop d => [.one dir.code, .one d.toNat]

/-- The fields of a context (R38, R56), and of the list of contexts. -/
def contextFields (c : Context) : List Sent :=
  [.one (jobValue c.id), .one c.place.role, .one c.phase.code, .opt (c.owner.map (fun p => (p.toNat : Int))),
      .opt (c.place.up?.map (fun d => (d.toNat : Int))), .opt (c.place.down?.map (fun d => (d.toNat : Int))), .bit c.bidir,
      .one c.first, .one c.count, .one c.density,
      (match c.route with
       | some hops => .list (hops.map (fun h => [.one h.item]))
       | none => .absent),
      .one c.hopIndex, .optNat c.hold, .optNat c.path, .optNat c.lock, .optNat c.teardown] ++ causeFields c.failure ++
    [.group (legFields .fwd c.fwd),
      (match c.rev with
       | some l => .group (legFields .rev l)
       | none => .absent)]
def jobListFields (jobs : List Context) : List Sent :=
  [.one jobs.length, .list (jobs.map (fun c => [.one (jobValue c.id), .one c.place.role, .one c.phase.code]))]

/-- The fields of a degree: its arbiter (R114), its link unit (R156), its devices (R145). -/
def degreeFields (d : Degree) (s : State) : List Sent :=
  let a := s.arb d
  let l := s.link d
  let flags (x : ErrorFlags) : Sent := .group [.bit x.corrected, .bit x.uncorrectable, .bit x.bodyBad, .bit x.unknownKind]
  let left (f : LineLeg → Option Nat) (r : LegRef) : Sent := .optNat ((s.leg? r).bind f)
  let step (r : LegRef) : Option StepState := (s.leg? r).bind (·.step)
  [.bit (s.deg d).holdAll, .bit (!a.held),
    .list (a.token.toList.map (fun t => [.leg t.leg, .one t.cls.code, .opt ((step t.leg).map (fun x => (x.kind.code : Int))),
      .opt ((step t.leg).map (fun x => (x.stage.code : Int)))])),
    .list (a.down.map (fun r => [.one (jobValue r.job), .one r.dir.code])),
    .list (a.up.map (fun e => [.leg e.leg, .one e.kind.code])),
    .list (a.wait.map (fun e => [.leg e.leg, .one e.kind.code, left (·.headroom) e.leg])),
    .list (a.backoff.map (fun r => [.leg r, left (·.retry) r])),
    (match a.lastCheck with
     | some h => .group [.leg h.leg, .one h.requested, .one h.total, .one h.limit, .bit (!h.granted), .one h.time.toInt]
     | none => .absent),
    .bit l.up, .opt (l.neighbour.map (fun n => (n.1 : Int))), .opt (l.neighbour.map (fun n => (n.2 : Int))), .optNat l.timeout,
    .one l.queue.length,
    .group [.one l.counts.corrected, .one l.counts.uncorrectable, .one l.counts.bodyBad, .one l.counts.unknownKind,
      .one l.counts.dropped],
    flags l.localFlags, flags l.farFlags, .bit (s.act d).faulted, .bit ((s.watch d).dark == .dark), .one (s.watch d).run,
    .one (s.watch d).state.code, .one s.monitor.state.code]

/-- The fields of the node (R164). -/
def nodeFields (s : State) : List Sent :=
  let n := s.node
  [.bit s.running, .one n.nodeId, .one s.time.toInt, .one n.nodeId, .one n.holdTime, .one n.pathLimit, .one n.lockWait,
    .one n.silenceLimit, .one n.gapLimit, .one n.scanTimeout, .one n.watchInterval, .one n.linkTimeout, .one s.jobs.length,
    .one s.seqCounter, .one s.monitor.state.code, .one s.monitor.queue.length,
    (match s.monitor.flight with
     | none => .absent
     | some f => match f.request.requester with
       | .leg r => .leg r
       | .watch d => .group [.absent, .absent, .one d.toNat]
       | .probe => .absent),
    .list ([Port.p1, .p2, .p3, .p4, .p5, .p6, .p7, .p8].map (fun p =>
      let u := s.port p
      [.bit u.up, .optNat u.silence, .one u.tx.length, .one u.discarded, .one u.overrun, .one u.noticesDropped]))]

/-- A run of a QUERY_MAP reply (R34, R180, R185): an item numbered 5 with the state's code in byte 0 and the length in byte 1, and, where the
state names a job, an item numbered 6 with the job id (the numbers are the model's, log 23). -/
def runSent (x : SliceEntry × Nat) : List Item :=
  let run (code : Nat) : Item := ⟨5, code + 256 * x.2⟩
  match x.1 with
  | .unknown => [run 0]
  | .free => [run 1]
  | .held j => [run 2, ⟨6, jobValue j⟩]
  | .booked j => [run 3, ⟨6, jobValue j⟩]
  | .lit j => [run 4, ⟨6, jobValue j⟩]
  | .live j => [run 5, ⟨6, jobValue j⟩]
  | .blocked .admin => [run 6]
  | .blocked .abandoned => [run 7]

/-- The log slot `i` places before slot `a`, wrapping from slot 1 to slot 32 (R174). -/
def slotBack (a i : Nat) : Nat := (a + 31 - i % 32) % 32 + 1

end Sys2Proof.Machine

open Sys2Proof Sys2Proof.Machine

/-! ### The queue, the tick and reset -/

/-- A step takes the command at the front of the queue. -/
def Obligations.StepRunsTheFrontCommand : Prop :=
  ∀ (c : Instr) (rest : List Instr) (s : State), s.pending = c :: rest → step s = exec c { s with pending := rest }

/-- With no command waiting, a step is one millisecond (the model's choice, log 1): the time count goes up by one and wraps, every
running timer has one less to run and not below 0, and nothing else changes. -/
def Obligations.IdleStepIsOneMillisecond : Prop :=
  ∀ s : State, s.pending = [] → ∃ t, step s = .next t ∧ t.time = s.time + 1#32
    ∧ (∀ p, t.port p = { s.port p with gap := (s.port p).gap.map (· - 1), silence := (s.port p).silence.map (· - 1) })
    ∧ (∀ d, t.link d = { s.link d with timeout := (s.link d).timeout.map (· - 1),
                                       helloTimer := (s.link d).helloTimer.map (· - 1) })
    ∧ (∀ d, t.watch d = { s.watch d with interval := (s.watch d).interval.map (· - 1) })
    ∧ (∀ d, t.act d = { s.act d with flight := (s.act d).flight.map (fun f => { f with timer := f.timer - 1 }) })
    ∧ t.monitor = { s.monitor with probe := s.monitor.probe.map (· - 1),
                                   flight := s.monitor.flight.map (fun f => { f with timer := f.timer - 1 }) }
    ∧ t.jobs = s.jobs.map (fun c =>
        let leg := Leg.mapLine (fun l =>
          { l with settle := l.settle.map (· - 1), spacing := l.spacing.map (· - 1), retry := l.retry.map (· - 1),
                   darkTimer := l.darkTimer.map (· - 1), headroom := l.headroom.map (· - 1) })
        { c with hold := c.hold.map (· - 1), path := c.path.map (· - 1), lock := c.lock.map (· - 1),
                 teardown := c.teardown.map (· - 1), fwd := leg c.fwd, rev := c.rev.map leg })
    ∧ t.pending = [] ∧ t.running = s.running ∧ t.seqCounter = s.seqCounter ∧ t.node = s.node ∧ t.degrees = s.degrees
    ∧ t.map = s.map ∧ t.frozenOrder = s.frozenOrder ∧ t.arbiters = s.arbiters ∧ t.results = s.results

/-- RESET leaves every piece of state at the value of the table of 11.5 (R21, R57, R99, R134, R142, R146, R157, R165, R166, R169,
R173, R175). The command queue stays (log 20), and the last bytes sent, which are the model's, are none (log 14). -/
def Obligations.ResetLeavesTheStartingState : Prop :=
  ∀ s : State, ∃ t, exec .reset s = .next t ∧ t.pending = s.pending ∧ t.running = false ∧ t.time = 0#32 ∧ t.seqCounter = 1
    ∧ t.jobs = [] ∧ t.frozenOrder = [] ∧ (∀ d dir (k : Nat), k < 384 → t.entry d dir k = some .unknown)
    ∧ t.node = ⟨1, 10000, 900000, 10000, 5000, 5, 300, 500, 3500⟩
    ∧ (∀ d, t.deg d = ⟨false, 300, 1500, -2500, 1500, 2300, 100, -2000, -2000, 0, 50, 10, 150, 50, 8, 3, 20, 3, 1000, false,
        -3000, 30000, 60000, 500⟩)
    ∧ (∀ p, t.port p = ⟨none, none, false, none, [], 0, 0, 0, 0, []⟩)
    ∧ (∀ d, t.link d = ⟨false, none, none, none, false, [], ⟨0, 0, 0, 0, 0⟩, ⟨false, false, false, false⟩,
        ⟨false, false, false, false⟩, []⟩)
    ∧ (∀ d, t.arb d = ⟨none, [], [], [], [], false, none⟩) ∧ (∀ d, t.act d = ⟨false, none, 0⟩)
    ∧ (∀ d, t.watch d = ⟨.lit, 0, if d = .d1 then .inFlight else .queued, none⟩)
    ∧ t.monitor = ⟨[⟨.watch .d2, .d2, .incoming, 0, 384⟩, ⟨.watch .d3, .d3, .incoming, 0, 384⟩,
        ⟨.watch .d4, .d4, .incoming, 0, 384⟩], some ⟨⟨.watch .d1, .d1, .incoming, 0, 384⟩, 0, 300, false, false⟩, 1, .ok, none⟩
    ∧ t.results = ⟨List.replicate 32 none, 0, ⟨0, 0, 0, 0, 0⟩⟩

/-! ### What every command keeps -/

/-- The state after reset is sound, and its units agree: no context is in use, and no entry of the map names a job. -/
def Obligations.ResetStateIsSound : Prop := Sound State.reset ∧ Agreed State.reset

/-- Every step keeps every bound and agreement of `Sound`: tables of 384 entries, at most 64 contexts with different job ids, histories
of at most 8 records, queues within their lengths, counts within 65535, timers that run exactly while their unit's state runs them,
the hold status of R108, issue numbers 0 to 255, the log's shape, every parameter in its range, the sequence counter 1 to 65535. -/
def Obligations.EveryStepKeepsSoundness : Prop := ∀ s t : State, Sound s → step s = .next t → Sound t

/-- Every step keeps the units in agreement (`Agreed`): legs and owner with the role (R40, R41), job timers and fail fields with the
phase (R44, R45), leg states with the phase (R43), leg timers with leg state and stage (R49, R50), the token with its one holder and
that holder's step with actuator and scan (R48, R100, R142), leg states with the arbiters' collections (R47, R101), a scan queue of at
most 132 with no two requests of one requester, watches and monitor state with what is queued and in flight (R134, R138 to R141), and the
spectrum map with the contexts (R19, R29, R30): an entry that names a job lies in the entry set of a context in use with that job id, and
every entry of a context's entry set stands as the phase and the leg have it, those of a LIVE job LIVE and naming it. -/
def Obligations.EveryStepKeepsAgreement : Prop := ∀ s t : State, Sound s → Agreed s → step s = .next t → Agreed t

/-- A context keeps the fields set at its allocation until it is freed (R38), and each line leg its ingress point, egress degree and
probe level (R6, R41): every context in use after a command other than RESET either was in use before it with the same such fields, or
carries a job id that no context in use before it carried. -/
def Obligations.ContextsKeepTheirFixedFields : Prop :=
  ∀ (c : Instr) (s t : State), c ≠ .reset → exec c s = .next t →
    ∀ b, b ∈ t.jobs → (∃ a, a ∈ s.jobs ∧ a.fixed = b.fixed) ∨ (∀ a, a ∈ s.jobs → a.id ≠ b.id)

/-- Under every command but RESET an entry changes by rows of the table of 2.2, one after another, or stays (R19, R22): an entry that
names a job only goes on from HELD through BOOKED and LIT to LIVE, naming the same job, until it is FREE or BLOCKED(ABANDONED); a FREE
one is taken HELD or BOOKED or blocked ADMIN, a BLOCKED one freed, an UNKNOWN one taken LIVE or freed. -/
def Obligations.EntriesMoveOnlyByTheTable : Prop :=
  ∀ (c : Instr) (s t : State), c ≠ .reset → exec c s = .next t →
    ∀ d dir (k : Nat) e, s.entry d dir k = some e → ∃ e', t.entry d dir k = some e' ∧ e.Moves e'

/-- Who may change what belongs to the node: only RESET the time count, and no command the queue; only RESET and END_RESTORE the node
state, only RESET and OPEN the sequence counter, only RESET and SET_NODE the node parameters, only RESET and SET_DEGREE those of a
degree. Each of these requests comes as its own command, as a frame that carries it, or as the byte that completes such a frame; a byte
that completes none leaves them all. -/
def Obligations.NodeStateChangesOnlyByItsCommands : Prop :=
  ∀ (c : Instr) (s t : State), exec c s = .next t →
    t.pending = s.pending ∧ (c = .reset ∨
      (t.time = s.time
        ∧ (Carries c s .endRestore ∨ t.running = s.running)
        ∧ ((∃ f, Carries c s (.openJob f)) ∨ t.seqCounter = s.seqCounter)
        ∧ ((∃ f, Carries c s (.setNode f)) ∨ t.node = s.node)
        ∧ ((∃ d f, Carries c s (.setDegree d f)) ∨ t.degrees = s.degrees)))

/-! ### Frames and requests -/

/-- The bytes of a whole frame, received one by one from HUNT, do exactly what the command of the request they carry does; where they
carry none, what BAD_REQUEST does; and where the last two bytes are not the frame's CRC, what FRAME_CRC_BAD does (R158, R159, R162,
R179, R180). -/
def Obligations.FrameByBytesIsItsCommand : Prop :=
  ∀ (p : Port) (tag kind : Byte) (body : List Byte) (s : State), body.length ≤ 250 → (s.port p).receive = none →
    receiveAll p (frameBytes kind tag body) s =
      (match decodeRequest kind body with
       | some r => exec (r.command p tag) s
       | none => exec (.badRequest p tag kind body) s)
    ∧ ∀ x y : Byte, [x, y] ≠ crcBytes (BitVec.ofNat 8 body.length :: kind :: tag :: body) →
        receiveAll p (marker :: BitVec.ofNat 8 body.length :: kind :: tag :: body ++ [x, y]) s = exec (.frameCrcBad p) s

/-- FRAME_CRC_BAD, FRAME_GAP_EXPIRY, PORT_SILENCE_EXPIRY and a byte in HUNT (R158 to R160): a frame discarded and counted, the expiry of
a gap timer that has run out doing the same, a port gone DOWN as its silence timer runs out, a marker beginning a frame and any other
byte in HUNT dropped; a length byte above 250 discarding the frame at once; and a byte that does not yet complete its frame kept, the gap
timer started anew; nothing else changes. An expiry of a timer that has not run out changes nothing (log 2). -/
def Obligations.SlotLinkEventsComplete : Prop :=
  ∀ (p : Port) (s : State),
    let discarded : State :=
      s.withPort p { s.port p with receive := none, gap := none, discarded := min ((s.port p).discarded + 1) 65535 }
    exec (.frameCrcBad p) s = .next discarded
    ∧ exec (.frameGapExpiry p) s = .next (if (s.port p).gap = some 0 then discarded else s)
    ∧ exec (.portSilenceExpiry p) s =
        .next (if (s.port p).silence = some 0 then s.withPort p { s.port p with up := false, silence := none } else s)
    ∧ ((s.port p).receive = none → ∀ b : Byte, exec (.byteReceived p b) s = .next
        (if b = 0xA5#8 then s.withPort p { s.port p with receive := some [], gap := some s.node.gapLimit } else s))
    ∧ ((s.port p).receive = some [] → ∀ b : Byte, 250 < b.toNat → exec (.byteReceived p b) s = .next discarded)
    ∧ ∀ (bytes : List Byte) (b len : Byte) (rest : List Byte), (s.port p).receive = some bytes → bytes ++ [b] = len :: rest →
        len.toNat ≤ 250 → rest.length < len.toNat + 4 → exec (.byteReceived p b) s =
          .next (s.withPort p { s.port p with receive := some (bytes ++ [b]), gap := some s.node.gapLimit })

/-- TRANSMIT_FRAME_DONE (R161, R181): it is the end of one segment of the queue's first place, and the place is freed with its last
segment (DEDUCED, log 21; the segments sent and the bytes last sent are the model's own fields, log 14); on an empty queue nothing
happens. The segments of a DONE reply of any length carry its body whole: all but the last are
DONE_PART with 250 bytes, the last is DONE with at most 250. -/
def Obligations.TransmitterSendsTheQueueInOrder : Prop :=
  (∀ (p : Port) (s : State),
    ((s.port p).tx = [] → exec (.transmitFrameDone p) s = .next s)
    ∧ ∀ f rest, (s.port p).tx = f :: rest → exec (.transmitFrameDone p) s = .next (s.withPort p
        (if (s.port p).segmentsSent + 1 < f.wire.length then
          { s.port p with segmentsSent := (s.port p).segmentsSent + 1,
                          lastSent := f.wire.getD (s.port p).segmentsSent [] }
        else { s.port p with tx := rest, segmentsSent := 0, lastSent := f.wire.getD (s.port p).segmentsSent [] })))
  ∧ ∀ (tag : Byte) (items : List Item), ∃ (parts : List (List Byte)) (last : List Byte),
      (TxFrame.reply tag (.done items)).wire
          = parts.map (fun b => frameBytes 0x81#8 tag b) ++ [frameBytes 0x80#8 tag last]
        ∧ parts.flatten ++ last = bytesOfItems items ∧ (∀ b, b ∈ parts → b.length = 250) ∧ last.length ≤ 250

/-- A good frame (R159, R162): at a transmit queue of 32 frames or more it raises its port, is counted and is otherwise lost; below
that, one that makes no request is answered REFUSED with BAD_REQUEST and changes nothing else, and one that makes a request is that
request (a BAD_REQUEST or REQUEST_OVERRUN command carries its frame and is taken as any good frame: the model's reading, log 4). -/
def Obligations.FramesAreTakenRefusedOrCounted : Prop :=
  ∀ (p : Port) (tag : Byte) (s : State),
    (32 ≤ (s.port p).tx.length →
      (∀ r : Request, exec (r.command p tag) s = .next (Overrun p s))
      ∧ ∀ kind body, exec (.badRequest p tag kind body) s = .next (Overrun p s)
          ∧ exec (.requestOverrun p tag kind body) s = .next (Overrun p s))
    ∧ (HasRoom p s → ∀ kind body,
      (decodeRequest kind body = none →
        exec (.badRequest p tag kind body) s = .next (Answered p tag (.refused .badRequest) s)
        ∧ exec (.requestOverrun p tag kind body) s = .next (Answered p tag (.refused .badRequest) s))
      ∧ ∀ r, decodeRequest kind body = some r → exec (.badRequest p tag kind body) s = exec (r.command p tag) s
          ∧ exec (.requestOverrun p tag kind body) s = exec (r.command p tag) s)

/-- NOP, QUERY_NODE, QUERY_JOB, QUERY_DEGREE and READ_LOG (R56, R114, R164, R174): the port raised, the reply placed, nothing else changed;
an id that finds no job is refused NOT_FOUND, a degree outside 1 to 4 and a start or count outside 0 to 32 BAD_RANGE. The contents of the
replies of QUERY_NODE, QUERY_JOB and QUERY_DEGREE (R56, R114, R156, R164): the fields their rules list, laid out by R180 (how fields of
several values and unnamed codes are counted and coded, which values are fields of their own, and the order in which the lists of R114,
R156 and R145 are joined, are the model's: log 9, 10, 11 and 25); and of READ_LOG (R174): the log index, the number of
records and the records newest first, from the start slot (0: the index) back slot by slot, each with its slot number, ending after the
count asked (0: 32), at the oldest record, at an empty start slot, or where the next record would take the body beyond 4000 bytes. -/
def Obligations.ReadingRequestsReportTheirFields : Prop :=
  (∀ (p : Port) (tag : Byte) (s : State), HasRoom p s →
    exec (.nop p tag) s = .next (Answered p tag (.done []) s)
    ∧ exec (.queryNode p tag) s = .next (Answered p tag (.done (nodeItems (Raised p s))) s)
    ∧ exec (.queryJob p tag none) s = .next (Answered p tag (.done (jobListItems s.jobs)) s)
    ∧ (∀ id, exec (.queryJob p tag (some id)) s = .next (Answered p tag
        (match s.ctx? id with
         | some c => .done c.items
         | none => .refused .notFound) s))
    ∧ (∀ n, exec (.queryDegree p tag n) s = .next (Answered p tag
        (match Degree.ofInt n with
         | some d => .done (degreeItems d s)
         | none => .refused .badRange) s))
    ∧ (∀ a n, exec (.readLog p tag a n) s = .next (Answered p tag
        (if 0 ≤ a ∧ a ≤ 32 ∧ 0 ≤ n ∧ n ≤ 32 then .done (logItems s.results a.toNat n.toNat) else .refused .badRange) s)))
  ∧ (∀ s : State, nodeItems s = laid 1 (nodeFields s))
    ∧ (∀ c : Context, c.items = laid 1 (contextFields c))
    ∧ (∀ jobs : List Context, jobListItems jobs = laid 1 (jobListFields jobs))
    ∧ (∀ (d : Degree) (s : State), degreeItems d s = laid 1 (degreeFields d s))
    ∧ ∀ (x : Results) (start count : Nat), x.Sound → start ≤ 32 → count ≤ 32 →
      let first := if start = 0 then x.index else start
      let wanted := if count = 0 then 32 else count
      let oldest := if (x.slots.getD (x.index % 32) none).isSome then x.index % 32 + 1 else 1
      let reply (found : List (Nat × ResultRecord)) : List Item :=
        laid 1 [.one x.index, .one found.length, .list (found.map (fun y => [.group (resultFields y.2), .one y.1]))]
      ∃ found : List (Nat × ResultRecord), logItems x start count = reply found
        ∧ found.length ≤ wanted ∧ (reply found).length ≤ 800
        ∧ (∀ i y, found[i]? = some y → 1 ≤ first ∧ y.1 = slotBack first i ∧ x.slots[y.1 - 1]? = some (some y.2))
        ∧ (∀ i y, found[i]? = some y → i + 1 < found.length → y.1 ≠ oldest)
        ∧ (found.length < wanted → (found = [] ∧ (first = 0 ∨ x.slots.getD (first - 1) none = none))
            ∨ (∃ y, found.getLast? = some y ∧ y.1 = oldest)
            ∨ ∃ r, x.slots.getD (slotBack first found.length - 1) none = some r
                ∧ 800 < (reply (found ++ [(slotBack first found.length, r)])).length)

/-- QUERY_MAP (R34): the reply is DONE with the four fields as asked and then the runs of the range; the runs expand to the entries of
the range in slice order, no run is empty, and no two neighbours are equal. What the items of a run hold is R180's and R185's (`runSent`),
their item numbers 5 and 6, with no list around them, are the model's choice (log 23). -/
def Obligations.QueryMapReportsTheRange : Prop :=
  ∀ (p : Port) (tag : Byte) (d : Degree) (dir : MapDir) (r : RangeFields) (s : State), HasRoom p s →
    Degree.ofInt r.degree = some d → MapDir.ofInt r.direction = some dir →
    0 ≤ r.first → r.first ≤ 383 → 1 ≤ r.count → r.count ≤ 96 → r.first + r.count ≤ 384 →
    ∃ runs : List (SliceEntry × Nat),
      exec (.queryMap p tag r) s = .next (Answered p tag
        (.done ([⟨1, r.degree⟩, ⟨2, r.direction⟩, ⟨3, r.first⟩, ⟨4, r.count⟩] ++ runs.flatMap runSent)) s)
      ∧ runs.flatMap (fun x => List.replicate x.2 x.1) = ((s.map.table d dir).drop r.first.toNat).take r.count.toNat
      ∧ (∀ x, x ∈ runs → 1 ≤ x.2) ∧ runs.IsChain (fun x y => x.1 ≠ y.1)

/-- BLOCK and UNBLOCK (R32, R33): within the range, BLOCK makes each FREE entry BLOCKED(ADMIN) and UNBLOCK each BLOCKED entry FREE; every
other entry of the map stays; the reply carries the number of entries of the range left as they were; nothing else changes. The field
checks of both and of QUERY_MAP (R1, R32 to R34; their order is the model's reading, log 18): a direction with no code is refused
BAD_REQUEST, a degree outside 1 to 4 or a range outside its row of R1 BAD_RANGE; nothing else changes. -/
def Obligations.BlockAndUnblockChangeTheirRange : Prop :=
  (∀ (p : Port) (tag : Byte) (d : Degree) (dir : MapDir) (r : RangeFields) (s : State), HasRoom p s →
      Degree.ofInt r.degree = some d → MapDir.ofInt r.direction = some dir →
      0 ≤ r.first → r.first ≤ 383 → 1 ≤ r.count → r.count ≤ 384 → r.first + r.count ≤ 384 →
      let range := ((s.map.table d dir).drop r.first.toNat).take r.count.toNat
      (∃ m, RunsChange r.first.toNat r.count.toNat [(d, dir)] (fun e => if e = .free then .blocked .admin else e) s.map m ∧
        exec (.block p tag r) s =
          .next { Answered p tag (.done [⟨1, (range.countP (fun e => e ≠ .free) : Nat)⟩]) s with map := m })
      ∧ (∃ m, RunsChange r.first.toNat r.count.toNat [(d, dir)] (fun e => if e.isBlocked then .free else e) s.map m ∧
        exec (.unblock p tag r) s =
          .next { Answered p tag (.done [⟨1, (range.countP (fun e => !e.isBlocked) : Nat)⟩]) s with map := m }))
  ∧
  (∀ (p : Port) (tag : Byte) (r : RangeFields) (s : State), HasRoom p s →
      let refused (e : Reason) : Host.Outcome State Fault Refusal := .next (Answered p tag (.refused e) s)
      (MapDir.ofInt r.direction = none →
        exec (.queryMap p tag r) s = refused .badRequest ∧ exec (.block p tag r) s = refused .badRequest
          ∧ exec (.unblock p tag r) s = refused .badRequest)
      ∧ ((∃ dir, MapDir.ofInt r.direction = some dir) → (Degree.ofInt r.degree = none ∨ r.first < 0 ∨ 383 < r.first ∨ r.count < 1 ∨
          384 < r.first + r.count) →
        exec (.queryMap p tag r) s = refused .badRange ∧ exec (.block p tag r) s = refused .badRange
          ∧ exec (.unblock p tag r) s = refused .badRange)
      ∧ ((∃ dir, MapDir.ofInt r.direction = some dir) → 96 < r.count → exec (.queryMap p tag r) s = refused .badRange))

/-! ### Parameters -/

/-- A numeric field of SET_NODE or SET_DEGREE outside its range is stored as the nearer bound, inside it as given, absent as it stood;
the reply is DONE with the parameters as stored. A node id change while a context is in use, judged on the clamped value, and a
disabling of a used degree are refused BUSY and store nothing (R165 to R167). -/
def Obligations.NumericFieldsAreClamped : Prop :=
  (∀ (p : Port) (tag : Byte) (f : NodeFields) (s : State), HasRoom p s → ∃ n : NodeParams,
    Stores 1 65534 f.nodeId s.node.nodeId n.nodeId ∧ Stores 1000 60000 f.holdTime s.node.holdTime n.holdTime
    ∧ Stores 10000 3600000 f.pathLimit s.node.pathLimit n.pathLimit
    ∧ Stores 1000 60000 f.lockWait s.node.lockWait n.lockWait
    ∧ Stores 500 60000 f.silenceLimit s.node.silenceLimit n.silenceLimit
    ∧ Stores 1 100 f.gapLimit s.node.gapLimit n.gapLimit ∧ Stores 50 2000 f.scanTimeout s.node.scanTimeout n.scanTimeout
    ∧ Stores 100 5000 f.watchInterval s.node.watchInterval n.watchInterval
    ∧ Stores 1500 10000 f.linkTimeout s.node.linkTimeout n.linkTimeout
    ∧ exec (.setNode p tag f) s =
        if s.jobs ≠ [] ∧ n.nodeId ≠ s.node.nodeId then .next (Answered p tag (.refused .busy) s)
        else .next { Answered p tag (.done [⟨1, n.nodeId⟩, ⟨2, n.holdTime⟩, ⟨3, n.pathLimit⟩, ⟨4, n.lockWait⟩,
          ⟨5, n.silenceLimit⟩, ⟨6, n.gapLimit⟩, ⟨7, n.scanTimeout⟩, ⟨8, n.watchInterval⟩, ⟨9, n.linkTimeout⟩]) s with
          node := n })
  ∧ ∀ (p : Port) (tag : Byte) (v : Int) (d : Degree) (f : DegreeFields) (s : State), HasRoom p s → Degree.ofInt v = some d →
    (∀ x, f.enabled = some x → x = 0 ∨ x = 1) → (∀ x, f.holdPolicy = some x → x = 0 ∨ x = 1) →
    ((f.enabled = some 0 ∧ (s.deg d).enabled = true ∧ ∃ c, c ∈ s.jobs ∧ c.uses d = true) →
      exec (.setDegree p tag v f) s = .next (Answered p tag (.refused .busy) s))
    ∧ (¬ (f.enabled = some 0 ∧ (s.deg d).enabled = true ∧ ∃ c, c ∈ s.jobs ∧ c.uses d = true) →
      ∃ (q : DegreeParams) (t : State), exec (.setDegree p tag v f) s = .next t ∧ t.degrees = s.degrees.set d q
        ∧ q.enabled = (match f.enabled with
            | some x => x == 1
            | none => (s.deg d).enabled)
        ∧ q.holdAll = (match f.holdPolicy with
            | some x => x == 1
            | none => (s.deg d).holdAll)
        ∧ Stores 25 600 f.stepSize (s.deg d).stepSize q.stepSize
        ∧ Stores 300 3000 f.probeDepth (s.deg d).probeDepth q.probeDepth
        ∧ Stores (-4000) 0 f.levelFloor (s.deg d).levelFloor q.levelFloor
        ∧ Stores (-1000) 2000 f.levelCeiling (s.deg d).levelCeiling q.levelCeiling
        ∧ Stores 1000 2800 f.outputCeiling (s.deg d).outputCeiling q.outputCeiling
        ∧ Stores 0 500 f.guardBand (s.deg d).guardBand q.guardBand
        ∧ Stores (-3000) 0 f.egressTapOffset (s.deg d).egressTapOffset q.egressTapOffset
        ∧ Stores (-3000) 0 f.ingressTapOffset (s.deg d).ingressTapOffset q.ingressTapOffset
        ∧ Stores 0 40 f.amplifierCount (s.deg d).amplifierCount q.amplifierCount
        ∧ Stores 10 2000 f.settleBase (s.deg d).settleBase q.settleBase
        ∧ Stores 0 200 f.settlePerAmp (s.deg d).settlePerAmp q.settlePerAmp
        ∧ Stores 50 500 f.tolerance (s.deg d).tolerance q.tolerance
        ∧ Stores 20 300 f.disturbanceLimit (s.deg d).disturbanceLimit q.disturbanceLimit
        ∧ Stores 0 32 f.observationWindow (s.deg d).observationWindow q.observationWindow
        ∧ Stores 1 7 f.failRun (s.deg d).failRun q.failRun
        ∧ Stores 5 1000 f.scanSpacing (s.deg d).scanSpacing q.scanSpacing
        ∧ Stores 0 15 f.retryLimit (s.deg d).retryLimit q.retryLimit
        ∧ Stores 100 10000 f.retryInterval (s.deg d).retryInterval q.retryInterval
        ∧ Stores (-5000) 0 f.losThreshold (s.deg d).losThreshold q.losThreshold
        ∧ Stores 1000 300000 f.darkTimeout (s.deg d).darkTimeout q.darkTimeout
        ∧ Stores 1000 600000 f.headroomTimeout (s.deg d).headroomTimeout q.headroomTimeout
        ∧ Stores 50 5000 f.actuatorTimeout (s.deg d).actuatorTimeout q.actuatorTimeout
        ∧ ((s.port p).tx ++ [.reply tag (.done (⟨1, d.toNat⟩ :: itemsFrom 2 q.fields))]) <+: (t.port p).tx
        ∧ t.node = s.node ∧ t.running = s.running ∧ t.time = s.time ∧ t.seqCounter = s.seqCounter ∧ t.pending = s.pending)

/-- SET_DEGREE that enables a disabled degree, or disables an enabled one no context uses (R147): the link unit of that degree changes as
the rule says, every other link unit stays. The arbiter of the degree acts by R113: when the output ceiling or the guard changes the
headroom-wait list moves to the end of the UP class, each moved leg QUEUED with its headroom timer stopped; when the hold policy changes the
hold status is computed anew; nothing else of any arbiter, leg, device, map or log changes before the degree's grant pass, which follows. A
value that stores what stood is no change (DEDUCED, log 19). An enumerated field with no code is refused BAD_REQUEST before a degree outside
1 to 4 is refused BAD_RANGE (R162, R166; the order is log 18), and nothing else changes. -/
def Obligations.SetDegreeTurnsTheLinkUnit : Prop :=
  (∀ (p : Port) (tag : Byte) (v : Int) (f : DegreeFields) (s : State), HasRoom p s →
    let coded (x : Option Int) : Prop := x = none ∨ x = some 0 ∨ x = some 1
    (¬ (coded f.enabled ∧ coded f.holdPolicy) →
      exec (.setDegree p tag v f) s = .next (Answered p tag (.refused .badRequest) s))
    ∧ (coded f.enabled → coded f.holdPolicy → (v < 1 ∨ 4 < v) →
      exec (.setDegree p tag v f) s = .next (Answered p tag (.refused .badRange) s)))
  ∧ ∀ (p : Port) (tag : Byte) (v : Int) (d : Degree) (f : DegreeFields) (s : State), HasRoom p s → Degree.ofInt v = some d →
    (∀ x, f.holdPolicy = some x → x = 0 ∨ x = 1) →
    (f.enabled = some 1 → (s.deg d).enabled = false → ∃ t, exec (.setDegree p tag v f) s = .next t ∧
      t.links = s.links.set d
        { s.link d with counts := ⟨0, 0, 0, 0, 0⟩, localFlags := ⟨false, false, false, false⟩, pendingHello := true,
                        helloTimer := some 1000 })
    ∧ (f.enabled = some 0 → (s.deg d).enabled = true → (∀ c, c ∈ s.jobs → c.uses d = false) →
      ∃ t u, exec (.setDegree p tag v f) s = .next t ∧ t.links = s.links.set d u
        ∧ u.helloTimer = none ∧ u.pendingHello = false ∧ u.queue = [] ∧ u.up = false ∧ u.counts = (s.link d).counts
        ∧ u.localFlags = (s.link d).localFlags ∧ u.farFlags = (s.link d).farFlags ∧ u.handed = (s.link d).handed
        ∧ ((s.link d).up = true → u.neighbour = none ∧ u.timeout = none)
        ∧ ((s.link d).up = false → u.neighbour = (s.link d).neighbour ∧ u.timeout = (s.link d).timeout))
    ∧ (f.enabled = none ∨ (∃ b : Bool, f.enabled = some (b.toNat : Int) ∧ (s.deg d).enabled = b) →
      ∃ t, exec (.setDegree p tag v f) s = .next t ∧ t.links = s.links)
    ∧ ((∀ x, f.enabled = some x → x = 0 ∨ x = 1) →
      ¬ (f.enabled = some 0 ∧ (s.deg d).enabled = true ∧ ∃ c, c ∈ s.jobs ∧ c.uses d = true) →
      ∃ (q : DegreeParams) (x : State), exec (.setDegree p tag v f) s = .next (settleDegree d x) ∧ x.degrees = s.degrees.set d q
        ∧ Stores 1000 2800 f.outputCeiling (s.deg d).outputCeiling q.outputCeiling
        ∧ Stores 0 500 f.guardBand (s.deg d).guardBand q.guardBand
        ∧ q.holdAll = (match f.holdPolicy with
            | some y => y == 1
            | none => (s.deg d).holdAll)
        ∧ (let a := s.arb d
          let moved : Prop := q.outputCeiling ≠ (s.deg d).outputCeiling ∨ q.guardBand ≠ (s.deg d).guardBand
          (¬ moved → x.jobs = s.jobs)
          ∧ (moved → x.jobs = a.wait.foldl (fun jobs e => setLeg e.leg (fun y => { y with state := .queued, headroom := none }) jobs) s.jobs)
          ∧ x.arbiters = s.arbiters.set d { a with
              up := if moved then a.up ++ a.wait else a.up
              wait := if moved then [] else a.wait
              held := if q.holdAll = (s.deg d).holdAll then a.held else q.holdAll && !a.backoff.isEmpty })
        ∧ x.map = s.map ∧ x.monitor = s.monitor ∧ x.watches = s.watches ∧ x.actuators = s.actuators ∧ x.results = s.results
        ∧ x.frozenOrder = s.frozenOrder)

/-! ### Job requests -/

/-- OPEN that passes the checks of R60 and R61 (R62): the run's FREE entries become HELD, a HEAD context in HOLDING joins the job table
under a fresh job id (R39), the counter moves past it, the reply carries the id and RESERVE goes downstream; nothing else changes. -/
def Obligations.OpenReservesTheRun : Prop :=
  ∀ (p : Port) (tag : Byte) (f : OpenFields) (h0 h1 : RawHop) (hops : List RawHop) (d : Degree) (k : Nat) (s : State),
    HasRoom p s → s.running = true → (f.bidir = 0 ∨ f.bidir = 1) → ChannelRun f.first f.count →
    -2000 ≤ f.density → f.density ≤ 500 → RouteFits f.route → f.route = h0 :: h1 :: hops → h0.node = s.node.nodeId →
    Degree.ofInt h0.egress = some d → Hears d s → (s.link d).neighbour = some (h1.node, k) → s.jobs.length < 64 →
    let T := f.density + widthTerm f.count.toNat
    let runs : List (Degree × MapDir) := (d, .outgoing) :: if f.bidir = 1 then [(d, .incoming)] else []
    (s.deg d).levelFloor ≤ T → RunFree s runs f.first.toNat f.count.toNat →
    ∃ (n : Nat) (m : SpectrumMap) (jobs : List Context),
      let q := nextSeq^[n] s.seqCounter
      let id : JobId := ⟨s.node.nodeId, q⟩
      (∀ c, c ∈ s.jobs → c.id ≠ id)
      ∧ (∀ i, i < n → ∃ c, c ∈ s.jobs ∧ c.id = ⟨s.node.nodeId, nextSeq^[i] s.seqCounter⟩)
      ∧ RunsChange f.first.toNat f.count.toNat runs (fun e => if e = .free then .held id else e) s.map m
      ∧ jobs.Perm
          ({ FreshContext id (.head d) (some p) (f.bidir == 1) f.first.toNat f.count.toNat f.density (some f.route) 0
               (.line (DarkLeg .bank d T (s.probeOn d T))) (if f.bidir = 1 then some (.drop d) else none) with
             hold := some s.node.holdTime } :: s.jobs)
      ∧ exec (.openJob p tag f) s = .next (send d
          (.reserve ⟨id, 1, f.first.toNat, f.count.toNat, f.density, f.bidir.toNat, f.route⟩)
          { Answered p tag (.done [⟨1, jobValue id⟩]) s with map := m, jobs := jobs, seqCounter := nextSeq q })

/-- OPEN that fails a check of R60 or R61 is refused for the first that fails, and changes nothing else. -/
def Obligations.OpenIsRefusedForItsFirstFault : Prop :=
  ∀ (p : Port) (tag : Byte) (f : OpenFields) (s : State), HasRoom p s →
    let refused (r : Reason) : Prop := exec (.openJob p tag f) s = .next (Answered p tag (.refused r) s)
    let bit := f.bidir = 0 ∨ f.bidir = 1
    let ranges := ChannelRun f.first f.count ∧ -2000 ≤ f.density ∧ f.density ≤ 500
    (¬ bit → refused .badRequest)
    ∧ (bit → ¬ ranges → refused .badRange)
    ∧ (bit → ranges → ¬ RouteFits f.route → refused .badRoute)
    ∧ (bit → ranges → RouteFits f.route → s.running = false → refused .nodeStarting)
    ∧ ∀ h0 h1 hops, bit → ranges → RouteFits f.route → s.running = true → f.route = h0 :: h1 :: hops →
        let T := f.density + widthTerm f.count.toNat
        (h0.node ≠ s.node.nodeId → refused .badRoute)
        ∧ ∀ d, h0.node = s.node.nodeId → Degree.ofInt h0.egress = some d →
          ((s.deg d).enabled = false → refused .badRoute)
          ∧ ((s.deg d).enabled = true → (s.link d).up = false → refused .linkDown)
          ∧ (Hears d s → (∀ k, (s.link d).neighbour ≠ some (h1.node, k)) → refused .badRoute)
          ∧ ∀ k, Hears d s → (s.link d).neighbour = some (h1.node, k) →
            (64 ≤ s.jobs.length → refused .noContext)
            ∧ (s.jobs.length < 64 → T < (s.deg d).levelFloor → refused .badLevel)
            ∧ (s.jobs.length < 64 → (s.deg d).levelFloor ≤ T →
                let entries := s.map.readRuns f.first.toNat f.count.toNat
                  ((d, .outgoing) :: if f.bidir = 1 then [(d, .incoming)] else [])
                ((∃ e, e ∈ entries ∧ e.job?.isSome = true) → refused .conflict)
                ∧ ((∀ e, e ∈ entries → e.job? = none) → (∃ e, e ∈ entries ∧ e.isBlocked = true) → refused .blocked)
                ∧ ((∀ e, e ∈ entries → e.job? = none ∧ e.isBlocked = false) → .unknown ∈ entries → refused .nodeStarting))

/-- ABORT (R54, R92): from the owner of a HEAD context before LIVE it is answered DONE and the job fails with cause ABORTED and this
node as origin, FAIL placed downstream; in FAILING it is answered DONE alone; the other cases are refused. -/
def Obligations.AbortFailsTheJob : Prop :=
  ∀ (p : Port) (tag : Byte) (id : JobId) (s : State), HasRoom p s →
    (s.ctx? id = none → exec (.abortJob p tag id) s = .next (Answered p tag (.refused .notFound) s))
    ∧ ∀ c, s.ctx? id = some c →
      ((c.owner ≠ some p ∨ ∀ d, c.place ≠ .head d) →
        exec (.abortJob p tag id) s = .next (Answered p tag (.refused .notOwner) s))
      ∧ ∀ d, c.owner = some p → c.place = .head d →
        (c.phase = .failing → exec (.abortJob p tag id) s = .next (Answered p tag (.done []) s))
        ∧ ((c.phase = .live ∨ c.phase = .teardown) →
          exec (.abortJob p tag id) s = .next (Answered p tag (.refused .wrongPhase) s))
        ∧ (BeforeLive c → ∃ t, exec (.abortJob p tag id) s = .next t
          ∧ JobFails id ⟨.aborted, 0#8, s.node.nodeId⟩ none s t
          ∧ (s.port p).tx ++ [.reply tag (.done [])] <+: (t.port p).tx
          ∧ ((send d (.fail id .aborted 0#8 s.node.nodeId) s).link d).queue <+: (t.link d).queue)

/-- CLOSE (R54, R93, R94): taken in LIVE from the owner, or from any port at a TRANSIT. With a downstream link UP the job enters
TEARDOWN and sends DROP; with it DOWN, and at a TAIL, the ramp-down begins at once; a TAIL notifies CLOSING to its owner after the reply,
and one with no line leg ends the job in the same act; the other cases are refused. -/
def Obligations.CloseTearsDownALiveJob : Prop :=
  ∀ (p : Port) (tag : Byte) (id : JobId) (s : State), HasRoom p s →
    let refused (r : Reason) : Prop := exec (.closeJob p tag id) s = .next (Answered p tag (.refused r) s)
    (s.ctx? id = none → refused .notFound)
    ∧ ∀ c, s.ctx? id = some c →
      ((c.owner ≠ some p ∧ ∀ u e, c.place ≠ .transit u e) → refused .notOwner)
      ∧ ((c.owner = some p ∨ ∃ u e, c.place = .transit u e) →
        (c.phase ≠ .live → refused .wrongPhase)
        ∧ (c.phase = .live →
          (∀ e, c.place.down? = some e → (s.link e).up = true →
            exec (.closeJob p tag id) s = .next (settleAct (Dropping id e (Answered p tag (.done []) s))))
          ∧ (JobInv s → c.teardown = none → c.allAtTarget = true →
            (∀ e, c.place.down? = some e → (s.link e).up = false) → ∃ t, exec (.closeJob p tag id) s = .next t
              ∧ RampsDown id s t ∧ (s.port p).tx ++ [.reply tag (.done [])] <+: (t.port p).tx
              ∧ ∀ u, c.place = .tail u →
                  ((notify p (.closing id) (Answered p tag (.done []) s)).port p).tx <+: (t.port p).tx)
          ∧ ∀ u, c.place = .tail u → c.lineLegs = [] → ∃ m, RunsChange c.first c.count c.entrySet (released id) s.map m
              ∧ exec (.closeJob p tag id) s = .next (settleAct (Freed id (send u (.downTurn id)
                (notifyOwner c.owner (.closed id) (Recorded (plainRecord c .closed s.time)
                  (notifyOwner c.owner (.closing id) { Answered p tag (.done []) s with map := m }))))))))

/-- DROP on the upstream degree of a LIVE context (R93, R94): a TRANSIT passes it on and waits, or ramps down at once over a DOWN
downstream link; a TAIL notifies CLOSING and ramps down, and one with no line leg ends the job in the same act. DOWN_TURN on the
downstream degree of a TEARDOWN context whose line legs are all AT_TARGET, and TEARDOWN_TIMER_EXPIRY in the same case with its timer run
out, begin its ramp-down (R93, R95). -/
def Obligations.TeardownPassesOnAndRampsDown : Prop :=
  (∀ (d : Degree) (h : Header) (id : JobId) (c : Context) (s : State), Hears d s → s.ctx? id = some c → c.phase = .live →
    c.place.up? = some d →
    (∀ e, c.place.down? = some e → (s.link e).up = true →
      exec (.drop d h id) s = .next (settleAct (Dropping id e (Heard d h s))))
    ∧ (JobInv s → c.teardown = none → c.allAtTarget = true → (∀ e, c.place.down? = some e → (s.link e).up = false) →
      ∃ t, exec (.drop d h id) s = .next t ∧ RampsDown id s t
        ∧ ∀ q, c.place = .tail d → c.owner = some q → ((notify q (.closing id) s).port q).tx <+: (t.port q).tx)
    ∧ (c.place = .tail d → c.lineLegs = [] → ∃ m, RunsChange c.first c.count c.entrySet (released id) s.map m
      ∧ exec (.drop d h id) s = .next (settleAct (Freed id (send d (.downTurn id)
          (notifyOwner c.owner (.closed id) (Recorded (plainRecord c .closed s.time)
            (notifyOwner c.owner (.closing id) { Heard d h s with map := m }))))))))
  ∧ ∀ (id : JobId) (c : Context) (s : State), JobInv s → s.ctx? id = some c → c.phase = .teardown → c.allAtTarget = true →
      (∀ d h, Hears d s → c.place.down? = some d → ∃ t, exec (.downTurn d h id) s = .next t ∧ RampsDown id s t)
      ∧ (c.teardown = some 0 → ∃ t, exec (.teardownTimerExpiry id) s = .next t ∧ RampsDown id s t)

/-- ADOPT (R55): of a job with a DOWN owner the requesting port becomes the owner, LOCK_QUERY going to it where the job awaits lock;
from the owner itself the reply alone is given; the other cases are refused. -/
def Obligations.AdoptMovesTheOwner : Prop :=
  ∀ (p : Port) (tag : Byte) (id : JobId) (s : State), HasRoom p s →
    (s.ctx? id = none → exec (.adoptJob p tag id) s = .next (Answered p tag (.refused .notFound) s))
    ∧ ∀ c, s.ctx? id = some c →
      (c.owner = none → exec (.adoptJob p tag id) s = .next (Answered p tag (.refused .notOwner) s))
      ∧ (c.owner = some p → exec (.adoptJob p tag id) s = .next (Answered p tag (.done []) s))
      ∧ ∀ q, c.owner = some q → q ≠ p →
        ((s.port q).up = true → exec (.adoptJob p tag id) s = .next (Answered p tag (.refused .ownerAlive) s))
        ∧ ((s.port q).up = false →
          let owned : State :=
            { Answered p tag (.done []) s with jobs := setJob id (fun b => { b with owner := some p }) s.jobs }
          exec (.adoptJob p tag id) s = .next
            (if c.phase = .awaitLockFwd then notify p (.lockQuery id .fwd) owned
             else if c.phase = .awaitLockRev then notify p (.lockQuery id .rev) owned else owned))

/-- LOCK_REPORT (R54, R80, R81, R83, R85): locked accepts the job at a HEAD and at the TAIL of a unidirectional job and turns a
bidirectional one round at its TAIL; failed fails it with LOCK_FAILED; the other cases are refused. -/
def Obligations.LockReportDecidesTheJob : Prop :=
  ∀ (p : Port) (tag : Byte) (id : JobId) (report : Int) (s : State), HasRoom p s →
    let refused (r : Reason) : Prop := exec (.lockReport p tag id report) s = .next (Answered p tag (.refused r) s)
    (report ≠ 0 → report ≠ 1 → refused .badRequest)
    ∧ ((report = 0 ∨ report = 1) → s.ctx? id = none → refused .notFound)
    ∧ ((report = 0 ∨ report = 1) → ∀ c, s.ctx? id = some c →
      (c.owner ≠ some p → refused .notOwner)
      ∧ (c.owner = some p → c.phase ≠ .awaitLockFwd → c.phase ≠ .awaitLockRev → refused .wrongPhase)
      ∧ (c.owner = some p → (c.phase = .awaitLockFwd ∨ c.phase = .awaitLockRev) →
        (report = 0 → ∃ t, exec (.lockReport p tag id report) s = .next t
          ∧ JobFails id ⟨.lockFailed, 0#8, s.node.nodeId⟩ none s t ∧ (s.port p).tx ++ [.reply tag (.done [])] <+: (t.port p).tx)
        ∧ (report = 1 → ∀ d, (c.place = .head d ∨ (c.place = .tail d ∧ c.bidir = false)) →
          ∃ m, RunsChange c.first c.count c.entrySet (accepted id) s.map m
            ∧ exec (.lockReport p tag id report) s = .next (settleAct (send d (.pathUp id)
                (notify p (.commissioned id) (Accepted c m (Answered p tag (.done []) s))))))
        ∧ (report = 1 → ∀ d, c.place = .tail d → c.bidir = true →
          exec (.lockReport p tag id report) s = .next (settleAct (joinUp ⟨id, .rev⟩ .step
            { Answered p tag (.done []) s with
              jobs := setJob id (fun b => { b with phase := .bringupRev, lock := none }) s.jobs })))))

/-! ### Devices, log and start-up requests -/

/-- CLEAR_FAULT of a degree (R111, R144): from FAULT the actuator returns to OK, announced and followed by the degree's grant pass; in OK
the reply alone; outside 1 to 4 refused. CLEAR_FAULT of the monitor, and PROBE_TIMER_EXPIRY (R140): in FAULT with the probe timer running
(for the expiry: run out) a probe is issued and the timer stops; else no effect but the reply. WATCH_INTERVAL_EXPIRY of a WAITING watch
whose timer has run out (R141): its request joins the queue, and is issued at once when nothing is in flight, the queue is empty and the
monitor not in FAULT. An expiry of a timer that has not run out changes nothing (log 2). -/
def Obligations.FaultsClearAndProbesAndWatchesGo : Prop :=
  (∀ (p : Port) (tag : Byte) (n : Int) (s : State), HasRoom p s →
    (Degree.ofInt n = none → exec (.clearFault p tag n) s = .next (Answered p tag (.refused .badRange) s))
    ∧ ∀ d, Degree.ofInt n = some d →
      ((s.act d).faulted = false → exec (.clearFault p tag n) s = .next (Answered p tag (.done []) s))
      ∧ ((s.act d).faulted = true → exec (.clearFault p tag n) s = .next (settleDegree d (announce .actuator (some d) 0
          { Answered p tag (.done []) s with actuators := s.actuators.set d { s.act d with faulted := false } }))))
  ∧ (∀ (p : Port) (tag : Byte) (s : State),
      let probing : Monitor :=
        { s.monitor with flight := some ⟨⟨.probe, .d1, .incoming, 0, 1⟩, s.monitor.nextIssue, s.node.scanTimeout, false, false⟩,
                         nextIssue := (s.monitor.nextIssue + 1) % 256, probe := none }
      (HasRoom p s →
        (∀ n, s.monitor.state = .fault → s.monitor.probe = some n →
          exec (.clearFaultMonitor p tag) s = .next { Answered p tag (.done []) s with monitor := probing })
        ∧ ((s.monitor.state ≠ .fault ∨ s.monitor.probe = none) →
          exec (.clearFaultMonitor p tag) s = .next (Answered p tag (.done []) s)))
      ∧ (s.monitor.state = .fault → s.monitor.probe = some 0 → s.monitor.flight = none →
          exec .probeTimerExpiry s = .next { s with monitor := probing })
      ∧ (s.monitor.probe ≠ some 0 → exec .probeTimerExpiry s = .next s))
    ∧ (∀ (d : Degree) (s : State), (s.watch d).interval ≠ some 0 → exec (.watchIntervalExpiry d) s = .next s)
    ∧ ∀ (d : Degree) (s : State), (s.watch d).state = .waiting → (s.watch d).interval = some 0 →
      let request : ScanRequest := ⟨.watch d, d, .incoming, 0, 384⟩
      let watches (w : WatchState) := s.watches.set d { s.watch d with state := w, interval := none }
      (s.monitor.flight ≠ none → exec (.watchIntervalExpiry d) s =
          .next { s with monitor := { s.monitor with queue := s.monitor.queue ++ [request] }, watches := watches .queued })
      ∧ (s.monitor.flight = none → s.monitor.queue = [] → s.monitor.state ≠ .fault → exec (.watchIntervalExpiry d) s =
          .next { s with
            monitor := { s.monitor with flight := some ⟨request, s.monitor.nextIssue, s.node.scanTimeout, false, false⟩,
                                        nextIssue := (s.monitor.nextIssue + 1) % 256 }
            watches := watches .inFlight })

/-- READ_COUNTS (R173): the reply carries the five counts, a field each (the model's choice, log 9), and the log index as they stood; NONE
clears nothing, COUNTS the counts, ALL the log as well; any other value is refused. The log keeps the newest 32 records in the order
written, the index at the newest (R169); a step's record is written last in its leg's history, which keeps the newest eight, and carries the
steps taken after it (R51). -/
def Obligations.CountsLogAndHistoryAreKept : Prop :=
  (∀ (p : Port) (tag : Byte) (v : Int) (s : State), HasRoom p s →
    let n := s.results.counts
    let counts : List Item := [⟨1, n.commissioned⟩, ⟨2, n.closed⟩, ⟨3, n.failed⟩, ⟨4, n.aborted⟩, ⟨5, n.refused⟩, ⟨6, s.results.index⟩]
    exec (.readCounts p tag v) s = .next
      (if v = 0 then Answered p tag (.done counts) s
       else if v = 1 then
         { Answered p tag (.done counts) s with results := { s.results with counts := ⟨0, 0, 0, 0, 0⟩ } }
       else if v = 2 then
         { Answered p tag (.done counts) s with results := ⟨List.replicate 32 none, 0, ⟨0, 0, 0, 0, 0⟩⟩ }
       else Answered p tag (.refused .badRequest) s))
  ∧ (∀ rs : List ResultRecord,
      let x := rs.foldl (fun x r => Results.write r x) ⟨List.replicate 32 none, 0, ⟨0, 0, 0, 0, 0⟩⟩
      x.index = (if rs = [] then 0 else (rs.length - 1) % 32 + 1)
      ∧ (∀ (k : Nat) r, rs[k]? = some r → rs.length ≤ k + 32 → x.slots[k % 32]? = some (some r))
      ∧ ∀ k, rs.length ≤ k → k < 32 → x.slots[k]? = some none)
    ∧ ∀ (v : Verdict) (l : LineLeg) (st : StepState), l.step = some st → l.history.length ≤ 8 →
      let n := min (l.stepsTaken + 1) 65535
      let record : StepRecord :=
        ⟨n, st.kind, st.fromLevel, st.requested, st.applied, st.measured, st.deviation, st.worst, v, st.scansUsed⟩
      LineLeg.endStep v l =
        { l with stepsTaken := n, step := none, settle := none, spacing := none,
                 history := if l.history.length < 8 then l.history ++ [record] else l.history.tail ++ [record] }

/-- RESTORE_LIVE that passes the checks of R176 (R35, R177), for each role: the run's UNKNOWN entries become LIVE and a LIVE context with
its legs at the given levels joins the job table; nothing else changes. One that does not fit is refused BAD_REQUEST (R162, R176, R180: a
role or flag without a code; a field or level the role requires absent, or one it forbids present), and one that fails a check of R176 is
refused for the first that fails (in RUNNING: WRONG_PHASE); nothing else changes. -/
def Obligations.RestoreLiveRecreatesTheJob : Prop :=
  (∀ (p : Port) (tag : Byte) (f : RestoreFields) (place : Place) (owner : Option Port) (fwd : Leg) (rev : Option Leg) (s : State),
    HasRoom p s → s.running = false → (f.bidir = 0 ∨ f.bidir = 1) →
    1 ≤ f.job.head → f.job.head ≤ 65534 → 1 ≤ f.job.seq → f.job.seq ≤ 65535 → ChannelRun f.first f.count →
    -2000 ≤ f.density → f.density ≤ 500 → s.jobs.length < 64 → s.ctx? f.job = none →
    let T := f.density + widthTerm f.count.toNat
    let fits (d : Degree) (v : Int) : Prop :=
      v ≠ -2147483648 ∧ (s.deg d).levelFloor ≤ T ∧ (s.deg d).levelFloor ≤ v ∧ v ≤ T
        ∧ v ≤ max (s.deg d).levelFloor (s.deg d).levelCeiling
    let form : Prop :=
      (∃ d v q, place = .head d ∧ f.role = 0 ∧ f.hopIndex = 0 ∧ f.owner = some q ∧ Port.ofInt q = owner ∧ owner ≠ none
        ∧ f.upstream = none ∧ f.downstream = some (d.toNat : Int) ∧ f.level1 = some v ∧ f.level2 = none ∧ fits d v
        ∧ fwd = .line (RestoredLeg .bank d T (s.probeOn d T) v) ∧ rev = if f.bidir = 1 then some (.drop d) else none)
      ∨ (∃ u d v, place = .transit u d ∧ u ≠ d ∧ f.role = 1 ∧ 1 ≤ f.hopIndex ∧ f.hopIndex ≤ 15 ∧ f.owner = none ∧ owner = none
        ∧ f.upstream = some (u.toNat : Int) ∧ f.downstream = some (d.toNat : Int) ∧ f.level1 = some v ∧ fits d v
        ∧ fwd = .line (RestoredLeg (.line u) d T (s.probeOn d T) v)
        ∧ ((f.bidir = 0 ∧ f.level2 = none ∧ rev = none) ∨ ∃ w, f.bidir = 1 ∧ f.level2 = some w ∧ fits u w
            ∧ rev = some (.line (RestoredLeg (.line d) u T (s.probeOn u T) w))))
      ∨ (∃ u q, place = .tail u ∧ f.role = 2 ∧ 1 ≤ f.hopIndex ∧ f.hopIndex ≤ 15 ∧ f.owner = some q ∧ Port.ofInt q = owner
        ∧ owner ≠ none ∧ f.upstream = some (u.toNat : Int) ∧ f.downstream = none ∧ f.level2 = none ∧ fwd = .drop u
        ∧ ((f.bidir = 0 ∧ f.level1 = none ∧ rev = none) ∨ ∃ w, f.bidir = 1 ∧ f.level1 = some w ∧ fits u w
            ∧ rev = some (.line (RestoredLeg .bank u T (s.probeOn u T) w))))
    let c : Context :=
      { FreshContext f.job place owner (f.bidir == 1) f.first.toNat f.count.toNat f.density none f.hopIndex.toNat fwd rev with
        phase := .live, reached := true }
    form → (∀ x, x ∈ c.entrySet → ∀ k, c.first ≤ k → k < c.first + c.count → s.entry x.1 x.2 k = some .unknown) →
    (∃ m jobs, RunsChange c.first c.count c.entrySet (fun e => if e = .unknown then .live f.job else e) s.map m
      ∧ jobs.Perm (c :: s.jobs)
      ∧ exec (.restoreLive p tag f) s = .next { Answered p tag (.done []) s with map := m, jobs := jobs })
    ∧ exec (.restoreLive p tag f) { s with running := true } =
        .next (Answered p tag (.refused .wrongPhase) { s with running := true }))
  ∧ ∀ (p : Port) (tag : Byte) (f : RestoreFields) (s : State), HasRoom p s →
      let refused (r : Reason) : Prop := exec (.restoreLive p tag f) s = .next (Answered p tag (.refused r) s)
      let levels : Nat := if f.role = 0 then 1 else if f.role = 1 then 1 + f.bidir.toNat else f.bidir.toNat
      let fits : Prop := 0 ≤ f.role ∧ f.role ≤ 2 ∧ (f.bidir = 0 ∨ f.bidir = 1) ∧ (f.owner.isSome = true ↔ f.role ≠ 1)
        ∧ (f.upstream.isSome = true ↔ f.role ≠ 0) ∧ (f.downstream.isSome = true ↔ f.role ≠ 2)
        ∧ (f.level1.isSome = true ↔ 1 ≤ levels) ∧ (f.level2.isSome = true ↔ levels = 2)
      let ranges : Prop := 1 ≤ f.job.head ∧ f.job.head ≤ 65534 ∧ 1 ≤ f.job.seq ∧ f.job.seq ≤ 65535
        ∧ (f.role = 0 → f.hopIndex = 0) ∧ (f.role ≠ 0 → 1 ≤ f.hopIndex ∧ f.hopIndex ≤ 15)
        ∧ (∀ q, f.owner = some q → 1 ≤ q ∧ q ≤ 8) ∧ (∀ d, f.upstream = some d → 1 ≤ d ∧ d ≤ 4)
        ∧ (∀ d, f.downstream = some d → 1 ≤ d ∧ d ≤ 4) ∧ (f.role = 1 → f.upstream ≠ f.downstream)
        ∧ ChannelRun f.first f.count ∧ -2000 ≤ f.density ∧ f.density ≤ 500
      let T := f.density + widthTerm f.count.toNat
      let levelOf (d : Degree) (v : Int) : Prop :=
        (f.downstream = some (d.toNat : Int) ∧ f.level1 = some v)
          ∨ (f.bidir = 1 ∧ f.upstream = some (d.toNat : Int) ∧ (if f.role = 1 then f.level2 else f.level1) = some v)
      let good (d : Degree) (v : Int) : Prop :=
        v ≠ -2147483648 ∧ (s.deg d).levelFloor ≤ T ∧ (s.deg d).levelFloor ≤ v ∧ v ≤ T
          ∧ v ≤ max (s.deg d).levelFloor (s.deg d).levelCeiling
      let inSet (d : Degree) (dir : MapDir) : Prop :=
        (f.upstream = some (d.toNat : Int) ∧ (dir = .incoming ∨ f.bidir = 1))
          ∨ (f.downstream = some (d.toNat : Int) ∧ (dir = .outgoing ∨ f.bidir = 1))
      (¬ fits → refused .badRequest)
      ∧ (fits → s.running = true → refused .wrongPhase)
      ∧ (fits → s.running = false → ¬ ranges → refused .badRange)
      ∧ (fits → s.running = false → ranges → (∃ d v, levelOf d v ∧ ¬ good d v) → refused .badLevel)
      ∧ (fits → s.running = false → ranges → (∀ d v, levelOf d v → good d v) →
        (64 ≤ s.jobs.length → refused .noContext)
        ∧ (s.jobs.length < 64 → s.ctx? f.job ≠ none → refused .conflict)
        ∧ (s.jobs.length < 64 → s.ctx? f.job = none →
          (∃ d dir k e, inSet d dir ∧ f.first.toNat ≤ k ∧ k < f.first.toNat + f.count.toNat ∧ s.entry d dir k = some e ∧ e ≠ .unknown) →
          refused .conflict))

/-- END_RESTORE (R36, R178): in STARTING every UNKNOWN entry becomes FREE, the node becomes RUNNING and the reply carries the number of
contexts in use; in RUNNING it is refused WRONG_PHASE and changes nothing else. No command but RESET makes an entry UNKNOWN again. -/
def Obligations.EndRestoreStartsTheNode : Prop :=
  (∀ (p : Port) (tag : Byte) (s : State), HasRoom p s →
    (s.running = true → exec (.endRestore p tag) s = .next (Answered p tag (.refused .wrongPhase) s))
    ∧ (s.running = false → ∃ m : SpectrumMap,
      (∀ d dir, m.table d dir = (s.map.table d dir).map (fun e => if e = .unknown then .free else e))
      ∧ exec (.endRestore p tag) s =
          .next { Answered p tag (.done [⟨1, s.jobs.length⟩]) s with map := m, running := true }))
  ∧ ∀ (c : Instr) (s t : State), c ≠ .reset → exec c s = .next t → ∀ d dir (k : Nat) e, s.entry d dir k = some e →
      e ≠ .unknown → t.entry d dir k ≠ some .unknown

/-! ### Supervisory links -/

/-- HELLO_TIMER_EXPIRY and FRAMER_SEND_REQUEST on an enabled degree (R148, R149): when the HELLO timer has run out (else nothing, log 2) a
HELLO becomes pending and the timer starts anew; the framer takes the pending HELLO first, its node id and flags read and the flags
cleared in that act, else the head of the queue. Placing a path message and a notice (R149, R161, R168): a message goes to the end of an
enabled UP degree's queue below 32 and is counted as dropped at 32, a notice to the end of an UP port's queue below 24 and is counted as
dropped above; else nothing. -/
def Obligations.MessagesAndNoticesAreQueuedAndSent : Prop :=
  (∀ (d : Degree) (s : State), (s.deg d).enabled = true →
    let l := s.link d
    exec (.helloTimerExpiry d) s =
      .next (if l.helloTimer = some 0 then s.withLink d { l with pendingHello := true, helloTimer := some 1000 } else s)
    ∧ (l.pendingHello = true → exec (.framerSendRequest d) s = .next (s.withLink d
        { l with pendingHello := false, localFlags := ⟨false, false, false, false⟩,
                 handed := helloBytes s.node.nodeId d.toNat l.localFlags }))
    ∧ (l.pendingHello = false → ∀ m rest, l.queue = m :: rest →
        exec (.framerSendRequest d) s = .next (s.withLink d { l with queue := rest, handed := m.bytes }))
    ∧ (l.pendingHello = false → l.queue = [] → exec (.framerSendRequest d) s = .next s))
  ∧ (∀ (d : Degree) (m : Message) (s : State),
      (Hears d s → (s.link d).queue.length < 32 →
        send d m s = s.withLink d { s.link d with queue := (s.link d).queue ++ [m] })
      ∧ (Hears d s → 32 ≤ (s.link d).queue.length → send d m s = s.withLink d
          { s.link d with counts := { (s.link d).counts with dropped := min ((s.link d).counts.dropped + 1) 65535 } })
      ∧ (¬ Hears d s → send d m s = s))
    ∧ ∀ (p : Port) (n : Notice) (s : State),
      ((s.port p).up = true → (s.port p).tx.length < 24 →
        notify p n s = s.withPort p { s.port p with tx := (s.port p).tx ++ [.notice n] })
      ∧ ((s.port p).up = true → 24 ≤ (s.port p).tx.length →
        notify p n s = s.withPort p { s.port p with noticesDropped := min ((s.port p).noticesDropped + 1) 65535 })
      ∧ ((s.port p).up = false → notify p n s = s)
      ∧ ∀ (k : EventKind) (d : Option Degree) (code : Nat), let t := announce k d code s
        t = { s with ports := t.ports }
        ∧ t.port p = (notify p (.degreeEvent k d code s.time) s).port p
        ∧ t.port p = takeNotice (.degreeEvent k d code s.time) (s.port p)

/-- HELLO on an enabled degree (R152 to R154): a sender outside the ranges is body bad; on a DOWN link it raises the link, announced; on an
UP link from the neighbour it renews the link; from another node the link goes DOWN, its queue dropped, the jobs take the loss one after
another (R72 to R74, R97, R98), and the link stands UP to the new neighbour, its queue empty. DOWN and then UP are announced to every UP
port after all the notices of the jobs. -/
def Obligations.HelloRaisesOrRenewsTheLink : Prop :=
  ∀ (d : Degree) (h : Header) (node degree : Nat) (flags : ErrorFlags) (s : State), (s.deg d).enabled = true →
    let l := Noted h (s.link d)
    let raised : Link :=
      { l with up := true, neighbour := some (node, degree), farFlags := flags, timeout := some s.node.linkTimeout }
    (¬ (1 ≤ node ∧ node ≤ 65534 ∧ 1 ≤ degree ∧ degree ≤ 4) →
      exec (.hello d h node degree flags) s = .next (s.withLink d
        { l with counts := { l.counts with bodyBad := min (l.counts.bodyBad + 1) 65535 },
                 localFlags := { l.localFlags with bodyBad := true } }))
    ∧ (1 ≤ node → node ≤ 65534 → 1 ≤ degree → degree ≤ 4 →
      ((s.link d).up = false →
        exec (.hello d h node degree flags) s = .next (announce .link (some d) 1 (s.withLink d raised)))
      ∧ (∀ k, (s.link d).up = true → (s.link d).neighbour = some (node, k) →
        exec (.hello d h node degree flags) s = .next (s.withLink d raised))
      ∧ ((s.link d).up = true → (∀ k, (s.link d).neighbour ≠ some (node, k)) → JobInv s →
        ∃ t u, exec (.hello d h node degree flags) s = .next t ∧ t.link d = { raised with queue := [] } ∧ LossTaken d s t
          ∧ JobsTakeLoss d (s.usersOf d) (s.withLink d { l with up := false, timeout := none, neighbour := none, queue := [] }) u
          ∧ t = settleAct (announce .link (some d) 1 ((announce .link (some d) 0 u).withLink d { raised with queue := [] }))
          ∧ ∀ q, ∃ v : SlotLink, v.up = (s.port q).up ∧ (s.port q).tx <+: v.tx ∧ t.port q =
              takeNotice (.degreeEvent .link (some d) 1 s.time) (takeNotice (.degreeEvent .link (some d) 0 s.time) v)))

/-- LINK_TIMEOUT_EXPIRY on an UP link whose timer has run out (R72 to R74, R97, R98, R155): the link is DOWN with no neighbour, timer or
queued message, the jobs that use the degree take the loss one after another in ascending job id, each by its phase, and the change is
announced to every UP port after all their notices. Where a message taken first has restarted the timer, the expiry does not happen (R155).
-/
def Obligations.LinkTimeoutTakesTheLinkDown : Prop :=
  (∀ (d : Degree) (s : State), (s.link d).timeout ≠ some 0 → exec (.linkTimeoutExpiry d) s = .next s)
  ∧ ∀ (d : Degree) (s : State), (s.link d).up = true → (s.link d).timeout = some 0 → JobInv s →
    let lost : Link := { s.link d with up := false, timeout := none, neighbour := none, queue := [] }
    ∃ t u, exec (.linkTimeoutExpiry d) s = .next t ∧ t.link d = lost ∧ LossTaken d s t
      ∧ JobsTakeLoss d (s.usersOf d) (s.withLink d lost) u ∧ t = settleAct (announce .link (some d) 0 u)
      ∧ (∀ e, e ≠ d → (s.link e).queue <+: (t.link e).queue)
      ∧ ∀ q, ∃ u : SlotLink, t.port q = takeNotice (.degreeEvent .link (some d) 0 s.time) u ∧ u.up = (s.port q).up
          ∧ (s.port q).tx <+: u.tx

/-- A message discarded at a link unit: HEADER_UNCORRECTABLE, UNKNOWN_KIND and BODY_BAD on an enabled degree are counted, saturating, and
flagged after the header is noted (R150 to R152); a path message on a DOWN link is discarded after its header is noted (R153); on a
disabled degree every message is discarded unread (R147). -/
def Obligations.DiscardedMessagesAreCounted : Prop :=
  ∀ (d : Degree) (h : Header) (s : State),
    let l := s.link d
    let n := Noted h l
    ((s.deg d).enabled = true →
      exec (.headerUncorrectable d) s = .next (s.withLink d
        { l with counts := { l.counts with uncorrectable := min (l.counts.uncorrectable + 1) 65535 },
                 localFlags := { l.localFlags with uncorrectable := true } })
      ∧ exec (.unknownKind d h) s = .next (s.withLink d
        { n with counts := { n.counts with unknownKind := min (n.counts.unknownKind + 1) 65535 },
                 localFlags := { n.localFlags with unknownKind := true } })
      ∧ exec (.bodyBad d h) s = .next (s.withLink d
        { n with counts := { n.counts with bodyBad := min (n.counts.bodyBad + 1) 65535 },
                 localFlags := { n.localFlags with bodyBad := true } })
      ∧ ((s.link d).up = false → ∀ c, PathMessage d h c → exec c s = .next (s.withLink d n)))
    ∧ ((s.deg d).enabled = false → exec (.headerUncorrectable d) s = .next s ∧ exec (.unknownKind d h) s = .next s
        ∧ exec (.bodyBad d h) s = .next s ∧ (∀ node degree flags, exec (.hello d h node degree flags) s = .next s)
        ∧ ∀ c, PathMessage d h c → exec c s = .next s)

/-! ### Reservation along the path -/

/-- RESERVE that passes the checks of R63 at a TRANSIT (R64) and at the TAIL (R65): the run's FREE entries become HELD or BOOKED, the
context joins the job table in HOLDING or BOOKED with its timer, and RESERVE goes on or RESERVE_OK back; nothing else changes. -/
def Obligations.ReserveTakesTheRun : Prop :=
  ∀ (d : Degree) (h : Header) (f : ReserveFields) (hop : RawHop) (s : State), Hears d s → s.running = true →
    RouteFits f.hops → 1 ≤ f.hopIndex → f.hops[f.hopIndex]? = some hop → hop.node = s.node.nodeId →
    ChannelRun f.first f.count → -2000 ≤ f.density → f.density ≤ 500 → (f.bidir = 0 ∨ f.bidir = 1) →
    s.jobs.length < 64 → s.ctx? f.job = none →
    let T := f.density + widthTerm f.count
    let dark (i : Point) (e : Degree) : Leg := .line (DarkLeg i e T (s.probeOn e T))
    let joins (place : Place) (owner : Option Port) (fwd rev : Leg) : Context :=
      FreshContext f.job place owner (f.bidir == 1) f.first f.count f.density none f.hopIndex fwd
        (if f.bidir = 1 then some rev else none)
    (∀ e next k, Degree.ofInt hop.egress = some e → e ≠ d → Hears e s → f.hops[f.hopIndex + 1]? = some next →
      (s.link e).neighbour = some (next.node, k) → (s.deg e).levelFloor ≤ T → (f.bidir = 1 → (s.deg d).levelFloor ≤ T) →
      let runs : List (Degree × MapDir) :=
        [(d, .incoming), (e, .outgoing)] ++ if f.bidir = 1 then [(e, .incoming), (d, .outgoing)] else []
      RunFree s runs f.first f.count → ∃ m jobs,
        RunsChange f.first f.count runs (fun x => if x = .free then .held f.job else x) s.map m
        ∧ jobs.Perm ({ joins (.transit d e) none (dark (.line d) e) (dark (.line e) d) with
            hold := some s.node.holdTime } :: s.jobs)
        ∧ exec (.reserve d h f) s = .next (send e (.reserve { f with hopIndex := f.hopIndex + 1 })
            { Heard d h s with map := m, jobs := jobs }))
    ∧ (hop.egress = 0 → (f.bidir = 1 → (s.deg d).levelFloor ≤ T) →
      let runs : List (Degree × MapDir) := (d, .incoming) :: if f.bidir = 1 then [(d, .outgoing)] else []
      RunFree s runs f.first f.count → ∃ m jobs,
        RunsChange f.first f.count runs (fun x => if x = .free then .booked f.job else x) s.map m
        ∧ jobs.Perm ({ joins (.tail d) (Port.ofInt hop.drop) (.drop d) (dark .bank d) with
            phase := .booked, path := some s.node.pathLimit, reached := true } :: s.jobs)
        ∧ exec (.reserve d h f) s = .next (send d (.reserveOk f.job) { Heard d h s with map := m, jobs := jobs }))

/-- RESERVE that fails a check of R63 is answered by REFUSE with the cause of the first that fails, and changes nothing else. -/
def Obligations.ReserveIsRefusedForItsFirstFault : Prop :=
  ∀ (d : Degree) (h : Header) (f : ReserveFields) (s : State), Hears d s →
    let refused (c : Cause) : Prop := exec (.reserve d h f) s = .next (send d (.refuse f.job c s.node.nodeId) (Heard d h s))
    let T := f.density + widthTerm f.count
    let form := RouteFits f.hops ∧ 1 ≤ f.hopIndex ∧ f.hopIndex < f.hops.length ∧ ChannelRun f.first f.count ∧
      -2000 ≤ f.density ∧ f.density ≤ 500 ∧ f.bidir ≤ 1 ∧ ∃ hop, f.hops[f.hopIndex]? = some hop ∧ hop.node = s.node.nodeId
    (s.running = false → refused .nodeStarting)
    ∧ (s.running = true → ¬ form → refused .badRoute)
    ∧ ∀ hop, s.running = true → form → f.hops[f.hopIndex]? = some hop →
      (∀ e, Degree.ofInt hop.egress = some e →
        ((e = d ∨ (s.deg e).enabled = false) → refused .badRoute)
        ∧ (e ≠ d → (s.deg e).enabled = true → (s.link e).up = false → refused .linkDown)
        ∧ ∀ next, f.hops[f.hopIndex + 1]? = some next → e ≠ d → Hears e s →
          (∀ k, (s.link e).neighbour ≠ some (next.node, k)) → refused .badRoute)
      ∧ ((hop.egress = 0 ∨ ∃ e next k, Degree.ofInt hop.egress = some e ∧ e ≠ d ∧ Hears e s ∧
            f.hops[f.hopIndex + 1]? = some next ∧ (s.link e).neighbour = some (next.node, k)) →
        (64 ≤ s.jobs.length → refused .noContext)
        ∧ (s.jobs.length < 64 → s.ctx? f.job ≠ none → refused .duplicate)
        ∧ (s.jobs.length < 64 → s.ctx? f.job = none →
          ((∃ e, (Degree.ofInt hop.egress = some e ∨ (f.bidir = 1 ∧ e = d)) ∧ T < (s.deg e).levelFloor) → refused .badLevel)
          ∧ ((∀ e, (Degree.ofInt hop.egress = some e ∨ (f.bidir = 1 ∧ e = d)) → (s.deg e).levelFloor ≤ T) →
            ∀ runs : List (Degree × MapDir),
              ((hop.egress = 0 ∧ runs = (d, .incoming) :: if f.bidir = 1 then [(d, .outgoing)] else [])
                ∨ ∃ e, Degree.ofInt hop.egress = some e ∧ runs = [(d, .incoming), (e, .outgoing)] ++
                    if f.bidir = 1 then [(e, .incoming), (d, .outgoing)] else []) →
              let entries := s.map.readRuns f.first f.count runs
              ((∃ x, x ∈ entries ∧ x.job?.isSome = true) → refused .conflict)
              ∧ ((∀ x, x ∈ entries → x.job? = none) → (∃ x, x ∈ entries ∧ x.isBlocked = true) → refused .blocked)
              ∧ ((∀ x, x ∈ entries → x.job? = none ∧ x.isBlocked = false) → .unknown ∈ entries → refused .nodeStarting))))

/-- RESERVE_OK (R68, R69, R76): that finds no job, answered with RELEASE; on the downstream degree of a HOLDING context it confirms the
reservation, a TRANSIT passing it on and a HEAD notifying RESERVED and beginning the forward ramp; else discarded. -/
def Obligations.ReserveOkConfirmsOrIsReleased : Prop :=
  ∀ (d : Degree) (h : Header) (id : JobId) (s : State), Hears d s →
    (s.ctx? id = none → exec (.reserveOk d h id) s = .next (send d (.release id) (Heard d h s)))
    ∧ ∀ c, s.ctx? id = some c →
      ((c.phase ≠ .holding ∨ c.place.down? ≠ some d) → exec (.reserveOk d h id) s = .next (Heard d h s))
      ∧ (c.phase = .holding → ∃ m, RunsChange c.first c.count c.entrySet (confirmed id) s.map m ∧
        (∀ u, c.place = .transit u d → exec (.reserveOk d h id) s = .next (settleAct (send u (.reserveOk id)
          { Heard d h s with
            map := m
            jobs := setJob id (fun b =>
              { b with phase := .booked, hold := none, path := some s.node.pathLimit, reached := true }) s.jobs })))
        ∧ (c.place = .head d → exec (.reserveOk d h id) s = .next (settleAct (joinUp ⟨id, .fwd⟩ .step
          { notifyOwner c.owner (.reserved id) (Heard d h s) with
            map := m
            jobs := setJob id (fun b =>
              { b with phase := .bringupFwd, hold := none, path := some s.node.pathLimit, reached := true }) s.jobs }))))

/-- REFUSE on the downstream degree of a HOLDING context (R70, R74), and RELEASE on the upstream degree of a HOLDING or BOOKED one (R71):
the entries are freed and the context with them. A TRANSIT passes the message on as received; a HEAD notifies REFUSED and records it; a
release from BOOKED leaves a record of cause RELEASED. A REFUSE carries no verdict; that its record holds verdict 0 (NONE) whatever the
cause, RETRIES_EXHAUSTED among them, is the model's choice (log 15). HOLD_TIMER_EXPIRY in HOLDING, the timer run out (R67, R74): the entries
are freed, RELEASE goes downstream, and the reservation ends as if refused EXPIRED by this node. -/
def Obligations.ReservationsEndAndFreeTheirRun : Prop :=
  (∀ (d : Degree) (h : Header) (id : JobId) (c : Context) (s : State), Hears d s → s.ctx? id = some c →
    ∃ m, RunsChange c.first c.count c.entrySet (released id) s.map m ∧
    (c.phase = .holding → ∀ cause node,
      (∀ u, c.place = .transit u d → exec (.refuse d h id cause node) s =
          .next (Freed id (send u (.refuse id cause node) { Heard d h s with map := m })))
      ∧ (c.place = .head d → exec (.refuse d h id cause node) s =
          .next (Freed id (Recorded ⟨id, 0, .refused, some ⟨cause, 0#8, node⟩, s.time, [], none, []⟩
            (notifyOwner c.owner (.refused id cause node) { Heard d h s with map := m })))))
    ∧ (c.place.up? = some d → (c.phase = .holding ∨ c.phase = .booked) → c.failSteps = [] →
      let kept : State :=
        if c.phase = .booked then
          Recorded { plainRecord c .failed s.time with failure := some ⟨.released, 0#8, s.node.nodeId⟩ }
            { Heard d h s with map := m }
        else { Heard d h s with map := m }
      exec (.release d h id) s = .next (Freed id (match c.place.down? with
        | some e => send e (.release id) kept
        | none => kept))))
  ∧ ∀ (id : JobId) (c : Context) (s : State), s.ctx? id = some c → c.phase = .holding → c.hold = some 0 →
      ∃ m, RunsChange c.first c.count c.entrySet (released id) s.map m
      ∧ (∀ u d, c.place = .transit u d → exec (.holdTimerExpiry id) s =
          .next (Freed id (send u (.refuse id .expired s.node.nodeId) (send d (.release id) { s with map := m }))))
      ∧ (∀ d, c.place = .head d → exec (.holdTimerExpiry id) s =
          .next (Freed id (Recorded ⟨id, 0, .refused, some ⟨.expired, 0#8, s.node.nodeId⟩, s.time, [], none, []⟩
            (notifyOwner c.owner (.refused id .expired s.node.nodeId) (send d (.release id) { s with map := m })))))

/-! ### Bring-up, turnaround, acceptance, failure -/

/-- RAMP_TURN (R78, R79, R84): forward on the upstream degree of a BOOKED context, reverse on the downstream degree of a bidirectional
one in BRINGUP_FWD with its forward line leg AT_TARGET; the ingress run is lit, a TRANSIT begins the ramp of the leg of that
direction, the TAIL or the HEAD starts the lock timer and sends LOCK_QUERY. -/
def Obligations.RampTurnBeginsTheNextRamp : Prop :=
  ∀ (d : Degree) (h : Header) (id : JobId) (c : Context) (s : State), Hears d s → s.ctx? id = some c →
    ∃ m, RunsChange c.first c.count [(d, .incoming)] (lit id) s.map m ∧
      let turned (dir : Dir) (phase : Phase) : Host.Outcome State Fault Refusal :=
        .next (settleAct (joinUp ⟨id, dir⟩ .step
          { Heard d h s with map := m, jobs := setJob id (fun b => { b with phase := phase }) s.jobs }))
      let waits (dir : Dir) (phase : Phase) : Host.Outcome State Fault Refusal :=
        .next (notifyOwner c.owner (.lockQuery id dir)
          { Heard d h s with
            map := m, jobs := setJob id (fun b => { b with phase := phase, lock := some s.node.lockWait }) s.jobs })
      (c.phase = .booked →
        (∀ e, c.place = .transit d e → exec (.rampTurn d h id 0) s = turned .fwd .bringupFwd)
        ∧ (c.place = .tail d → exec (.rampTurn d h id 0) s = waits .fwd .awaitLockFwd))
      ∧ (c.phase = .bringupFwd → c.bidir = true → (∃ l, c.fwd = .line l ∧ l.state = .atTarget) →
        (∀ u, c.place = .transit u d → exec (.rampTurn d h id 1) s = turned .rev .bringupRev)
        ∧ (c.place = .head d → exec (.rampTurn d h id 1) s = waits .rev .awaitLockRev))

/-- PATH_UP in the rows of R82 with every line leg AT_TARGET accepts the job: entries LIVE, phase LIVE, COMMISSIONED recorded, and PATH_UP
passed on or COMMISSIONED notified. -/
def Obligations.PathUpAcceptsTheJob : Prop :=
  ∀ (d : Degree) (h : Header) (id : JobId) (c : Context) (s : State), Hears d s → s.ctx? id = some c → c.allAtTarget = true →
    ∃ m, RunsChange c.first c.count c.entrySet (accepted id) s.map m ∧
      let result := exec (.pathUp d h id) s
      let taken := Accepted c m (Heard d h s)
      (c.bidir = false → c.phase = .bringupFwd →
        (∀ u, c.place = .transit u d → result = .next (send u (.pathUp id) taken))
        ∧ (c.place = .head d → result = .next (notifyOwner c.owner (.commissioned id) taken)))
      ∧ (c.bidir = true → c.phase = .bringupRev →
        (∀ e, c.place = .transit d e → result = .next (send e (.pathUp id) taken))
        ∧ (c.place = .tail d → result = .next (notifyOwner c.owner (.commissioned id) taken)))

/-- FAIL on a degree of a job before LIVE (R88, R90): the job fails with the cause and origin carried, and FAIL is placed on its other
degree. The verdict byte is R87's for RETRIES_EXHAUSTED; that one other than 0 beside another cause, which R183 does not send, is kept
and passed on as received is the model's choice (log 15). -/
def Obligations.FailIsTakenAndPassedOn : Prop :=
  ∀ (d : Degree) (h : Header) (id : JobId) (cause : Cause) (verdict : Byte) (origin : Nat) (c : Context) (s : State),
    Hears d s → s.ctx? id = some c → c.uses d = true → BeforeLive c →
    ∃ t, exec (.fail d h id cause verdict origin) s = .next t ∧ JobFails id ⟨cause, verdict, origin⟩ none s t
      ∧ ∀ e, e ≠ d → c.uses e = true → ((send e (.fail id cause verdict origin) s).link e).queue <+: (t.link e).queue

/-- What a path message finds no job, phase, degree or direction for is discarded: the link has heard it and nothing else changes (R70,
R71, R75, R82, R84, R90, R91, R93, R95, R96, R184). A FAIL finds the job LIVE, in TEARDOWN or FAILING, or arrives on a degree that is not
the job's; a PATH_UP fits no row of R82 or finds a line leg not AT_TARGET; a RAMP_TURN(REV) finds the forward leg not AT_TARGET; a
DOWN_TURN finds the ramp-down begun, or arrives at a TAIL, which has no downstream degree. -/
def Obligations.StrayPathMessagesAreDiscarded : Prop :=
  ∀ (d : Degree) (h : Header) (id : JobId) (s : State), Hears d s →
    let discarded : Host.Outcome State Fault Refusal := .next (Heard d h s)
    (s.ctx? id = none →
      (∀ cause node, exec (.refuse d h id cause node) s = discarded) ∧ exec (.release d h id) s = discarded
      ∧ (∀ n, exec (.rampTurn d h id n) s = discarded) ∧ exec (.pathUp d h id) s = discarded
      ∧ (∀ cause v n, exec (.fail d h id cause v n) s = discarded) ∧ exec (.drop d h id) s = discarded
      ∧ exec (.downTurn d h id) s = discarded)
    ∧ ∀ c, s.ctx? id = some c →
      ((c.phase ≠ .holding ∨ c.place.down? ≠ some d) → ∀ cause node, exec (.refuse d h id cause node) s = discarded)
      ∧ (((c.phase ≠ .holding ∧ c.phase ≠ .booked) ∨ c.place.up? ≠ some d) → exec (.release d h id) s = discarded)
      ∧ ((c.phase ≠ .booked ∨ c.place.up? ≠ some d) → exec (.rampTurn d h id 0) s = discarded)
      ∧ ((c.bidir = false ∨ c.phase ≠ .bringupFwd ∨ c.place.down? ≠ some d ∨ ∀ l, c.fwd = .line l → l.state ≠ .atTarget) →
          exec (.rampTurn d h id 1) s = discarded)
      ∧ (∀ n, 2 ≤ n → exec (.rampTurn d h id n) s = discarded)
      ∧ ((c.allAtTarget = false ∨ ¬ ((c.bidir = false ∧ c.phase = .bringupFwd ∧ c.place.down? = some d)
            ∨ (c.bidir = true ∧ c.phase = .bringupRev ∧ c.place.up? = some d))) → exec (.pathUp d h id) s = discarded)
      ∧ ((c.uses d = false ∨ c.phase = .live ∨ c.phase = .teardown ∨ c.phase = .failing) →
          ∀ cause v n, exec (.fail d h id cause v n) s = discarded)
      ∧ ((c.phase ≠ .live ∨ c.place.up? ≠ some d) → exec (.drop d h id) s = discarded)
      ∧ ((c.phase ≠ .teardown ∨ c.place.down? ≠ some d ∨ c.allAtTarget = false ∨ ∃ u, c.place = .tail u) →
          exec (.downTurn d h id) s = discarded)

/-- PATH_TIMER_EXPIRY, LOCK_TIMER_EXPIRY, DARK_TIMER_EXPIRY and HEADROOM_TIMER_EXPIRY, each with its timer run out before LIVE, fail the
job with their cause and this node as origin (R80, R86, R87, R106, R133), FAIL placed on its degrees; the leg whose dark or headroom
timer it was is the fail leg, with the newest four records of its history (R172). -/
def Obligations.FailingTimersFailTheJob : Prop :=
  ∀ (id : JobId) (c : Context) (s : State), JobInv s → s.ctx? id = some c → BeforeLive c →
    let fails (i : Instr) (cause : Cause) (leg : Option (Dir × List StepRecord)) : Prop := ∃ t, exec i s = .next t
      ∧ JobFails id ⟨cause, 0#8, s.node.nodeId⟩ leg s t
      ∧ ∀ e, c.uses e = true → ((send e (.fail id cause 0#8 s.node.nodeId) s).link e).queue <+: (t.link e).queue
    (c.path = some 0 → fails (.pathTimerExpiry id) .pathTimeout none)
    ∧ ((c.phase = .awaitLockFwd ∨ c.phase = .awaitLockRev) → c.lock = some 0 → fails (.lockTimerExpiry id) .lockTimeout none)
    ∧ (∀ dir l, c.leg? dir = some (.line l) → l.state = .frozen → l.darkTimer = some 0 →
        fails (.darkTimerExpiry id dir) .ingressDark (some (dir, l.history)))
    ∧ (∀ dir l, c.leg? dir = some (.line l) → l.state = .headroomWait → l.headroom = some 0 →
        fails (.headroomTimerExpiry id dir) .noHeadroom (some (dir, l.history)))

/-- A context in FAILING is freed when its last line leg is OFF, in that act (R89, R171, R172), with the FAILED notice and, where the job
had reached BOOKED here, a record: ABORTED for that cause, else FAILED, with cause and origin, the legs as they then stand at level OFF,
and for FAILED the fail leg with its copied steps. A FAIL frees a job whose line legs are all DARK at once, its entries FREE. The settle
of the down-step that turned the last leg OFF frees a FAILING job, and a TEARDOWN job with the record and notice CLOSED and DOWN_TURN
upstream (R94, R95). With it the entries go (R30): of the ingress and egress runs of a FAILING job's leg, of the whole entry set of a
TEARDOWN job, those that named the job are FREE and a BLOCKED one, abandoned earlier, stays; no entry of the map names the job then. -/
def Obligations.EndedJobsLeaveTheirRecord : Prop :=
  (∀ (d : Degree) (h : Header) (id : JobId) (cause : Cause) (verdict : Byte) (origin : Nat) (c : Context) (s : State),
    Sound s → Agreed s → Hears d s → s.ctx? id = some c → c.uses d = true → BeforeLive c →
    (∀ x, x ∈ c.lineLegs → x.2.state = .dark) →
    let f : Failure := ⟨cause, verdict, origin⟩
    ∃ t, exec (.fail d h id cause verdict origin) s = .next t ∧ (∀ b, b ∈ t.jobs → b.id ≠ id)
      ∧ t.results = (if c.reached = true then
            s.results.write { plainRecord c (if cause = .aborted then .aborted else .failed) s.time with failure := some f }
          else s.results)
      ∧ (∀ q, c.owner = some q → ((notify q (.failed id f) s).port q).tx <+: (t.port q).tx)
      ∧ ((∀ x, x ∈ c.lineLegs → (s.act x.2.egress).faulted = false) → ∀ x, x ∈ c.entrySet → ∀ k e, c.first ≤ k →
          k < c.first + c.count → s.entry x.1 x.2 k = some e → e.job? = some id → t.entry x.1 x.2 k = some .free))
  ∧ ∀ (id : JobId) (dir : Dir) (c : Context) (l : LineLeg) (st : StepState) (s : State), Sound s → Agreed s →
    s.ctx? id = some c → c.leg? dir = some (.line l) → l.step = some st → st.kind = .down → l.settle = some 0 → l.level = .off →
    (∀ x, x ∈ c.lineLegs → x.1 = dir ∨ x.2.state = .off) →
    let legs : List LegEntry := c.lineLegs.map (fun x =>
      ⟨x.2.egress, x.2.target, .off, x.2.short, if x.1 = dir then min (x.2.stepsTaken + 1) 65535 else x.2.stepsTaken,
        x.2.retryCount, x.2.lastDev, x.2.worst⟩)
    ∃ t, exec (.settleTimerExpiry id dir) s = .next t ∧ (∀ b, b ∈ t.jobs → b.id ≠ id)
      ∧ (∀ x, x ∈ (if c.phase = .failing then (Leg.line l).runs else c.entrySet) → ∀ k e, c.first ≤ k → k < c.first + c.count →
          s.entry x.1 x.2 k = some e →
          (e.job? = some id → t.entry x.1 x.2 k = some .free) ∧ ∀ why, e = .blocked why → t.entry x.1 x.2 k = some e)
      ∧ (∀ d side (k : Nat) e, t.entry d side k = some e → e.job? ≠ some id)
      ∧ (∀ f, c.phase = .failing → c.failure = some f →
        t.results = (if c.reached = true then
            s.results.write { plainRecord c (if f.cause = .aborted then .aborted else .failed) s.time with
              legs := legs, failure := some f
              failLeg := if f.cause = .aborted ∨ c.failSteps = [] then none else c.failLeg
              preceding := if f.cause = .aborted then [] else c.failSteps }
          else s.results)
        ∧ ∀ q, c.owner = some q → ((notify q (.failed id f) s).port q).tx <+: (t.port q).tx)
      ∧ (c.phase = .teardown → t.results = s.results.write { plainRecord c .closed s.time with legs := legs }
        ∧ (∀ q, c.owner = some q → ((notify q (.closed id) s).port q).tx <+: (t.port q).tx)
        ∧ ∀ u, c.place.up? = some u → ((send u (.downTurn id) s).link u).queue <+: (t.link u).queue)

/-! ### Arithmetic -/

/-- The relations of runs (R2): the distance of two runs, 0 where they overlap, else from the last slice of the lower to the first of the
higher; the covering range from the lowest first to the highest last slice. The width term (R5): the table, which is 1000 log10(n)
rounded; the target is the density plus it, the probe level that less the probe depth but not below the floor (R6). The requests of the
ladder (R4, R7, R8, R116): where an UP-class step goes from OFF, from a level, and from an unverified level; where a down-step goes; and
a ramp-down of constant step size from above the probe level reaches it in the quotient rounded up and is OFF one down-step later. -/
def Obligations.GridTargetsAndLadder : Prop :=
  (∀ f c g n : Nat, 1 ≤ c → 1 ≤ n →
    sliceDistance f c g n = (if f + c ≤ g then g - (f + c - 1) else if g + n ≤ f then f - (g + n - 1) else 0)
    ∧ sliceDistance f c g n = sliceDistance g n f c
    ∧ (sliceDistance f c g n = 0 ↔ ∃ k, f ≤ k ∧ k < f + c ∧ g ≤ k ∧ k < g + n))
  ∧ (∀ (f c : Nat) (runs : List (Nat × Nat)), 1 ≤ c → (∀ r, r ∈ runs → 1 ≤ r.2) →
    let range := covering f c runs
    (∀ r, r ∈ (f, c) :: runs → range.1 ≤ r.1 ∧ r.1 + r.2 ≤ range.1 + range.2)
      ∧ (∃ r, r ∈ (f, c) :: runs ∧ range.1 = r.1) ∧ ∃ r, r ∈ (f, c) :: runs ∧ range.1 + range.2 = r.1 + r.2)
  ∧ ([2, 3, 4, 5, 6, 7, 8, 9, 10, 11, 12, 13, 14, 15, 16].map widthTerm =
      [301, 477, 602, 699, 778, 845, 903, 954, 1000, 1041, 1079, 1114, 1146, 1176, 1204])
  ∧ (∀ n, 2 ≤ n → n ≤ 16 →
      10 ^ (2 * (widthTerm n).toNat - 1) ≤ n ^ 2000 ∧ n ^ 2000 ≤ 10 ^ (2 * (widthTerm n).toNat + 1))
  ∧ (∀ (density : Int) (n : Nat) (p : DegreeParams), targetLevel density n = density + widthTerm n
      ∧ probeLevel (targetLevel density n) p = max (density + widthTerm n - p.probeDepth) p.levelFloor)
  ∧ ∀ (l : LineLeg) (p : DegreeParams),
    let ceiling := max p.levelFloor p.levelCeiling
    let down (x : Level) : Level := downRequest x l.probe p
    (l.level = .off → planStep l p = (.lightOn, min l.probe ceiling))
    ∧ (∀ v, l.level = .num v →
      let up := min (min (v + p.stepSize) l.target) ceiling
      planStep l p = if l.unverified = true ∨ up ≤ v then (.recheck, v) else (.up, up))
    ∧ (∀ v, down (.num v) = if l.probe < v then .num (max (v - p.stepSize) l.probe) else .off)
    ∧ ∀ (v : Int) (n : Nat), 0 < p.stepSize → l.probe < v → (n - 1 : Int) * p.stepSize < v - l.probe →
        v - l.probe ≤ n * p.stepSize →
        down^[n] (.num v) = .num l.probe ∧ down^[n + 1] (.num v) = .off
          ∧ ∀ k, k < n → ∃ x, down^[k] (.num v) = .num x ∧ l.probe < x

/-- The combination of two levels is the greater plus the term of their distance, symmetric, and at most 301 above it; a fold is made
in list order, saturates at +4500, and is no lower than any of its elements that is not above +4500 (R10, R11). -/
def Obligations.CombinationFoldsInOrder : Prop :=
  (∀ a b : Int,
    let F : List Int := [301, 277, 254, 232, 212, 194, 176, 160, 146, 132, 119, 108, 97, 88, 79, 71, 64, 57, 51, 46, 41, 37, 33, 30, 27]
    combine a b = max a b + F.getD (((a - b).natAbs + 25) / 50) 0 ∧ combine a b = combine b a ∧ max a b ≤ combine a b
      ∧ combine a b ≤ max a b + 301 ∧ (1225 ≤ (a - b).natAbs → combine a b = max a b))
  ∧ (∀ a : Int, foldLevels [a] = a)
  ∧ (∀ (xs : List Int) (y : Int), xs ≠ [] → foldLevels (xs ++ [y]) = min (combine (foldLevels xs) y) 4500)
  ∧ ∀ xs : List Int, xs ≠ [] → (∀ x, x ∈ xs → x ≤ 4500) → foldLevels xs ≤ 4500 ∧ ∀ x, x ∈ xs → x ≤ foldLevels xs

/-! ### Arbiters and steps -/

/-- A line leg joining its egress degree's UP class (R102): QUEUED, its entry last; with a dark ingress it is frozen instead. A leg that
freezes (R49, R108, R130 to R132) is out of every collection of its arbiter and without the token, last in the order of freezing, its
dark timer started for a dark ingress. A leg that thaws loses frozen-by and return state, its dark timer stops, and it joins with its
return state as kind (R132). The unverified flag of a freezing leg is `FrozenLeg`'s, a set one staying set at the verified level (the
model's choice, log 26). -/
def Obligations.JoinQueuesOrFreezes : Prop :=
  ∀ (r : LegRef) (k : RequestKind) (l : LineLeg) (s : State), s.leg? r = some l →
    let a := s.arb l.egress
    let rest := a.backoff.filter (· ≠ r)
    ((∀ g, l.ingress = .line g → (s.watch g).dark = .lit) → joinUp r k s =
      { s with arbiters := s.arbiters.set l.egress { a with up := a.up ++ [⟨r, k⟩] }
               jobs := setLeg r (fun x => { x with state := .queued }) s.jobs })
    ∧ (∀ g, l.ingress = .line g → (s.watch g).dark = .dark → joinUp r k s = freeze r .dark k s)
    ∧ (∀ x, freeze r x k s =
      { s with
        arbiters := s.arbiters.set l.egress
          { s.arbFree l.egress r with
            down := a.down.filter (· ≠ r), up := a.up.filter (fun e => e.leg ≠ r), wait := a.wait.filter (fun e => e.leg ≠ r),
            backoff := rest, held := (s.deg l.egress).holdAll && !rest.isEmpty }
        jobs := setLeg r (fun y =>
          { FrozenLeg s x k y with darkTimer := if x = .dark then some (s.deg l.egress).darkTimeout else none }) s.jobs
        frozenOrder := s.frozenOrder.filter (· ≠ r) ++ [r] })
    ∧ (∀ x k, l.frozen = some (x, k) → thaw r s = joinUp r k
      { s with jobs := setLeg r (fun y => { y with frozen := none, darkTimer := none }) s.jobs
               frozenOrder := s.frozenOrder.filter (· ≠ r) })
    ∧ (l.frozen = none → thaw r s = s)

/-- A degree's ingress becoming DARK and the monitor entering FAULT (R130, R131) freeze just the legs their tables name, whatever the
monitor port then holds: at DARK those it feeds that are QUEUED or in HEADROOM_WAIT or hold the token in BASELINE, SETTLE or VERIFY of a
LIGHT_ON, UP or RECHECK step; at FAULT the last kind alone. A holder in ACTUATE, and every leg not named, stays as it was. The ingress
becoming LIT and the monitor returning to OK thaw the legs frozen for them, in the order in which they froze (R132). That a set unverified
flag stays set in a leg that freezes at its verified level is the model's choice (`FrozenLeg`, log 26). -/
def Obligations.FreezesAndThawsFollowTheirTables : Prop :=
  ∀ (g : Degree) (m : Monitor) (w : PerDegree Watch) (s : State), Sound s → Agreed s →
    let u : State := { s with monitor := m, watches := w }
    LegsFrozen .dark (frozenByDark g) s u (freezeDark g u)
    ∧ LegsFrozen .monitor stoppedHolder s u (freezeMonitor u)
    ∧ LegsThawed (fun l => l.ingress == .line g && l.frozen.any (fun x => x.1 == .dark)) s u (thawLit g u)
    ∧ LegsThawed (fun l => l.frozen.any (fun x => x.1 == .monitor)) s u (thawMonitor u)

/-- What ends an act (R99, R134, R135; the order of the passes is log 6): a grant pass of every degree in ascending order, or of the one
degree that CLEAR_FAULT and SET_DEGREE concern, and then the issue of the scan at the head of the queue, when nothing is in flight and the
monitor is not in FAULT: with the next issue number, which wraps from 255 to 0, and the scan timeout stored at that moment; a watch whose
request is issued is IN_FLIGHT. A grant pass of degree `d` (R101, R104 to R106): none while the token is held or the actuator in FAULT; the
first DOWN entry before any UP entry; none of the UP class in monitor FAULT. Else the grant goes to the first UP entry in queue order that
is not skipped and whose headroom check passes; of the entries before it (of all, where none passes) those skipped under the hold stay in
place and the others are parked in order, their headroom timers started. The last check made is recorded: the granted one, or in a pass
that grants nothing that of the last entry parked, with the result PARKED; where none is made the record stays. No other arbiter is touched. The
degree total (R13) folds the recorded levels of the degree's other legs and the requested level in ascending first slice. -/
def Obligations.ActsEndInGrantPassesAndAScan : Prop :=
  (∀ s : State,
    settleAct s = issueNext (grantPass .d4 (grantPass .d3 (grantPass .d2 (grantPass .d1 s))))
    ∧ (∀ d, settleDegree d s = issueNext (grantPass d s))
    ∧ ((s.monitor.flight ≠ none ∨ s.monitor.state = .fault ∨ s.monitor.queue = []) → issueNext s = s)
    ∧ ∀ q rest, s.monitor.flight = none → s.monitor.state ≠ .fault → s.monitor.queue = q :: rest → issueNext s =
      { s with
        monitor := { s.monitor with
          queue := rest
          flight := some ⟨q, s.monitor.nextIssue, s.node.scanTimeout, false, false⟩
          nextIssue := (s.monitor.nextIssue + 1) % 256 }
        watches := match q.requester with
          | .watch d => s.watches.set d { s.watch d with state := .inFlight, interval := none }
          | _ => s.watches })
  ∧ (∀ (d : Degree) (s : State),
      let t := grantPass d s
      let p := s.deg d
      ((s.arb d).token ≠ none → t = s)
      ∧ ((s.act d).faulted = true → t = s)
      ∧ (∀ r rest, (s.arb d).token = none → (s.act d).faulted = false → (s.arb d).down = r :: rest →
          t.arb d = { s.arb d with token := some ⟨r, .down⟩, down := rest }
            ∧ ∀ c l, s.ctx? r.job = some c → c.leg? r.dir = some (.line l) →
              let q := downRequest l.level l.probe (s.deg l.egress)
              t.leg? r = some { l with
                  state := .rampingDown
                  step := some ⟨.down, .down, .actuate, l.level, q, [], 0, 0, none, none, none, none, none⟩ }
                ∧ t.act l.egress = s.actSent l.egress r c q)
      ∧ ((s.arb d).down = [] → s.monitor.state = .fault → t = s)
      ∧ ((s.arb d).token = none → (s.act d).faulted = false → (s.arb d).down = [] → s.monitor.state ≠ .fault →
        (∀ k, (t.arb d).token = some k → k.cls = .up ∧ ∃ e h l c, e ∈ (s.arb d).up ∧ e.leg = k.leg
          ∧ ((s.arb d).held = true → e.kind = .retry) ∧ s.leg? e.leg = some l ∧ s.ctx? e.leg.job = some c
          ∧ (t.arb d).lastCheck = some h ∧ h.leg = e.leg ∧ h.requested = (planStep l p).2
          ∧ h.total = degreeTotal d e.leg c.first h.requested s ∧ h.limit = p.outputCeiling - p.guardBand
          ∧ h.granted = true ∧ h.total ≤ h.limit ∧ h.time = s.time ∧ ∀ x, x ∈ (t.arb d).up → x.leg ≠ e.leg)
        ∧ ((t.arb d).token = none → ∀ e, e ∈ (s.arb d).up → s.leg? e.leg ≠ none →
            ((s.arb d).held = true ∧ e.kind = .step) ∨ e ∈ (t.arb d).wait)
        ∧ (((s.arb d).up.map (·.leg)).Nodup → (∀ e, e ∈ (s.arb d).up → s.leg? e.leg ≠ none) →
          let passes (pre : List UpEntry) : Prop := ∀ x, x ∈ pre → skipped (s.arb d) x = true ∨ ¬ Fits s d x
          let parked (pre : List UpEntry) : List UpEntry := pre.filter (fun x => !skipped (s.arb d) x)
          let waits (pre : List UpEntry) : Prop := ∀ x, x ∈ parked pre → ∀ y, s.leg? x.leg = some y →
            t.leg? x.leg = some { y with state := .headroomWait, headroom := some p.headroomTimeout }
          (∀ pre e post, (s.arb d).up = pre ++ e :: post → passes pre → skipped (s.arb d) e = false → Fits s d e →
            (t.arb d).token = some ⟨e.leg, .up⟩ ∧ (t.arb d).up = pre.filter (skipped (s.arb d)) ++ post
              ∧ (t.arb d).wait = (s.arb d).wait ++ parked pre ∧ waits pre
              ∧ ∀ l, s.leg? e.leg = some l → ∃ y st, t.leg? e.leg = some y ∧ y.state = .stepping ∧ y.step = some st
                  ∧ st.cls = .up ∧ st.kind = (planStep l p).1 ∧ st.requested = .num (planStep l p).2)
          ∧ (passes (s.arb d).up →
            (t.arb d).token = none ∧ (t.arb d).up = (s.arb d).up.filter (skipped (s.arb d))
              ∧ (t.arb d).wait = (s.arb d).wait ++ parked (s.arb d).up ∧ waits (s.arb d).up
              ∧ (parked (s.arb d).up = [] → (t.arb d).lastCheck = (s.arb d).lastCheck)
              ∧ ∀ e l c, (parked (s.arb d).up).getLast? = some e → s.leg? e.leg = some l → s.ctx? e.leg.job = some c →
                  let q := (planStep l p).2
                  (t.arb d).lastCheck = some
                    ⟨e.leg, q, degreeTotal d e.leg c.first q s, p.outputCeiling - p.guardBand, false, s.time⟩)))
      ∧ ∀ e, e ≠ d → t.arb e = s.arb e)
    ∧ ∀ (d : Degree) (r : LegRef) (first : Nat) (q : Int) (s : State),
      ∃ folded : List (Nat × Int), folded.Perm ((first, q) :: (s.others d r).map (fun x => (x.1.first, x.2)))
        ∧ folded.Pairwise (fun a b => a.1 ≤ b.1) ∧ degreeTotal d r first q s = foldLevels (folded.map (·.2))

/-- A step of the UP class begins at its grant (R104, R117 to R119): the leg is STEPPING with its kind and requested level (R116) and its
observed set: the degree's other legs at a level whose runs lie within W slices of its run, the nearest 16, nearest first, ties to the
lower first slice. With a set, a baseline scan over the covering range is asked for; with none, a RECHECK verifies over its own run and
the other kinds command the level, LIGHT_ON lighting the egress run. -/
def Obligations.GrantedStepsBegin : Prop :=
  ∀ (r : LegRef) (c : Context) (l : LineLeg) (s : State), s.ctx? r.job = some c → c.leg? r.dir = some (.line l) → JobInv s →
    let d := l.egress
    let p := s.deg d
    let plan := planStep l p
    let t := beginUp r plan.1 plan.2 s
    ∃ observed near : List Observed,
      near.Perm (((s.others d r).filter (fun x =>
          decide (sliceDistance c.first c.count x.1.first x.1.count ≤ p.observationWindow))).map
            (fun x => ⟨x.1.id, x.1.first, x.1.count, none⟩))
      ∧ near.Pairwise (fun a b =>
          let da := sliceDistance c.first c.count a.first a.count
          let db := sliceDistance c.first c.count b.first b.count
          da < db ∨ (da = db ∧ a.first ≤ b.first))
      ∧ observed = near.take 16 ∧
      let range := covering c.first c.count (observed.map (fun o => (o.first, o.count)))
      let asking : Monitor := { s.monitor with queue := s.monitor.queue ++ [⟨.leg r, d, .outgoing, range.1, range.2⟩] }
      let stepping (stage : Stage) : List Context := setLeg r (fun x =>
        { x with
          state := .stepping
          step := some ⟨.up, plan.1, stage, l.level, .num plan.2, observed, 0, 0, none,
            if plan.1 = .recheck then some (.num plan.2) else none, none, none, none⟩ }) s.jobs
      (observed ≠ [] → t = { s with monitor := asking, jobs := stepping .baseline })
      ∧ (observed = [] → plan.1 = .recheck → t = { s with monitor := asking, jobs := stepping .verify })
      ∧ (observed = [] → plan.1 ≠ .recheck → ∃ m,
          (if plan.1 = .lightOn then RunsChange c.first c.count [(d, .outgoing)] (lit c.id) s.map m else m = s.map)
          ∧ t = { s with map := m, actuators := s.actuators.set d (s.actSent d r c (.num plan.2)), jobs := stepping .actuate })

/-- SETTLE_TIMER_EXPIRY (R120, R125, R127), SCAN_SPACING_EXPIRY (R121) and RETRY_TIMER_EXPIRY (R108, R125), each with its timer run out:
on to VERIFY with the first scan asked for, into BACKOFF, to the next down-step, or OFF, the ingress and egress runs of a FAILING job's
leg then FREE (R30); the next scan asked for; out of the backoff list and into the UP class as RETRY. An expiry of a
job or leg timer that has not run out changes nothing (R44, R50; the reading is log 2). -/
def Obligations.LegTimersMoveTheStepOn : Prop :=
  ∀ (id : JobId) (dir : Dir) (c : Context) (l : LineLeg) (s : State), s.ctx? id = some c → c.leg? dir = some (.line l) →
    let r : LegRef := ⟨id, dir⟩
    let p := s.deg l.egress
    let a := s.arb l.egress
    let asking (st : StepState) : Monitor := { s.monitor with queue := s.monitor.queue ++ [legScan r c l st] }
    let ended (x : LineLeg) : LineLeg := LineLeg.endStep .none { x with settle := none }
    (∀ st, l.step = some st → l.settle = some 0 →
      ((st.kind = .lightOn ∨ st.kind = .up) → exec (.settleTimerExpiry id dir) s = .next (settleAct
        { s with
          monitor := asking st
          jobs := setLeg r (fun x =>
            { x with settle := none, step := x.step.map (fun y => { y with stage := .verify }) }) s.jobs }))
      ∧ (st.kind = .backoff → exec (.settleTimerExpiry id dir) s = .next (settleAct
        { s with
          arbiters := s.arbiters.set l.egress { s.arbFree l.egress r with backoff := a.backoff ++ [r], held := p.holdAll }
          jobs := setLeg r (fun x => { ended x with state := .backoff, retry := some p.retryInterval }) s.jobs }))
      ∧ (∀ v, st.kind = .down → l.level = .num v →
        let q : Level := if l.probe < v then .num (max (v - p.stepSize) l.probe) else .off
        exec (.settleTimerExpiry id dir) s = .next (settleAct
          { s with
            actuators := s.actuators.set l.egress (s.actSent l.egress r c q)
            jobs := setLeg r (fun x =>
              { ended x with
                state := .rampingDown,
                step := some ⟨.down, .down, .actuate, .num v, q, [], 0, 0, none, none, none, none, none⟩ }) s.jobs }))
      ∧ (st.kind = .down → l.level = .off → JobInv s →
        (∀ e, e ≠ l.egress → r ∉ (s.arb e).down ∧ ∀ x, x ∈ (s.arb e).up → x.leg ≠ r) →
        ∃ t, exec (.settleTimerExpiry id dir) s = .next t ∧ SameParams s t ∧ OthersKept id s t
          ∧ (∀ b, b ∈ t.jobs → b.id = id → ∃ y, b.leg? dir = some (.line y) ∧ y.state = .off ∧ y.level = .off)
          ∧ (c.phase = .failing → ∀ x, x ∈ (Leg.line l).runs → ∀ k e, c.first ≤ k → k < c.first + c.count →
              s.entry x.1 x.2 k = some e → e.job? = some id → t.entry x.1 x.2 k = some .free)
          ∧ ((c.phase = .teardown ∨ (c.phase = .failing ∧ c.failure ≠ none)) →
              (∀ x, x ∈ c.lineLegs → x.1 = dir ∨ x.2.state = .off) →
              (∀ x, x ∈ (s.arb l.egress).wait → x.leg.job = id → x.leg = r) → ∀ b, b ∈ t.jobs → b.id ≠ id)))
    ∧ (∀ st, l.step = some st → l.spacing = some 0 → exec (.scanSpacingExpiry id dir) s = .next (issueNext
        { s with monitor := asking st, jobs := setLeg r (fun x => { x with spacing := none }) s.jobs }))
    ∧ (l.state = .backoff → l.retry = some 0 →
      let rest := a.backoff.filter (· ≠ r)
      exec (.retryTimerExpiry id dir) s = .next (settleAct (joinUp r .retry
        { s with
          arbiters := s.arbiters.set l.egress
            { a with down := a.down.filter (· ≠ r), up := a.up.filter (fun e => e.leg ≠ r),
                     wait := a.wait.filter (fun e => e.leg ≠ r), backoff := rest, held := p.holdAll && !rest.isEmpty }
          jobs := setLeg r (fun x => { x with retry := none }) s.jobs })))
    ∧ (l.settle ≠ some 0 → exec (.settleTimerExpiry id dir) s = .next s)
    ∧ (l.spacing ≠ some 0 → exec (.scanSpacingExpiry id dir) s = .next s)
    ∧ (l.retry ≠ some 0 → exec (.retryTimerExpiry id dir) s = .next s)
    ∧ (l.darkTimer ≠ some 0 → exec (.darkTimerExpiry id dir) s = .next s)
    ∧ (l.headroom ≠ some 0 → exec (.headroomTimerExpiry id dir) s = .next s)
    ∧ (c.hold ≠ some 0 → exec (.holdTimerExpiry id) s = .next s)
    ∧ (c.path ≠ some 0 → exec (.pathTimerExpiry id) s = .next s)
    ∧ (c.lock ≠ some 0 → exec (.lockTimerExpiry id) s = .next s)
    ∧ (c.teardown ≠ some 0 → exec (.teardownTimerExpiry id) s = .next s)

/-- SCAN_RESULT for a leg in VERIFY whose deviation and disturbances are within their bounds (R16, R17, R122, R123): the step passes and
its record is written; the leg is verified at its level and gives the token up; at the top of its ladder it is AT_TARGET and the turn is
sent on (R77), below it the leg joins the UP class. -/
def Obligations.VerificationPassMovesTheLegOn : Prop :=
  ∀ (s : State) (issue : Nat) (readings : List Int) (r : LegRef) (c : Context) (l : LineLeg) (st : StepState) (v : Int),
    Verifying s issue readings r c l st v → JobInv s →
    let p := s.deg l.egress
    let dev := deviationOf s r c l st v readings
    let dist := disturbancesOf r c l st readings
    (∀ x, x ∈ dist → (x.natAbs : Int) ≤ p.disturbanceLimit) → -p.tolerance ≤ dev → dev ≤ p.tolerance →
    let top := min l.target (max p.levelFloor p.levelCeiling)
    let passed : LineLeg :=
      { LineLeg.endStep .pass
          { l with
            step := some (StepState.take dev (measuredLevel r c l st readings) dist .pass st)
            lastDev := some dev
            worst := dist.foldl worseOf l.worst } with
        unverified := false, verified := some v }
    let u (x : LineLeg) : State :=
      { Landed s with
        arbiters := s.arbiters.set l.egress (s.arbFree l.egress r)
        jobs := setLeg r (fun _ => x) s.jobs }
    let topped := u { passed with state := .atTarget, short := l.short || decide (v < l.target) }
    (v < top → exec (.scanResult issue readings) s = .next (settleAct (joinUp r .step (u passed))))
    ∧ (top ≤ v → exec (.scanResult issue readings) s = .next (settleAct
        (match r.dir, c.phase, c.place with
         | .fwd, .bringupFwd, .head d => send d (.rampTurn c.id .fwd) topped
         | .fwd, .bringupFwd, .transit _ d => send d (.rampTurn c.id .fwd) topped
         | .rev, .bringupRev, .tail u => send u (.rampTurn c.id .rev) topped
         | .rev, .bringupRev, .transit u _ => send u (.rampTurn c.id .rev) topped
         | _, _, _ => topped)))

/-- SCAN_RESULT for a leg in VERIFY with a failing verdict (R17, R121, R122, R124 to R126): short of the fail run and of eight scans the
spacing timer starts; else the step fails with its verdict, or UNSTABLE at the eighth scan. With retries left the count goes up and the
back-off is commanded under the same grant, or the leg goes into BACKOFF at once where it stands at that level; with none left the job
fails with RETRIES_EXHAUSTED and the verdict. -/
def Obligations.VerificationFailureRetriesThenFails : Prop :=
  ∀ (s : State) (issue : Nat) (readings : List Int) (r : LegRef) (c : Context) (l : LineLeg) (st : StepState) (v : Int)
    (w : Verdict), Verifying s issue readings r c l st v → JobInv s →
    let p := s.deg l.egress
    let dev := deviationOf s r c l st v readings
    let dist := disturbancesOf r c l st readings
    let disturbed : Prop := ∃ x, x ∈ dist ∧ p.disturbanceLimit < (x.natAbs : Int)
    ((disturbed ∧ w = .disturb) ∨ (¬ disturbed ∧ dev < -p.tolerance ∧ w = .low)
      ∨ (¬ disturbed ∧ -p.tolerance ≤ dev ∧ p.tolerance < dev ∧ w = .high)) →
    let run := if st.previous = some w then st.failingRun + 1 else 1
    let judged : LineLeg :=
      { l with
        step := some { st with scansUsed := st.scansUsed + 1, worst := dist.foldl worseOf st.worst,
                               measured := some (measuredLevel r c l st readings), deviation := some dev,
                               failingRun := run, previous := some w }
        lastDev := some dev
        worst := dist.foldl worseOf l.worst }
    (run < p.failRun → st.scansUsed + 1 < 8 → exec (.scanResult issue readings) s = .next (settleAct
      { Landed s with jobs := setLeg r (fun _ => { judged with spacing := some p.scanSpacing }) s.jobs }))
    ∧ ((p.failRun ≤ run ∨ 8 ≤ st.scansUsed + 1) →
      let verdict : Verdict := if p.failRun ≤ run then w else .unstable
      let want : Level := if verdict = .disturb then st.fromLevel else .num l.probe
      let q : Level := match want with
        | .off => .off
        | .num x => if v < x then .num v else .num x
      let backing : LineLeg :=
        { LineLeg.endStep verdict judged with
          retryCount := l.retryCount + 1
          step := some ⟨.up, .backoff, .actuate, .num v, q, [], 0, 0, none, none, none, none, none⟩ }
      (l.retryCount < p.retryLimit → q ≠ .num v → exec (.scanResult issue readings) s = .next (settleAct
        { Landed s with
          actuators := s.actuators.set l.egress (s.actSent l.egress r c q)
          jobs := setLeg r (fun _ => backing) s.jobs }))
      ∧ (l.retryCount < p.retryLimit → q = .num v → exec (.scanResult issue readings) s = .next (settleAct
        { Landed s with
          arbiters := s.arbiters.set l.egress
            { s.arbFree l.egress r with backoff := (s.arb l.egress).backoff ++ [r], held := p.holdAll }
          jobs := setLeg r (fun _ =>
            { LineLeg.endStep .none backing with state := .backoff, retry := some p.retryInterval }) s.jobs }))
      ∧ (p.retryLimit ≤ l.retryCount → BeforeLive c → ∃ t, exec (.scanResult issue readings) s = .next t
        ∧ JobFails r.job ⟨.retriesExhausted, BitVec.ofNat 8 verdict.code, s.node.nodeId⟩
            (some (r.dir, (LineLeg.endStep verdict judged).history)) s t))

/-! ### Devices -/

/-- SCAN_RESULT of a watch (R14, R15, R130, R141), and the results discarded (R136): the watch waits its interval out; two consecutive low
totals make a LIT degree DARK, two clear ones a DARK degree LIT, a result for the present state breaks the run; each change is
announced after its effect on the legs: a change to DARK freezes every leg that degree feeds and that stands in an UP class or a
headroom-wait list, or holds a token outside ACTUATE; a change to LIT thaws those it froze (FreezesAndThawsFollowTheirTables). -/
def Obligations.WatchResultDecidesTheDarkState : Prop :=
  ∀ (issue : Nat) (readings : List Int) (s : State),
    ((s.monitor.flight = none ∨ ∃ f, s.monitor.flight = some f ∧ (f.issue ≠ issue ∨ readings.length ≠ f.request.count)) →
      exec (.scanResult issue readings) s = .next s)
    ∧ ∀ f g, s.monitor.flight = some f → f.issue = issue → readings.length = f.request.count →
      f.request.requester = .watch g → s.monitor.state ≠ .retrying →
      let low : Bool := decide (foldLevels (readings.map clampReading) - (s.deg g).ingressTapOffset < (s.deg g).losThreshold)
      let against : Bool := if (s.watch g).dark = .lit then low else !low
      let turns : Bool := against && (s.watch g).run != 0
      let u (x : Dark) (run : Nat) : State :=
        { Landed s with watches := s.watches.set g ⟨x, run, .waiting, some s.node.watchInterval⟩ }
      (turns = false → exec (.scanResult issue readings) s =
        .next (settleAct (u (s.watch g).dark (if against then 1 else 0))))
      ∧ (turns = true → (s.watch g).dark = .dark →
        exec (.scanResult issue readings) s = .next (settleAct (announce .dark (some g) 0 (thawLit g (u .lit 0)))))
      ∧ (turns = true → (s.watch g).dark = .dark → ∃ t, exec (.scanResult issue readings) s = .next t
        ∧ (t.watch g).dark = .lit ∧ (t.watch g).run = 0 ∧ SameParams s t ∧ t.links = s.links ∧ t.results = s.results
        ∧ ∀ q, t.port q = takeNotice (.degreeEvent .dark (some g) 0 s.time) (s.port q))
      ∧ (turns = true → (s.watch g).dark = .lit →
        exec (.scanResult issue readings) s = .next (settleAct (announce .dark (some g) 1 (freezeDark g (u .dark 0))))
        ∧ ∀ e r l x, s.leg? r = some l → l.ingress = .line g → x ∈ (s.arb e).up ++ (s.arb e).wait → x.leg = r →
          ∃ l', (freezeDark g (u .dark 0)).leg? r = some l' ∧ l'.state = .frozen ∧ l'.frozen = some (.dark, .step)
            ∧ l'.level = l.level ∧ l'.darkTimer = some (s.deg l.egress).darkTimeout)

/-- The other results (R17, R118, R122, R132, R136, R137, R140). One taken in RETRYING acts as in OK, the monitor set to OK and announced.
That of a withdrawn scan, or for a leg that awaits none, is discarded. A baseline result sets each observed channel's baseline, and a
RECHECK goes on to VERIFY and asks for its scan, the other kinds to ACTUATE with their command. With the ingress DARK a baseline or
verification result is MASKED: the step ends so and the leg freezes. A probe's result sets the monitor to OK, announced, stops the probe
timer, queues the four watches and thaws the legs frozen by the monitor. -/
def Obligations.OtherScanResultsAreTaken : Prop :=
  ∀ (issue : Nat) (readings : List Int) (f : ScanFlight) (s : State),
    s.monitor.flight = some f → f.issue = issue → readings.length = f.request.count →
    let result := exec (.scanResult issue readings) s
    let m := s.monitor
    (m.state = .retrying →
      result = exec (.scanResult issue readings) (announce .monitor none 0 { s with monitor := { m with state := .ok } }))
    ∧ (f.request.requester = .probe → m.state ≠ .retrying → result = .next (settleAct (thawMonitor
        { announce .monitor none 0 s with
          monitor := { m with
            flight := none, state := .ok, probe := none
            queue := m.queue ++ [⟨.watch .d1, .d1, .incoming, 0, 384⟩, ⟨.watch .d2, .d2, .incoming, 0, 384⟩,
              ⟨.watch .d3, .d3, .incoming, 0, 384⟩, ⟨.watch .d4, .d4, .incoming, 0, 384⟩] }
          watches :=
            let queued (d : Degree) : Watch := { s.watch d with state := .queued, interval := none }
            ⟨queued .d1, queued .d2, queued .d3, queued .d4⟩ })))
    ∧ ∀ r, f.request.requester = .leg r → m.state ≠ .retrying →
      ((f.withdrawn = true ∨ s.leg? r = none ∨ (∃ l, s.leg? r = some l ∧ (l.step = none
          ∨ ∃ st, l.step = some st ∧ (st.stage = .actuate ∨ st.stage = .settle ∨ (st.stage = .verify ∧ l.spacing ≠ none))))) →
        result = .next (settleAct (Landed s)))
      ∧ ∀ c l st, f.withdrawn = false → JobInv s → s.ctx? r.job = some c → c.leg? r.dir = some (.line l) → l.step = some st →
        let masked (x : LineLeg) : Host.Outcome State Fault Refusal := .next (settleAct (freeze r .dark .step
          { Landed s with jobs := setLeg r (fun _ => LineLeg.endStep .masked x) s.jobs }))
        let isDark : Prop := ∃ g, l.ingress = .line g ∧ (s.watch g).dark = .dark
        let based (stage : Stage) : StepState :=
          { st with
            stage := stage
            observed := st.observed.map (fun o => { o with
              baseline := some (channelLevel (legScan r c l st).first o.first o.count (readings.map clampReading)) }) }
        (st.stage = .verify → l.spacing = none → l.level ≠ .off → isDark →
          result = masked { l with step := some { st with scansUsed := st.scansUsed + 1 } })
        ∧ (st.stage = .baseline → isDark → result = masked l)
        ∧ (st.stage = .baseline → ¬ isDark → st.kind = .recheck → result = .next (settleAct
            { s with
              monitor := { m with flight := none, queue := m.queue ++ [legScan r c l st] }
              jobs := setLeg r (fun _ => { l with step := some (based .verify) }) s.jobs }))
        ∧ (st.stage = .baseline → ¬ isDark → st.kind ≠ .recheck → ∃ map,
            (if st.kind = .lightOn then RunsChange c.first c.count [(l.egress, .outgoing)] (lit c.id) s.map map else map = s.map)
            ∧ result = .next (settleAct
              { Landed s with
                map := map
                actuators := s.actuators.set l.egress (s.actSent l.egress r c st.requested)
                jobs := setLeg r (fun _ => { l with step := some (based .actuate) }) s.jobs }))

/-- SCAN_TIMEOUT, the timer run out (R138, R139): a first issue is issued once more with a new issue number and the monitor is RETRYING; a
reissue puts the monitor in FAULT, its queue emptied, the probe timer started, every watch stopped with its dark state kept, and the
token holders of R131 frozen (FreezesAndThawsFollowTheirTables); a probe ends and the probe timer starts again. Each change of the
monitor state is announced. With nothing in flight or a timer that has not run out nothing happens (log 2). -/
def Obligations.ScanTimeoutReissuesThenFaults : Prop :=
  ∀ s : State,
    (s.monitor.flight = none → exec .scanTimeout s = .next s)
    ∧ ∀ f, s.monitor.flight = some f →
      (f.timer ≠ 0 → exec .scanTimeout s = .next s)
      ∧ (f.timer = 0 → f.request.requester = .probe → exec .scanTimeout s =
        .next { s with monitor := { s.monitor with flight := none, probe := some 1000 } })
      ∧ (f.timer = 0 → f.request.requester ≠ .probe → f.reissue = false →
        exec .scanTimeout s = .next (announce .monitor none 1
          { s with monitor := { s.monitor with
              flight := some ⟨f.request, s.monitor.nextIssue, s.node.scanTimeout, true, f.withdrawn⟩
              nextIssue := (s.monitor.nextIssue + 1) % 256
              state := .retrying } }))
      ∧ (f.timer = 0 → f.request.requester ≠ .probe → f.reissue = true → ∃ t, exec .scanTimeout s = .next t
        ∧ t = settleAct (announce .monitor none 2 (freezeMonitor
            { s with
              monitor := ⟨[], none, s.monitor.nextIssue, .fault, some 1000⟩
              watches :=
                let stopped (d : Degree) : Watch := ⟨(s.watch d).dark, 0, .stopped, none⟩
                ⟨stopped .d1, stopped .d2, stopped .d3, stopped .d4⟩ }))
        ∧ t.monitor = ⟨[], none, s.monitor.nextIssue, .fault, some 1000⟩
        ∧ (∀ d, t.watch d = ⟨(s.watch d).dark, 0, .stopped, none⟩)
        ∧ (∀ q, t.port q = takeNotice (.degreeEvent .monitor none 2 s.time) (s.port q))
        ∧ SameParams s t ∧ t.links = s.links ∧ t.results = s.results
        ∧ t.jobs.map Context.outer = s.jobs.map Context.outer)

/-- ACTUATOR_COMPLETION (R9, R18, R107, R119, R128, R130, R131, R142): the level is recorded, clamped between floor and request, a level
below the request setting the short flag and lowering T, OFF recorded for a request of OFF; the settle timer starts; an UP-class step
whose job is FAILING turns to ramp-down instead, and one with a dark ingress or a faulted monitor freezes. That the turn comes before a
freeze is DEDUCED (log 8), that a dark ingress freezes the leg whatever the monitor state is the model's choice (log 7), and that OFF
clears the unverified flag is DEDUCED from R116 (log 24). Other completions are discarded. -/
def Obligations.CompletionRecordsTheLevel : Prop :=
  ∀ (d : Degree) (issue : Nat) (applied : Applied) (s : State),
    (((s.act d).flight = none ∨ applied = .neither ∨ ∃ f, (s.act d).flight = some f ∧ f.issue ≠ issue) →
      exec (.actuatorCompletion d issue applied) s = .next s)
    ∧ ∀ f c l st, (s.act d).flight = some f → f.issue = issue → applied ≠ .neither → JobInv s → s.ctx? f.leg.job = some c →
      c.leg? f.leg.dir = some (.line l) → l.step = some st →
      let r := f.leg
      let p := s.deg l.egress
      let time := min ((if st.kind = .lightOn then 2 else 1) * (p.settleBase + p.settlePerAmp * p.amplifierCount)) 5000
      let landed : State := { s with actuators := s.actuators.set d { s.act d with flight := none } }
      let level (q : Int) : Int := match applied with
        | .num v => max (min q p.levelFloor) (min v q)
        | _ => min q p.levelFloor
      let recorded : LineLeg := match st.requested with
        | .off => { l with level := .off, unverified := false, step := some { st with applied := some .off } }
        | .num q => { l with level := .num (level q), short := l.short || decide (level q < q),
                             target := if level q < q then level q else l.target,
                             step := some { st with applied := some (.num (level q)) } }
      let u (x : LineLeg) : State := { landed with jobs := setLeg r (fun _ => x) s.jobs }
      let settling : LineLeg :=
        { recorded with settle := some time, step := recorded.step.map (fun y => { y with stage := .settle }) }
      let isDark : Prop := ∃ g, l.ingress = .line g ∧ (s.watch g).dark = .dark
      let result := exec (.actuatorCompletion d issue applied) s
      (st.cls = .up → c.phase ≠ .failing → (st.kind = .backoff ∨ (¬ isDark ∧ s.monitor.state ≠ .fault)) →
        result = .next (settleAct (u settling)))
      ∧ (st.cls = .up → c.phase = .failing → result = .next (settleAct (turnDown r (u (LineLeg.endStep .none recorded)))))
      ∧ (st.cls = .up → c.phase ≠ .failing → st.kind ≠ .backoff → isDark →
        result = .next (settleAct (freeze r .dark .step (u (LineLeg.endStep .none recorded)))))
      ∧ (st.cls = .up → c.phase ≠ .failing → st.kind ≠ .backoff → ¬ isDark → s.monitor.state = .fault →
        result = .next (settleAct (freeze r .monitor .step (u (LineLeg.endStep .none recorded)))))
      ∧ (st.cls = .down → (∀ e, e ∈ (s.arb l.egress).wait → e.leg ≠ r) → ∃ x, result = .next (settleAct x)
        ∧ x.leg? r = some settling ∧ (x.arb l.egress).wait = [] ∧ (x.arb l.egress).up = (s.arb l.egress).up ++ (s.arb l.egress).wait
        ∧ (∀ e, e ∈ (s.arb l.egress).wait → ∀ y, s.leg? e.leg = some y →
            x.leg? e.leg = some { y with state := .queued, headroom := none })
        ∧ SameParams s x ∧ x.jobs.map Context.outer = s.jobs.map Context.outer)

/-- ACTUATOR_TIMEOUT of the command in flight, its timer run out (R31, R87, R96, R107, R111, R129, R143, R172): the actuator is in FAULT,
announced after every notice of the jobs. The job of a holder before LIVE fails with ACTUATOR, its leg the fail leg; a job in TEARDOWN or
FAILING goes on. The holder and then every leg of the DOWN class, in queue order, is abandoned: OFF, its egress run's LIT and LIVE entries
BLOCKED(ABANDONED); the headroom-wait list is re-queued. With no command in flight, or a timer that has not run out, nothing happens
(log 2). -/
def Obligations.ActuatorTimeoutAbandonsTheLegs : Prop :=
  ∀ (d : Degree) (s : State),
    ((s.act d).flight = none → exec (.actuatorTimeout d) s = .next s)
    ∧ (∀ f, (s.act d).flight = some f → f.timer ≠ 0 → exec (.actuatorTimeout d) s = .next s)
    ∧ (∀ f c l dir cls, (s.act d).flight = some f → f.timer = 0 → JobInv s → (s.arb d).token = some ⟨⟨c.id, dir⟩, cls⟩ →
      s.ctx? c.id = some c → BeforeLive c → c.leg? dir = some (.line l) → l.egress = d → l.state = .stepping →
      (∀ x, x ∈ c.lineLegs → x.1 ≠ dir → x.2.egress ≠ d) →
      ∃ t, exec (.actuatorTimeout d) s = .next t ∧ (t.act d).faulted = true ∧ (t.arb d).token = none
        ∧ (∀ b, b ∈ t.jobs → b.id = c.id → b.phase = .failing ∧ b.failure = some ⟨.actuator, 0#8, s.node.nodeId⟩
            ∧ b.failLeg = some dir ∧ b.failSteps = newestFour (LineLeg.endStep .none l).history)
        ∧ (∀ k, c.first ≤ k → k < c.first + c.count → s.entry d .outgoing k = some (.lit c.id) →
            t.entry d .outgoing k = some (.blocked .abandoned))
        ∧ (∀ q, ∃ u : SlotLink, t.port q = takeNotice (.degreeEvent .actuator (some d) 1 s.time) u ∧ u.up = (s.port q).up
            ∧ (s.port q).tx <+: u.tx))
    ∧ ∀ f, (s.act d).flight = some f → f.timer = 0 → Sound s → Agreed s →
      ∃ t, exec (.actuatorTimeout d) s = .next t
        ∧ t = settleAct (announce .actuator (some d) 1 ((s.arb d).down.foldl (fun x r => abandonLeg r x) (faultHolder f.leg
            { s with actuators := s.actuators.set d { s.act d with faulted := true, flight := none } })))
        ∧ t.act d = { s.act d with faulted := true, flight := none }
        ∧ (t.arb d).token = none ∧ (t.arb d).down = [] ∧ (t.arb d).wait = [] ∧ (t.arb d).up = (s.arb d).up ++ (s.arb d).wait
        ∧ (∀ e, e ∈ (s.arb d).wait → ∀ y, s.leg? e.leg = some y →
            t.leg? e.leg = some { y with state := .queued, headroom := none })
        ∧ ∀ r, r ∈ f.leg :: (s.arb d).down → ∀ c, s.ctx? r.job = some c →
          (∀ l, t.leg? r = some l → l.state = .off ∧ l.level = .off)
          ∧ (∀ k e, c.first ≤ k → k < c.first + c.count → s.entry d .outgoing k = some e → (e = .lit c.id ∨ e = .live c.id) →
              t.entry d .outgoing k = some (.blocked .abandoned))
          ∧ ((c.phase = .teardown ∨ c.phase = .failing) → ∀ b, b ∈ t.jobs → b.id = c.id →
              b.phase = c.phase ∧ b.failure = c.failure)

/-! ### Layouts -/

/-- The CRC (R182): from 0xFFFF, each byte combined into the upper eight bits and eight shifts made, 0x1021 combined at each shift whose
bit shifted out is 1; sent low byte first; 0x29B1 over the digits 1 to 9; carried by every frame after its marker and by every
supervisory message after its four header bytes. -/
def Obligations.CrcIsTheOneDefined : Prop :=
  let shift (r : BitVec 16) : BitVec 16 := if r.getLsbD 15 then (r <<< 1) ^^^ 0x1021#16 else r <<< 1
  crc16 [] = 0xFFFF#16
  ∧ (∀ (bs : List Byte) (b : Byte), crc16 (bs ++ [b]) = shift^[8] (crc16 bs ^^^ (b.setWidth 16 <<< 8)))
  ∧ (∀ bs : List Byte, crcBytes bs = [(crc16 bs).setWidth 8, (crc16 bs >>> 8).setWidth 8])
  ∧ crc16 [0x31#8, 0x32#8, 0x33#8, 0x34#8, 0x35#8, 0x36#8, 0x37#8, 0x38#8, 0x39#8] = 0x29B1#16
  ∧ (∀ (kind tag : Byte) (body : List Byte), ∃ covered : List Byte, covered.drop 1 = kind :: tag :: body
      ∧ frameBytes kind tag body = marker :: covered ++ crcBytes covered)
  ∧ (∀ m : Message, ∃ header body : List Byte, header.length = 4 ∧ m.bytes = header ++ body ++ crcBytes body)
  ∧ ∀ node degree flags, ∃ header body : List Byte, header.length = 4
      ∧ helloBytes node degree flags = header ++ body ++ crcBytes body

/-- The header code (R150): as sent a header is clean; with any one of its 30 bits inverted it is corrected to what was sent; with any two
inverted it is uncorrectable. -/
def Obligations.HeaderCodeCorrectsOneBit : Prop :=
  let mark (i : Nat) : BitVec 24 := if i < 24 then 1#24 <<< i else 0#24
  let check (i : Nat) : BitVec 6 := if i < 24 then 0#6 else 1#6 <<< (i - 24)
  ∀ h : BitVec 24,
    readHeader h (checkBits h) = .usable .clean h
    ∧ (∀ i, i < 30 → readHeader (h ^^^ mark i) (checkBits h ^^^ check i) = .usable .corrected h)
    ∧ ∀ i j, i < 30 → j < 30 → i ≠ j →
        readHeader (h ^^^ mark i ^^^ mark j) (checkBits h ^^^ check i ^^^ check j) = .uncorrectable

/-- Every path message and every HELLO whose fields fit its layout is read from its bytes as the command it is, its header clean (R150 to
R152, R183, R184). That a message's bytes arrive as the command of its row of the table is the model's reading (DEDUCED, log 5), and so is
a cause byte with no name, which keeps its byte (log 15). -/
def Obligations.MessagesDecodeToTheirCommands : Prop :=
  (∀ (d : Degree) (m : Message), (messageCommand d .clean m).wf = true → CauseFits m →
    readMessage d m.bytes = some (messageCommand d .clean m))
  ∧ ∀ (d : Degree) (node degree : Nat) (flags : ErrorFlags), node < 65536 → degree < 256 →
    readMessage d (helloBytes node degree flags) = some (.hello d .clean node degree flags)
end

