-- ==== Sys2Proof/Laws/State.lean ====
section
/-! SUPPORT. The small lemmas of the state: families of four and eight, and one lemma for each field an operation of
Machine/Ops.lean leaves as it is, each true by rfl. -/

namespace Sys2Proof

/-! ### Families -/

@[simp] theorem PerDegree.get_const {α : Type} (a : α) (d : Degree) : (PerDegree.const a).get d = a := by cases d <;> rfl

@[simp] theorem PerPort.get_const {α : Type} (a : α) (p : Port) : (PerPort.const a).get p = a := by cases p <;> rfl

@[simp] theorem PerDegree.get_set_self {α : Type} (f : PerDegree α) (d : Degree) (a : α) : (f.set d a).get d = a := by
  cases d <;> rfl

theorem PerDegree.get_set_ne {α : Type} (f : PerDegree α) (a : α) {d e : Degree} (h : e ≠ d) :
    (f.set d a).get e = f.get e := by
  cases d <;> cases e <;> first | rfl | exact absurd rfl h

theorem PerDegree.get_set {α : Type} (f : PerDegree α) (a : α) (d e : Degree) :
    (f.set d a).get e = if e = d then a else f.get e := by
  cases d <;> cases e <;> rfl

@[simp] theorem PerPort.get_set_self {α : Type} (f : PerPort α) (p : Port) (a : α) : (f.set p a).get p = a := by
  cases p <;> rfl

theorem PerPort.get_set_ne {α : Type} (f : PerPort α) (a : α) {p q : Port} (h : q ≠ p) :
    (f.set p a).get q = f.get q := by
  cases p <;> cases q <;> first | rfl | exact absurd rfl h

theorem PerPort.get_set {α : Type} (f : PerPort α) (a : α) (p q : Port) :
    (f.set p a).get q = if q = p then a else f.get q := by
  cases p <;> cases q <;> rfl

@[simp] theorem PerDegree.set_set {α : Type} (f : PerDegree α) (d : Degree) (a b : α) : (f.set d a).set d b = f.set d b := by
  cases d <;> rfl

@[simp] theorem PerPort.set_set {α : Type} (f : PerPort α) (p : Port) (a b : α) : (f.set p a).set p b = f.set p b := by
  cases p <;> rfl

@[simp] theorem PerDegree.set_get {α : Type} (f : PerDegree α) (d : Degree) : f.set d (f.get d) = f := by
  cases d <;> rfl

@[simp] theorem PerPort.set_get {α : Type} (f : PerPort α) (p : Port) : f.set p (f.get p) = f := by cases p <;> rfl

theorem PerDegree.eq_of_get {α : Type} {f g : PerDegree α} (h : ∀ d, f.get d = g.get d) : f = g := by
  have h1 := h .d1; have h2 := h .d2; have h3 := h .d3; have h4 := h .d4
  cases f; cases g; simp_all [PerDegree.get]

theorem PerPort.eq_of_get {α : Type} {f g : PerPort α} (h : ∀ p, f.get p = g.get p) : f = g := by
  have h1 := h .p1; have h2 := h .p2; have h3 := h .p3; have h4 := h .p4
  have h5 := h .p5; have h6 := h .p6; have h7 := h .p7; have h8 := h .p8
  cases f; cases g; simp_all [PerPort.get]

namespace Machine

/-! ### What an operation changes, read back -/

theorem modPort_port (p q : Port) (f : SlotLink → SlotLink) (s : State) :
    (modPort p f s).port q = if q = p then f (s.port p) else s.port q := PerPort.get_set ..

theorem modLink_link (d e : Degree) (f : Link → Link) (s : State) :
    (modLink d f s).link e = if e = d then f (s.link d) else s.link e := PerDegree.get_set ..

theorem modArb_arb (d e : Degree) (f : Arbiter → Arbiter) (s : State) :
    (modArb d f s).arb e = if e = d then f (s.arb d) else s.arb e := PerDegree.get_set ..

theorem modWatch_watch (d e : Degree) (f : Watch → Watch) (s : State) :
    (modWatch d f s).watch e = if e = d then f (s.watch d) else s.watch e := PerDegree.get_set ..

theorem modAct_act (d e : Degree) (f : Actuator → Actuator) (s : State) :
    (modAct d f s).act e = if e = d then f (s.act d) else s.act e := PerDegree.get_set ..

theorem storeDegree_deg (d e : Degree) (p : DegreeParams) (s : State) :
    (storeDegree d p s).deg e = if e = d then p else s.deg e := PerDegree.get_set ..

@[simp] theorem modPort_port_self (p : Port) (f : SlotLink → SlotLink) (s : State) :
    (modPort p f s).port p = f (s.port p) := PerPort.get_set_self ..

@[simp] theorem modLink_link_self (d : Degree) (f : Link → Link) (s : State) :
    (modLink d f s).link d = f (s.link d) := PerDegree.get_set_self ..

@[simp] theorem modArb_arb_self (d : Degree) (f : Arbiter → Arbiter) (s : State) :
    (modArb d f s).arb d = f (s.arb d) := PerDegree.get_set_self ..

@[simp] theorem modWatch_watch_self (d : Degree) (f : Watch → Watch) (s : State) :
    (modWatch d f s).watch d = f (s.watch d) := PerDegree.get_set_self ..

@[simp] theorem modAct_act_self (d : Degree) (f : Actuator → Actuator) (s : State) :
    (modAct d f s).act d = f (s.act d) := PerDegree.get_set_self ..

theorem announce_port (k : EventKind) (d : Option Degree) (code : Nat) (s : State) (p : Port) :
    (announce k d code s).port p = takeNotice (.degreeEvent k d code s.time) (s.port p) := by cases p <;> rfl

@[simp] theorem modMonitor_monitor (f : Monitor → Monitor) (s : State) : (modMonitor f s).monitor = f s.monitor := rfl

@[simp] theorem modMap_map (f : SpectrumMap → SpectrumMap) (s : State) : (modMap f s).map = f s.map := rfl

@[simp] theorem modResults_results (f : Results → Results) (s : State) : (modResults f s).results = f s.results := rfl

@[simp] theorem storeNode_node (n : NodeParams) (s : State) : (storeNode n s).node = n := rfl

/-! ### Accessors of fields an operation leaves as they are -/

@[simp] theorem modPort_deg (p : Port) (f : SlotLink → SlotLink) (s : State) (x : Degree) :
    (modPort p f s).deg x = s.deg x := rfl
@[simp] theorem modPort_link (p : Port) (f : SlotLink → SlotLink) (s : State) (x : Degree) :
    (modPort p f s).link x = s.link x := rfl
@[simp] theorem modPort_arb (p : Port) (f : SlotLink → SlotLink) (s : State) (x : Degree) :
    (modPort p f s).arb x = s.arb x := rfl
@[simp] theorem modPort_watch (p : Port) (f : SlotLink → SlotLink) (s : State) (x : Degree) :
    (modPort p f s).watch x = s.watch x := rfl
@[simp] theorem modPort_act (p : Port) (f : SlotLink → SlotLink) (s : State) (x : Degree) :
    (modPort p f s).act x = s.act x := rfl
@[simp] theorem modPort_ctx (p : Port) (f : SlotLink → SlotLink) (s : State) (id : JobId) :
    (modPort p f s).ctx? id = s.ctx? id := rfl
@[simp] theorem modPort_leg (p : Port) (f : SlotLink → SlotLink) (s : State) (x : LegRef) :
    (modPort p f s).leg? x = s.leg? x := rfl
@[simp] theorem modLink_deg (d : Degree) (f : Link → Link) (s : State) (x : Degree) :
    (modLink d f s).deg x = s.deg x := rfl
@[simp] theorem modLink_port (d : Degree) (f : Link → Link) (s : State) (x : Port) :
    (modLink d f s).port x = s.port x := rfl
@[simp] theorem modLink_arb (d : Degree) (f : Link → Link) (s : State) (x : Degree) :
    (modLink d f s).arb x = s.arb x := rfl
@[simp] theorem modLink_watch (d : Degree) (f : Link → Link) (s : State) (x : Degree) :
    (modLink d f s).watch x = s.watch x := rfl
@[simp] theorem modLink_act (d : Degree) (f : Link → Link) (s : State) (x : Degree) :
    (modLink d f s).act x = s.act x := rfl
@[simp] theorem modLink_ctx (d : Degree) (f : Link → Link) (s : State) (id : JobId) :
    (modLink d f s).ctx? id = s.ctx? id := rfl
@[simp] theorem modLink_leg (d : Degree) (f : Link → Link) (s : State) (x : LegRef) :
    (modLink d f s).leg? x = s.leg? x := rfl
@[simp] theorem modArb_deg (d : Degree) (f : Arbiter → Arbiter) (s : State) (x : Degree) :
    (modArb d f s).deg x = s.deg x := rfl
@[simp] theorem modArb_port (d : Degree) (f : Arbiter → Arbiter) (s : State) (x : Port) :
    (modArb d f s).port x = s.port x := rfl
@[simp] theorem modArb_link (d : Degree) (f : Arbiter → Arbiter) (s : State) (x : Degree) :
    (modArb d f s).link x = s.link x := rfl
@[simp] theorem modArb_watch (d : Degree) (f : Arbiter → Arbiter) (s : State) (x : Degree) :
    (modArb d f s).watch x = s.watch x := rfl
@[simp] theorem modArb_act (d : Degree) (f : Arbiter → Arbiter) (s : State) (x : Degree) :
    (modArb d f s).act x = s.act x := rfl
@[simp] theorem modArb_ctx (d : Degree) (f : Arbiter → Arbiter) (s : State) (id : JobId) :
    (modArb d f s).ctx? id = s.ctx? id := rfl
@[simp] theorem modArb_leg (d : Degree) (f : Arbiter → Arbiter) (s : State) (x : LegRef) :
    (modArb d f s).leg? x = s.leg? x := rfl
@[simp] theorem modWatch_deg (d : Degree) (f : Watch → Watch) (s : State) (x : Degree) :
    (modWatch d f s).deg x = s.deg x := rfl
@[simp] theorem modWatch_port (d : Degree) (f : Watch → Watch) (s : State) (x : Port) :
    (modWatch d f s).port x = s.port x := rfl
@[simp] theorem modWatch_link (d : Degree) (f : Watch → Watch) (s : State) (x : Degree) :
    (modWatch d f s).link x = s.link x := rfl
@[simp] theorem modWatch_arb (d : Degree) (f : Watch → Watch) (s : State) (x : Degree) :
    (modWatch d f s).arb x = s.arb x := rfl
@[simp] theorem modWatch_act (d : Degree) (f : Watch → Watch) (s : State) (x : Degree) :
    (modWatch d f s).act x = s.act x := rfl
@[simp] theorem modWatch_ctx (d : Degree) (f : Watch → Watch) (s : State) (id : JobId) :
    (modWatch d f s).ctx? id = s.ctx? id := rfl
@[simp] theorem modWatch_leg (d : Degree) (f : Watch → Watch) (s : State) (x : LegRef) :
    (modWatch d f s).leg? x = s.leg? x := rfl
@[simp] theorem modAct_deg (d : Degree) (f : Actuator → Actuator) (s : State) (x : Degree) :
    (modAct d f s).deg x = s.deg x := rfl
@[simp] theorem modAct_port (d : Degree) (f : Actuator → Actuator) (s : State) (x : Port) :
    (modAct d f s).port x = s.port x := rfl
@[simp] theorem modAct_link (d : Degree) (f : Actuator → Actuator) (s : State) (x : Degree) :
    (modAct d f s).link x = s.link x := rfl
@[simp] theorem modAct_arb (d : Degree) (f : Actuator → Actuator) (s : State) (x : Degree) :
    (modAct d f s).arb x = s.arb x := rfl
@[simp] theorem modAct_watch (d : Degree) (f : Actuator → Actuator) (s : State) (x : Degree) :
    (modAct d f s).watch x = s.watch x := rfl
@[simp] theorem modAct_ctx (d : Degree) (f : Actuator → Actuator) (s : State) (id : JobId) :
    (modAct d f s).ctx? id = s.ctx? id := rfl
@[simp] theorem modAct_leg (d : Degree) (f : Actuator → Actuator) (s : State) (x : LegRef) :
    (modAct d f s).leg? x = s.leg? x := rfl
@[simp] theorem modMonitor_deg (f : Monitor → Monitor) (s : State) (x : Degree) :
    (modMonitor f s).deg x = s.deg x := rfl
@[simp] theorem modMonitor_port (f : Monitor → Monitor) (s : State) (x : Port) :
    (modMonitor f s).port x = s.port x := rfl
@[simp] theorem modMonitor_link (f : Monitor → Monitor) (s : State) (x : Degree) :
    (modMonitor f s).link x = s.link x := rfl
@[simp] theorem modMonitor_arb (f : Monitor → Monitor) (s : State) (x : Degree) :
    (modMonitor f s).arb x = s.arb x := rfl
@[simp] theorem modMonitor_watch (f : Monitor → Monitor) (s : State) (x : Degree) :
    (modMonitor f s).watch x = s.watch x := rfl
@[simp] theorem modMonitor_act (f : Monitor → Monitor) (s : State) (x : Degree) :
    (modMonitor f s).act x = s.act x := rfl
@[simp] theorem modMonitor_ctx (f : Monitor → Monitor) (s : State) (id : JobId) :
    (modMonitor f s).ctx? id = s.ctx? id := rfl
@[simp] theorem modMonitor_leg (f : Monitor → Monitor) (s : State) (x : LegRef) :
    (modMonitor f s).leg? x = s.leg? x := rfl
@[simp] theorem modResults_deg (f : Results → Results) (s : State) (x : Degree) :
    (modResults f s).deg x = s.deg x := rfl
@[simp] theorem modResults_port (f : Results → Results) (s : State) (x : Port) :
    (modResults f s).port x = s.port x := rfl
@[simp] theorem modResults_link (f : Results → Results) (s : State) (x : Degree) :
    (modResults f s).link x = s.link x := rfl
@[simp] theorem modResults_arb (f : Results → Results) (s : State) (x : Degree) :
    (modResults f s).arb x = s.arb x := rfl
@[simp] theorem modResults_watch (f : Results → Results) (s : State) (x : Degree) :
    (modResults f s).watch x = s.watch x := rfl
@[simp] theorem modResults_act (f : Results → Results) (s : State) (x : Degree) :
    (modResults f s).act x = s.act x := rfl
@[simp] theorem modResults_ctx (f : Results → Results) (s : State) (id : JobId) :
    (modResults f s).ctx? id = s.ctx? id := rfl
@[simp] theorem modResults_leg (f : Results → Results) (s : State) (x : LegRef) :
    (modResults f s).leg? x = s.leg? x := rfl
@[simp] theorem modMap_deg (f : SpectrumMap → SpectrumMap) (s : State) (x : Degree) :
    (modMap f s).deg x = s.deg x := rfl
@[simp] theorem modMap_port (f : SpectrumMap → SpectrumMap) (s : State) (x : Port) :
    (modMap f s).port x = s.port x := rfl
@[simp] theorem modMap_link (f : SpectrumMap → SpectrumMap) (s : State) (x : Degree) :
    (modMap f s).link x = s.link x := rfl
@[simp] theorem modMap_arb (f : SpectrumMap → SpectrumMap) (s : State) (x : Degree) :
    (modMap f s).arb x = s.arb x := rfl
@[simp] theorem modMap_watch (f : SpectrumMap → SpectrumMap) (s : State) (x : Degree) :
    (modMap f s).watch x = s.watch x := rfl
@[simp] theorem modMap_act (f : SpectrumMap → SpectrumMap) (s : State) (x : Degree) :
    (modMap f s).act x = s.act x := rfl
@[simp] theorem modMap_ctx (f : SpectrumMap → SpectrumMap) (s : State) (id : JobId) :
    (modMap f s).ctx? id = s.ctx? id := rfl
@[simp] theorem modMap_leg (f : SpectrumMap → SpectrumMap) (s : State) (x : LegRef) :
    (modMap f s).leg? x = s.leg? x := rfl
@[simp] theorem modCtx_deg (id : JobId) (f : Context → Context) (s : State) (x : Degree) :
    (modCtx id f s).deg x = s.deg x := rfl
@[simp] theorem modCtx_port (id : JobId) (f : Context → Context) (s : State) (x : Port) :
    (modCtx id f s).port x = s.port x := rfl
@[simp] theorem modCtx_link (id : JobId) (f : Context → Context) (s : State) (x : Degree) :
    (modCtx id f s).link x = s.link x := rfl
@[simp] theorem modCtx_arb (id : JobId) (f : Context → Context) (s : State) (x : Degree) :
    (modCtx id f s).arb x = s.arb x := rfl
@[simp] theorem modCtx_watch (id : JobId) (f : Context → Context) (s : State) (x : Degree) :
    (modCtx id f s).watch x = s.watch x := rfl
@[simp] theorem modCtx_act (id : JobId) (f : Context → Context) (s : State) (x : Degree) :
    (modCtx id f s).act x = s.act x := rfl
@[simp] theorem addCtx_deg (c : Context) (s : State) (x : Degree) :
    (addCtx c s).deg x = s.deg x := rfl
@[simp] theorem addCtx_port (c : Context) (s : State) (x : Port) :
    (addCtx c s).port x = s.port x := rfl
@[simp] theorem addCtx_link (c : Context) (s : State) (x : Degree) :
    (addCtx c s).link x = s.link x := rfl
@[simp] theorem addCtx_arb (c : Context) (s : State) (x : Degree) :
    (addCtx c s).arb x = s.arb x := rfl
@[simp] theorem addCtx_watch (c : Context) (s : State) (x : Degree) :
    (addCtx c s).watch x = s.watch x := rfl
@[simp] theorem addCtx_act (c : Context) (s : State) (x : Degree) :
    (addCtx c s).act x = s.act x := rfl
@[simp] theorem dropCtx_deg (id : JobId) (s : State) (x : Degree) :
    (dropCtx id s).deg x = s.deg x := rfl
@[simp] theorem dropCtx_port (id : JobId) (s : State) (x : Port) :
    (dropCtx id s).port x = s.port x := rfl
@[simp] theorem dropCtx_link (id : JobId) (s : State) (x : Degree) :
    (dropCtx id s).link x = s.link x := rfl
@[simp] theorem dropCtx_arb (id : JobId) (s : State) (x : Degree) :
    (dropCtx id s).arb x = s.arb x := rfl
@[simp] theorem dropCtx_watch (id : JobId) (s : State) (x : Degree) :
    (dropCtx id s).watch x = s.watch x := rfl
@[simp] theorem dropCtx_act (id : JobId) (s : State) (x : Degree) :
    (dropCtx id s).act x = s.act x := rfl
@[simp] theorem modLeg_deg (r : LegRef) (f : LineLeg → LineLeg) (s : State) (x : Degree) :
    (modLeg r f s).deg x = s.deg x := rfl
@[simp] theorem modLeg_port (r : LegRef) (f : LineLeg → LineLeg) (s : State) (x : Port) :
    (modLeg r f s).port x = s.port x := rfl
@[simp] theorem modLeg_link (r : LegRef) (f : LineLeg → LineLeg) (s : State) (x : Degree) :
    (modLeg r f s).link x = s.link x := rfl
@[simp] theorem modLeg_arb (r : LegRef) (f : LineLeg → LineLeg) (s : State) (x : Degree) :
    (modLeg r f s).arb x = s.arb x := rfl
@[simp] theorem modLeg_watch (r : LegRef) (f : LineLeg → LineLeg) (s : State) (x : Degree) :
    (modLeg r f s).watch x = s.watch x := rfl
@[simp] theorem modLeg_act (r : LegRef) (f : LineLeg → LineLeg) (s : State) (x : Degree) :
    (modLeg r f s).act x = s.act x := rfl
@[simp] theorem storeNode_deg (n : NodeParams) (s : State) (x : Degree) :
    (storeNode n s).deg x = s.deg x := rfl
@[simp] theorem storeNode_port (n : NodeParams) (s : State) (x : Port) :
    (storeNode n s).port x = s.port x := rfl
@[simp] theorem storeNode_link (n : NodeParams) (s : State) (x : Degree) :
    (storeNode n s).link x = s.link x := rfl
@[simp] theorem storeNode_arb (n : NodeParams) (s : State) (x : Degree) :
    (storeNode n s).arb x = s.arb x := rfl
@[simp] theorem storeNode_watch (n : NodeParams) (s : State) (x : Degree) :
    (storeNode n s).watch x = s.watch x := rfl
@[simp] theorem storeNode_act (n : NodeParams) (s : State) (x : Degree) :
    (storeNode n s).act x = s.act x := rfl
@[simp] theorem storeNode_ctx (n : NodeParams) (s : State) (id : JobId) :
    (storeNode n s).ctx? id = s.ctx? id := rfl
@[simp] theorem storeNode_leg (n : NodeParams) (s : State) (x : LegRef) :
    (storeNode n s).leg? x = s.leg? x := rfl
@[simp] theorem storeDegree_port (d : Degree) (p : DegreeParams) (s : State) (x : Port) :
    (storeDegree d p s).port x = s.port x := rfl
@[simp] theorem storeDegree_link (d : Degree) (p : DegreeParams) (s : State) (x : Degree) :
    (storeDegree d p s).link x = s.link x := rfl
@[simp] theorem storeDegree_arb (d : Degree) (p : DegreeParams) (s : State) (x : Degree) :
    (storeDegree d p s).arb x = s.arb x := rfl
@[simp] theorem storeDegree_watch (d : Degree) (p : DegreeParams) (s : State) (x : Degree) :
    (storeDegree d p s).watch x = s.watch x := rfl
@[simp] theorem storeDegree_act (d : Degree) (p : DegreeParams) (s : State) (x : Degree) :
    (storeDegree d p s).act x = s.act x := rfl
@[simp] theorem storeDegree_ctx (d : Degree) (p : DegreeParams) (s : State) (id : JobId) :
    (storeDegree d p s).ctx? id = s.ctx? id := rfl
@[simp] theorem storeDegree_leg (d : Degree) (p : DegreeParams) (s : State) (x : LegRef) :
    (storeDegree d p s).leg? x = s.leg? x := rfl
@[simp] theorem reply_deg (p : Port) (tag : Byte) (r : Reply) (s : State) (x : Degree) :
    (reply p tag r s).deg x = s.deg x := rfl
@[simp] theorem reply_link (p : Port) (tag : Byte) (r : Reply) (s : State) (x : Degree) :
    (reply p tag r s).link x = s.link x := rfl
@[simp] theorem reply_arb (p : Port) (tag : Byte) (r : Reply) (s : State) (x : Degree) :
    (reply p tag r s).arb x = s.arb x := rfl
@[simp] theorem reply_watch (p : Port) (tag : Byte) (r : Reply) (s : State) (x : Degree) :
    (reply p tag r s).watch x = s.watch x := rfl
@[simp] theorem reply_act (p : Port) (tag : Byte) (r : Reply) (s : State) (x : Degree) :
    (reply p tag r s).act x = s.act x := rfl
@[simp] theorem reply_ctx (p : Port) (tag : Byte) (r : Reply) (s : State) (id : JobId) :
    (reply p tag r s).ctx? id = s.ctx? id := rfl
@[simp] theorem reply_leg (p : Port) (tag : Byte) (r : Reply) (s : State) (x : LegRef) :
    (reply p tag r s).leg? x = s.leg? x := rfl
@[simp] theorem replyDone_deg (p : Port) (tag : Byte) (items : List Item) (s : State) (x : Degree) :
    (replyDone p tag items s).deg x = s.deg x := rfl
@[simp] theorem replyDone_link (p : Port) (tag : Byte) (items : List Item) (s : State) (x : Degree) :
    (replyDone p tag items s).link x = s.link x := rfl
@[simp] theorem replyDone_arb (p : Port) (tag : Byte) (items : List Item) (s : State) (x : Degree) :
    (replyDone p tag items s).arb x = s.arb x := rfl
@[simp] theorem replyDone_watch (p : Port) (tag : Byte) (items : List Item) (s : State) (x : Degree) :
    (replyDone p tag items s).watch x = s.watch x := rfl
@[simp] theorem replyDone_act (p : Port) (tag : Byte) (items : List Item) (s : State) (x : Degree) :
    (replyDone p tag items s).act x = s.act x := rfl
@[simp] theorem replyDone_ctx (p : Port) (tag : Byte) (items : List Item) (s : State) (id : JobId) :
    (replyDone p tag items s).ctx? id = s.ctx? id := rfl
@[simp] theorem replyDone_leg (p : Port) (tag : Byte) (items : List Item) (s : State) (x : LegRef) :
    (replyDone p tag items s).leg? x = s.leg? x := rfl
@[simp] theorem replyRefused_deg (p : Port) (tag : Byte) (r : Reason) (s : State) (x : Degree) :
    (replyRefused p tag r s).deg x = s.deg x := rfl
@[simp] theorem replyRefused_link (p : Port) (tag : Byte) (r : Reason) (s : State) (x : Degree) :
    (replyRefused p tag r s).link x = s.link x := rfl
@[simp] theorem replyRefused_arb (p : Port) (tag : Byte) (r : Reason) (s : State) (x : Degree) :
    (replyRefused p tag r s).arb x = s.arb x := rfl
@[simp] theorem replyRefused_watch (p : Port) (tag : Byte) (r : Reason) (s : State) (x : Degree) :
    (replyRefused p tag r s).watch x = s.watch x := rfl
@[simp] theorem replyRefused_act (p : Port) (tag : Byte) (r : Reason) (s : State) (x : Degree) :
    (replyRefused p tag r s).act x = s.act x := rfl
@[simp] theorem replyRefused_ctx (p : Port) (tag : Byte) (r : Reason) (s : State) (id : JobId) :
    (replyRefused p tag r s).ctx? id = s.ctx? id := rfl
@[simp] theorem replyRefused_leg (p : Port) (tag : Byte) (r : Reason) (s : State) (x : LegRef) :
    (replyRefused p tag r s).leg? x = s.leg? x := rfl
@[simp] theorem notify_deg (p : Port) (n : Notice) (s : State) (x : Degree) :
    (notify p n s).deg x = s.deg x := rfl
@[simp] theorem notify_link (p : Port) (n : Notice) (s : State) (x : Degree) :
    (notify p n s).link x = s.link x := rfl
@[simp] theorem notify_arb (p : Port) (n : Notice) (s : State) (x : Degree) :
    (notify p n s).arb x = s.arb x := rfl
@[simp] theorem notify_watch (p : Port) (n : Notice) (s : State) (x : Degree) :
    (notify p n s).watch x = s.watch x := rfl
@[simp] theorem notify_act (p : Port) (n : Notice) (s : State) (x : Degree) :
    (notify p n s).act x = s.act x := rfl
@[simp] theorem notify_ctx (p : Port) (n : Notice) (s : State) (id : JobId) :
    (notify p n s).ctx? id = s.ctx? id := rfl
@[simp] theorem notify_leg (p : Port) (n : Notice) (s : State) (x : LegRef) :
    (notify p n s).leg? x = s.leg? x := rfl
@[simp] theorem announce_deg (k : EventKind) (d : Option Degree) (code : Nat) (s : State) (x : Degree) :
    (announce k d code s).deg x = s.deg x := rfl
@[simp] theorem announce_link (k : EventKind) (d : Option Degree) (code : Nat) (s : State) (x : Degree) :
    (announce k d code s).link x = s.link x := rfl
@[simp] theorem announce_arb (k : EventKind) (d : Option Degree) (code : Nat) (s : State) (x : Degree) :
    (announce k d code s).arb x = s.arb x := rfl
@[simp] theorem announce_watch (k : EventKind) (d : Option Degree) (code : Nat) (s : State) (x : Degree) :
    (announce k d code s).watch x = s.watch x := rfl
@[simp] theorem announce_act (k : EventKind) (d : Option Degree) (code : Nat) (s : State) (x : Degree) :
    (announce k d code s).act x = s.act x := rfl
@[simp] theorem announce_ctx (k : EventKind) (d : Option Degree) (code : Nat) (s : State) (id : JobId) :
    (announce k d code s).ctx? id = s.ctx? id := rfl
@[simp] theorem announce_leg (k : EventKind) (d : Option Degree) (code : Nat) (s : State) (x : LegRef) :
    (announce k d code s).leg? x = s.leg? x := rfl
@[simp] theorem send_deg (d : Degree) (m : Message) (s : State) (x : Degree) :
    (send d m s).deg x = s.deg x := rfl
@[simp] theorem send_port (d : Degree) (m : Message) (s : State) (x : Port) :
    (send d m s).port x = s.port x := rfl
@[simp] theorem send_arb (d : Degree) (m : Message) (s : State) (x : Degree) :
    (send d m s).arb x = s.arb x := rfl
@[simp] theorem send_watch (d : Degree) (m : Message) (s : State) (x : Degree) :
    (send d m s).watch x = s.watch x := rfl
@[simp] theorem send_act (d : Degree) (m : Message) (s : State) (x : Degree) :
    (send d m s).act x = s.act x := rfl
@[simp] theorem send_ctx (d : Degree) (m : Message) (s : State) (id : JobId) :
    (send d m s).ctx? id = s.ctx? id := rfl
@[simp] theorem send_leg (d : Degree) (m : Message) (s : State) (x : LegRef) :
    (send d m s).leg? x = s.leg? x := rfl
@[simp] theorem changeFor_deg (c : Context) (runs : List (Degree × MapDir)) (f : SliceEntry → SliceEntry) (s : State) (x : Degree) :
    (changeFor c runs f s).deg x = s.deg x := rfl
@[simp] theorem changeFor_port (c : Context) (runs : List (Degree × MapDir)) (f : SliceEntry → SliceEntry) (s : State) (x : Port) :
    (changeFor c runs f s).port x = s.port x := rfl
@[simp] theorem changeFor_link (c : Context) (runs : List (Degree × MapDir)) (f : SliceEntry → SliceEntry) (s : State) (x : Degree) :
    (changeFor c runs f s).link x = s.link x := rfl
@[simp] theorem changeFor_arb (c : Context) (runs : List (Degree × MapDir)) (f : SliceEntry → SliceEntry) (s : State) (x : Degree) :
    (changeFor c runs f s).arb x = s.arb x := rfl
@[simp] theorem changeFor_watch (c : Context) (runs : List (Degree × MapDir)) (f : SliceEntry → SliceEntry) (s : State) (x : Degree) :
    (changeFor c runs f s).watch x = s.watch x := rfl
@[simp] theorem changeFor_act (c : Context) (runs : List (Degree × MapDir)) (f : SliceEntry → SliceEntry) (s : State) (x : Degree) :
    (changeFor c runs f s).act x = s.act x := rfl
@[simp] theorem changeFor_ctx (c : Context) (runs : List (Degree × MapDir)) (f : SliceEntry → SliceEntry) (s : State) (id : JobId) :
    (changeFor c runs f s).ctx? id = s.ctx? id := rfl
@[simp] theorem changeFor_leg (c : Context) (runs : List (Degree × MapDir)) (f : SliceEntry → SliceEntry) (s : State) (x : LegRef) :
    (changeFor c runs f s).leg? x = s.leg? x := rfl
@[simp] theorem releaseSet_deg (c : Context) (s : State) (x : Degree) :
    (releaseSet c s).deg x = s.deg x := rfl
@[simp] theorem releaseSet_port (c : Context) (s : State) (x : Port) :
    (releaseSet c s).port x = s.port x := rfl
@[simp] theorem releaseSet_link (c : Context) (s : State) (x : Degree) :
    (releaseSet c s).link x = s.link x := rfl
@[simp] theorem releaseSet_arb (c : Context) (s : State) (x : Degree) :
    (releaseSet c s).arb x = s.arb x := rfl
@[simp] theorem releaseSet_watch (c : Context) (s : State) (x : Degree) :
    (releaseSet c s).watch x = s.watch x := rfl
@[simp] theorem releaseSet_act (c : Context) (s : State) (x : Degree) :
    (releaseSet c s).act x = s.act x := rfl
@[simp] theorem releaseSet_ctx (c : Context) (s : State) (id : JobId) :
    (releaseSet c s).ctx? id = s.ctx? id := rfl
@[simp] theorem releaseSet_leg (c : Context) (s : State) (x : LegRef) :
    (releaseSet c s).leg? x = s.leg? x := rfl
@[simp] theorem writeResult_deg (c : Context) (o : JobOutcome) (fl : Option Failure) (s : State) (x : Degree) :
    (writeResult c o fl s).deg x = s.deg x := rfl
@[simp] theorem writeResult_port (c : Context) (o : JobOutcome) (fl : Option Failure) (s : State) (x : Port) :
    (writeResult c o fl s).port x = s.port x := rfl
@[simp] theorem writeResult_link (c : Context) (o : JobOutcome) (fl : Option Failure) (s : State) (x : Degree) :
    (writeResult c o fl s).link x = s.link x := rfl
@[simp] theorem writeResult_arb (c : Context) (o : JobOutcome) (fl : Option Failure) (s : State) (x : Degree) :
    (writeResult c o fl s).arb x = s.arb x := rfl
@[simp] theorem writeResult_watch (c : Context) (o : JobOutcome) (fl : Option Failure) (s : State) (x : Degree) :
    (writeResult c o fl s).watch x = s.watch x := rfl
@[simp] theorem writeResult_act (c : Context) (o : JobOutcome) (fl : Option Failure) (s : State) (x : Degree) :
    (writeResult c o fl s).act x = s.act x := rfl
@[simp] theorem writeResult_ctx (c : Context) (o : JobOutcome) (fl : Option Failure) (s : State) (id : JobId) :
    (writeResult c o fl s).ctx? id = s.ctx? id := rfl
@[simp] theorem writeResult_leg (c : Context) (o : JobOutcome) (fl : Option Failure) (s : State) (x : LegRef) :
    (writeResult c o fl s).leg? x = s.leg? x := rfl
@[simp] theorem raisePort_deg (p : Port) (s : State) (x : Degree) :
    (raisePort p s).deg x = s.deg x := rfl
@[simp] theorem raisePort_link (p : Port) (s : State) (x : Degree) :
    (raisePort p s).link x = s.link x := rfl
@[simp] theorem raisePort_arb (p : Port) (s : State) (x : Degree) :
    (raisePort p s).arb x = s.arb x := rfl
@[simp] theorem raisePort_watch (p : Port) (s : State) (x : Degree) :
    (raisePort p s).watch x = s.watch x := rfl
@[simp] theorem raisePort_act (p : Port) (s : State) (x : Degree) :
    (raisePort p s).act x = s.act x := rfl
@[simp] theorem raisePort_ctx (p : Port) (s : State) (id : JobId) :
    (raisePort p s).ctx? id = s.ctx? id := rfl
@[simp] theorem raisePort_leg (p : Port) (s : State) (x : LegRef) :
    (raisePort p s).leg? x = s.leg? x := rfl
@[simp] theorem requestScan_deg (q : ScanRequest) (s : State) (x : Degree) :
    (requestScan q s).deg x = s.deg x := rfl
@[simp] theorem requestScan_port (q : ScanRequest) (s : State) (x : Port) :
    (requestScan q s).port x = s.port x := rfl
@[simp] theorem requestScan_link (q : ScanRequest) (s : State) (x : Degree) :
    (requestScan q s).link x = s.link x := rfl
@[simp] theorem requestScan_arb (q : ScanRequest) (s : State) (x : Degree) :
    (requestScan q s).arb x = s.arb x := rfl
@[simp] theorem requestScan_watch (q : ScanRequest) (s : State) (x : Degree) :
    (requestScan q s).watch x = s.watch x := rfl
@[simp] theorem requestScan_act (q : ScanRequest) (s : State) (x : Degree) :
    (requestScan q s).act x = s.act x := rfl
@[simp] theorem requestScan_ctx (q : ScanRequest) (s : State) (id : JobId) :
    (requestScan q s).ctx? id = s.ctx? id := rfl
@[simp] theorem requestScan_leg (q : ScanRequest) (s : State) (x : LegRef) :
    (requestScan q s).leg? x = s.leg? x := rfl

/-! ### Fields an operation leaves as they are -/

@[simp] theorem modPort_pending (p : Port) (f : SlotLink → SlotLink) (s : State) :
    (modPort p f s).pending = s.pending := rfl
@[simp] theorem modPort_running (p : Port) (f : SlotLink → SlotLink) (s : State) :
    (modPort p f s).running = s.running := rfl
@[simp] theorem modPort_time (p : Port) (f : SlotLink → SlotLink) (s : State) :
    (modPort p f s).time = s.time := rfl
@[simp] theorem modPort_seqCounter (p : Port) (f : SlotLink → SlotLink) (s : State) :
    (modPort p f s).seqCounter = s.seqCounter := rfl
@[simp] theorem modPort_node (p : Port) (f : SlotLink → SlotLink) (s : State) :
    (modPort p f s).node = s.node := rfl
@[simp] theorem modPort_degrees (p : Port) (f : SlotLink → SlotLink) (s : State) :
    (modPort p f s).degrees = s.degrees := rfl
@[simp] theorem modPort_links (p : Port) (f : SlotLink → SlotLink) (s : State) :
    (modPort p f s).links = s.links := rfl
@[simp] theorem modPort_map (p : Port) (f : SlotLink → SlotLink) (s : State) :
    (modPort p f s).map = s.map := rfl
@[simp] theorem modPort_jobs (p : Port) (f : SlotLink → SlotLink) (s : State) :
    (modPort p f s).jobs = s.jobs := rfl
@[simp] theorem modPort_frozenOrder (p : Port) (f : SlotLink → SlotLink) (s : State) :
    (modPort p f s).frozenOrder = s.frozenOrder := rfl
@[simp] theorem modPort_arbiters (p : Port) (f : SlotLink → SlotLink) (s : State) :
    (modPort p f s).arbiters = s.arbiters := rfl
@[simp] theorem modPort_monitor (p : Port) (f : SlotLink → SlotLink) (s : State) :
    (modPort p f s).monitor = s.monitor := rfl
@[simp] theorem modPort_watches (p : Port) (f : SlotLink → SlotLink) (s : State) :
    (modPort p f s).watches = s.watches := rfl
@[simp] theorem modPort_actuators (p : Port) (f : SlotLink → SlotLink) (s : State) :
    (modPort p f s).actuators = s.actuators := rfl
@[simp] theorem modPort_results (p : Port) (f : SlotLink → SlotLink) (s : State) :
    (modPort p f s).results = s.results := rfl
@[simp] theorem modLink_pending (d : Degree) (f : Link → Link) (s : State) :
    (modLink d f s).pending = s.pending := rfl
@[simp] theorem modLink_running (d : Degree) (f : Link → Link) (s : State) :
    (modLink d f s).running = s.running := rfl
@[simp] theorem modLink_time (d : Degree) (f : Link → Link) (s : State) :
    (modLink d f s).time = s.time := rfl
@[simp] theorem modLink_seqCounter (d : Degree) (f : Link → Link) (s : State) :
    (modLink d f s).seqCounter = s.seqCounter := rfl
@[simp] theorem modLink_node (d : Degree) (f : Link → Link) (s : State) :
    (modLink d f s).node = s.node := rfl
@[simp] theorem modLink_degrees (d : Degree) (f : Link → Link) (s : State) :
    (modLink d f s).degrees = s.degrees := rfl
@[simp] theorem modLink_ports (d : Degree) (f : Link → Link) (s : State) :
    (modLink d f s).ports = s.ports := rfl
@[simp] theorem modLink_map (d : Degree) (f : Link → Link) (s : State) :
    (modLink d f s).map = s.map := rfl
@[simp] theorem modLink_jobs (d : Degree) (f : Link → Link) (s : State) :
    (modLink d f s).jobs = s.jobs := rfl
@[simp] theorem modLink_frozenOrder (d : Degree) (f : Link → Link) (s : State) :
    (modLink d f s).frozenOrder = s.frozenOrder := rfl
@[simp] theorem modLink_arbiters (d : Degree) (f : Link → Link) (s : State) :
    (modLink d f s).arbiters = s.arbiters := rfl
@[simp] theorem modLink_monitor (d : Degree) (f : Link → Link) (s : State) :
    (modLink d f s).monitor = s.monitor := rfl
@[simp] theorem modLink_watches (d : Degree) (f : Link → Link) (s : State) :
    (modLink d f s).watches = s.watches := rfl
@[simp] theorem modLink_actuators (d : Degree) (f : Link → Link) (s : State) :
    (modLink d f s).actuators = s.actuators := rfl
@[simp] theorem modLink_results (d : Degree) (f : Link → Link) (s : State) :
    (modLink d f s).results = s.results := rfl
@[simp] theorem modArb_pending (d : Degree) (f : Arbiter → Arbiter) (s : State) :
    (modArb d f s).pending = s.pending := rfl
@[simp] theorem modArb_running (d : Degree) (f : Arbiter → Arbiter) (s : State) :
    (modArb d f s).running = s.running := rfl
@[simp] theorem modArb_time (d : Degree) (f : Arbiter → Arbiter) (s : State) :
    (modArb d f s).time = s.time := rfl
@[simp] theorem modArb_seqCounter (d : Degree) (f : Arbiter → Arbiter) (s : State) :
    (modArb d f s).seqCounter = s.seqCounter := rfl
@[simp] theorem modArb_node (d : Degree) (f : Arbiter → Arbiter) (s : State) :
    (modArb d f s).node = s.node := rfl
@[simp] theorem modArb_degrees (d : Degree) (f : Arbiter → Arbiter) (s : State) :
    (modArb d f s).degrees = s.degrees := rfl
@[simp] theorem modArb_ports (d : Degree) (f : Arbiter → Arbiter) (s : State) :
    (modArb d f s).ports = s.ports := rfl
@[simp] theorem modArb_links (d : Degree) (f : Arbiter → Arbiter) (s : State) :
    (modArb d f s).links = s.links := rfl
@[simp] theorem modArb_map (d : Degree) (f : Arbiter → Arbiter) (s : State) :
    (modArb d f s).map = s.map := rfl
@[simp] theorem modArb_jobs (d : Degree) (f : Arbiter → Arbiter) (s : State) :
    (modArb d f s).jobs = s.jobs := rfl
@[simp] theorem modArb_frozenOrder (d : Degree) (f : Arbiter → Arbiter) (s : State) :
    (modArb d f s).frozenOrder = s.frozenOrder := rfl
@[simp] theorem modArb_monitor (d : Degree) (f : Arbiter → Arbiter) (s : State) :
    (modArb d f s).monitor = s.monitor := rfl
@[simp] theorem modArb_watches (d : Degree) (f : Arbiter → Arbiter) (s : State) :
    (modArb d f s).watches = s.watches := rfl
@[simp] theorem modArb_actuators (d : Degree) (f : Arbiter → Arbiter) (s : State) :
    (modArb d f s).actuators = s.actuators := rfl
@[simp] theorem modArb_results (d : Degree) (f : Arbiter → Arbiter) (s : State) :
    (modArb d f s).results = s.results := rfl
@[simp] theorem modWatch_pending (d : Degree) (f : Watch → Watch) (s : State) :
    (modWatch d f s).pending = s.pending := rfl
@[simp] theorem modWatch_running (d : Degree) (f : Watch → Watch) (s : State) :
    (modWatch d f s).running = s.running := rfl
@[simp] theorem modWatch_time (d : Degree) (f : Watch → Watch) (s : State) :
    (modWatch d f s).time = s.time := rfl
@[simp] theorem modWatch_seqCounter (d : Degree) (f : Watch → Watch) (s : State) :
    (modWatch d f s).seqCounter = s.seqCounter := rfl
@[simp] theorem modWatch_node (d : Degree) (f : Watch → Watch) (s : State) :
    (modWatch d f s).node = s.node := rfl
@[simp] theorem modWatch_degrees (d : Degree) (f : Watch → Watch) (s : State) :
    (modWatch d f s).degrees = s.degrees := rfl
@[simp] theorem modWatch_ports (d : Degree) (f : Watch → Watch) (s : State) :
    (modWatch d f s).ports = s.ports := rfl
@[simp] theorem modWatch_links (d : Degree) (f : Watch → Watch) (s : State) :
    (modWatch d f s).links = s.links := rfl
@[simp] theorem modWatch_map (d : Degree) (f : Watch → Watch) (s : State) :
    (modWatch d f s).map = s.map := rfl
@[simp] theorem modWatch_jobs (d : Degree) (f : Watch → Watch) (s : State) :
    (modWatch d f s).jobs = s.jobs := rfl
@[simp] theorem modWatch_frozenOrder (d : Degree) (f : Watch → Watch) (s : State) :
    (modWatch d f s).frozenOrder = s.frozenOrder := rfl
@[simp] theorem modWatch_arbiters (d : Degree) (f : Watch → Watch) (s : State) :
    (modWatch d f s).arbiters = s.arbiters := rfl
@[simp] theorem modWatch_monitor (d : Degree) (f : Watch → Watch) (s : State) :
    (modWatch d f s).monitor = s.monitor := rfl
@[simp] theorem modWatch_actuators (d : Degree) (f : Watch → Watch) (s : State) :
    (modWatch d f s).actuators = s.actuators := rfl
@[simp] theorem modWatch_results (d : Degree) (f : Watch → Watch) (s : State) :
    (modWatch d f s).results = s.results := rfl
@[simp] theorem modAct_pending (d : Degree) (f : Actuator → Actuator) (s : State) :
    (modAct d f s).pending = s.pending := rfl
@[simp] theorem modAct_running (d : Degree) (f : Actuator → Actuator) (s : State) :
    (modAct d f s).running = s.running := rfl
@[simp] theorem modAct_time (d : Degree) (f : Actuator → Actuator) (s : State) :
    (modAct d f s).time = s.time := rfl
@[simp] theorem modAct_seqCounter (d : Degree) (f : Actuator → Actuator) (s : State) :
    (modAct d f s).seqCounter = s.seqCounter := rfl
@[simp] theorem modAct_node (d : Degree) (f : Actuator → Actuator) (s : State) :
    (modAct d f s).node = s.node := rfl
@[simp] theorem modAct_degrees (d : Degree) (f : Actuator → Actuator) (s : State) :
    (modAct d f s).degrees = s.degrees := rfl
@[simp] theorem modAct_ports (d : Degree) (f : Actuator → Actuator) (s : State) :
    (modAct d f s).ports = s.ports := rfl
@[simp] theorem modAct_links (d : Degree) (f : Actuator → Actuator) (s : State) :
    (modAct d f s).links = s.links := rfl
@[simp] theorem modAct_map (d : Degree) (f : Actuator → Actuator) (s : State) :
    (modAct d f s).map = s.map := rfl
@[simp] theorem modAct_jobs (d : Degree) (f : Actuator → Actuator) (s : State) :
    (modAct d f s).jobs = s.jobs := rfl
@[simp] theorem modAct_frozenOrder (d : Degree) (f : Actuator → Actuator) (s : State) :
    (modAct d f s).frozenOrder = s.frozenOrder := rfl
@[simp] theorem modAct_arbiters (d : Degree) (f : Actuator → Actuator) (s : State) :
    (modAct d f s).arbiters = s.arbiters := rfl
@[simp] theorem modAct_monitor (d : Degree) (f : Actuator → Actuator) (s : State) :
    (modAct d f s).monitor = s.monitor := rfl
@[simp] theorem modAct_watches (d : Degree) (f : Actuator → Actuator) (s : State) :
    (modAct d f s).watches = s.watches := rfl
@[simp] theorem modAct_results (d : Degree) (f : Actuator → Actuator) (s : State) :
    (modAct d f s).results = s.results := rfl
@[simp] theorem modMonitor_pending (f : Monitor → Monitor) (s : State) :
    (modMonitor f s).pending = s.pending := rfl
@[simp] theorem modMonitor_running (f : Monitor → Monitor) (s : State) :
    (modMonitor f s).running = s.running := rfl
@[simp] theorem modMonitor_time (f : Monitor → Monitor) (s : State) :
    (modMonitor f s).time = s.time := rfl
@[simp] theorem modMonitor_seqCounter (f : Monitor → Monitor) (s : State) :
    (modMonitor f s).seqCounter = s.seqCounter := rfl
@[simp] theorem modMonitor_node (f : Monitor → Monitor) (s : State) :
    (modMonitor f s).node = s.node := rfl
@[simp] theorem modMonitor_degrees (f : Monitor → Monitor) (s : State) :
    (modMonitor f s).degrees = s.degrees := rfl
@[simp] theorem modMonitor_ports (f : Monitor → Monitor) (s : State) :
    (modMonitor f s).ports = s.ports := rfl
@[simp] theorem modMonitor_links (f : Monitor → Monitor) (s : State) :
    (modMonitor f s).links = s.links := rfl
@[simp] theorem modMonitor_map (f : Monitor → Monitor) (s : State) :
    (modMonitor f s).map = s.map := rfl
@[simp] theorem modMonitor_jobs (f : Monitor → Monitor) (s : State) :
    (modMonitor f s).jobs = s.jobs := rfl
@[simp] theorem modMonitor_frozenOrder (f : Monitor → Monitor) (s : State) :
    (modMonitor f s).frozenOrder = s.frozenOrder := rfl
@[simp] theorem modMonitor_arbiters (f : Monitor → Monitor) (s : State) :
    (modMonitor f s).arbiters = s.arbiters := rfl
@[simp] theorem modMonitor_watches (f : Monitor → Monitor) (s : State) :
    (modMonitor f s).watches = s.watches := rfl
@[simp] theorem modMonitor_actuators (f : Monitor → Monitor) (s : State) :
    (modMonitor f s).actuators = s.actuators := rfl
@[simp] theorem modMonitor_results (f : Monitor → Monitor) (s : State) :
    (modMonitor f s).results = s.results := rfl
@[simp] theorem modResults_pending (f : Results → Results) (s : State) :
    (modResults f s).pending = s.pending := rfl
@[simp] theorem modResults_running (f : Results → Results) (s : State) :
    (modResults f s).running = s.running := rfl
@[simp] theorem modResults_time (f : Results → Results) (s : State) :
    (modResults f s).time = s.time := rfl
@[simp] theorem modResults_seqCounter (f : Results → Results) (s : State) :
    (modResults f s).seqCounter = s.seqCounter := rfl
@[simp] theorem modResults_node (f : Results → Results) (s : State) :
    (modResults f s).node = s.node := rfl
@[simp] theorem modResults_degrees (f : Results → Results) (s : State) :
    (modResults f s).degrees = s.degrees := rfl
@[simp] theorem modResults_ports (f : Results → Results) (s : State) :
    (modResults f s).ports = s.ports := rfl
@[simp] theorem modResults_links (f : Results → Results) (s : State) :
    (modResults f s).links = s.links := rfl
@[simp] theorem modResults_map (f : Results → Results) (s : State) :
    (modResults f s).map = s.map := rfl
@[simp] theorem modResults_jobs (f : Results → Results) (s : State) :
    (modResults f s).jobs = s.jobs := rfl
@[simp] theorem modResults_frozenOrder (f : Results → Results) (s : State) :
    (modResults f s).frozenOrder = s.frozenOrder := rfl
@[simp] theorem modResults_arbiters (f : Results → Results) (s : State) :
    (modResults f s).arbiters = s.arbiters := rfl
@[simp] theorem modResults_monitor (f : Results → Results) (s : State) :
    (modResults f s).monitor = s.monitor := rfl
@[simp] theorem modResults_watches (f : Results → Results) (s : State) :
    (modResults f s).watches = s.watches := rfl
@[simp] theorem modResults_actuators (f : Results → Results) (s : State) :
    (modResults f s).actuators = s.actuators := rfl
@[simp] theorem modMap_pending (f : SpectrumMap → SpectrumMap) (s : State) :
    (modMap f s).pending = s.pending := rfl
@[simp] theorem modMap_running (f : SpectrumMap → SpectrumMap) (s : State) :
    (modMap f s).running = s.running := rfl
@[simp] theorem modMap_time (f : SpectrumMap → SpectrumMap) (s : State) :
    (modMap f s).time = s.time := rfl
@[simp] theorem modMap_seqCounter (f : SpectrumMap → SpectrumMap) (s : State) :
    (modMap f s).seqCounter = s.seqCounter := rfl
@[simp] theorem modMap_node (f : SpectrumMap → SpectrumMap) (s : State) :
    (modMap f s).node = s.node := rfl
@[simp] theorem modMap_degrees (f : SpectrumMap → SpectrumMap) (s : State) :
    (modMap f s).degrees = s.degrees := rfl
@[simp] theorem modMap_ports (f : SpectrumMap → SpectrumMap) (s : State) :
    (modMap f s).ports = s.ports := rfl
@[simp] theorem modMap_links (f : SpectrumMap → SpectrumMap) (s : State) :
    (modMap f s).links = s.links := rfl
@[simp] theorem modMap_jobs (f : SpectrumMap → SpectrumMap) (s : State) :
    (modMap f s).jobs = s.jobs := rfl
@[simp] theorem modMap_frozenOrder (f : SpectrumMap → SpectrumMap) (s : State) :
    (modMap f s).frozenOrder = s.frozenOrder := rfl
@[simp] theorem modMap_arbiters (f : SpectrumMap → SpectrumMap) (s : State) :
    (modMap f s).arbiters = s.arbiters := rfl
@[simp] theorem modMap_monitor (f : SpectrumMap → SpectrumMap) (s : State) :
    (modMap f s).monitor = s.monitor := rfl
@[simp] theorem modMap_watches (f : SpectrumMap → SpectrumMap) (s : State) :
    (modMap f s).watches = s.watches := rfl
@[simp] theorem modMap_actuators (f : SpectrumMap → SpectrumMap) (s : State) :
    (modMap f s).actuators = s.actuators := rfl
@[simp] theorem modMap_results (f : SpectrumMap → SpectrumMap) (s : State) :
    (modMap f s).results = s.results := rfl
@[simp] theorem modCtx_pending (id : JobId) (f : Context → Context) (s : State) :
    (modCtx id f s).pending = s.pending := rfl
@[simp] theorem modCtx_running (id : JobId) (f : Context → Context) (s : State) :
    (modCtx id f s).running = s.running := rfl
@[simp] theorem modCtx_time (id : JobId) (f : Context → Context) (s : State) :
    (modCtx id f s).time = s.time := rfl
@[simp] theorem modCtx_seqCounter (id : JobId) (f : Context → Context) (s : State) :
    (modCtx id f s).seqCounter = s.seqCounter := rfl
@[simp] theorem modCtx_node (id : JobId) (f : Context → Context) (s : State) :
    (modCtx id f s).node = s.node := rfl
@[simp] theorem modCtx_degrees (id : JobId) (f : Context → Context) (s : State) :
    (modCtx id f s).degrees = s.degrees := rfl
@[simp] theorem modCtx_ports (id : JobId) (f : Context → Context) (s : State) :
    (modCtx id f s).ports = s.ports := rfl
@[simp] theorem modCtx_links (id : JobId) (f : Context → Context) (s : State) :
    (modCtx id f s).links = s.links := rfl
@[simp] theorem modCtx_map (id : JobId) (f : Context → Context) (s : State) :
    (modCtx id f s).map = s.map := rfl
@[simp] theorem modCtx_frozenOrder (id : JobId) (f : Context → Context) (s : State) :
    (modCtx id f s).frozenOrder = s.frozenOrder := rfl
@[simp] theorem modCtx_arbiters (id : JobId) (f : Context → Context) (s : State) :
    (modCtx id f s).arbiters = s.arbiters := rfl
@[simp] theorem modCtx_monitor (id : JobId) (f : Context → Context) (s : State) :
    (modCtx id f s).monitor = s.monitor := rfl
@[simp] theorem modCtx_watches (id : JobId) (f : Context → Context) (s : State) :
    (modCtx id f s).watches = s.watches := rfl
@[simp] theorem modCtx_actuators (id : JobId) (f : Context → Context) (s : State) :
    (modCtx id f s).actuators = s.actuators := rfl
@[simp] theorem modCtx_results (id : JobId) (f : Context → Context) (s : State) :
    (modCtx id f s).results = s.results := rfl
@[simp] theorem addCtx_pending (c : Context) (s : State) :
    (addCtx c s).pending = s.pending := rfl
@[simp] theorem addCtx_running (c : Context) (s : State) :
    (addCtx c s).running = s.running := rfl
@[simp] theorem addCtx_time (c : Context) (s : State) :
    (addCtx c s).time = s.time := rfl
@[simp] theorem addCtx_seqCounter (c : Context) (s : State) :
    (addCtx c s).seqCounter = s.seqCounter := rfl
@[simp] theorem addCtx_node (c : Context) (s : State) :
    (addCtx c s).node = s.node := rfl
@[simp] theorem addCtx_degrees (c : Context) (s : State) :
    (addCtx c s).degrees = s.degrees := rfl
@[simp] theorem addCtx_ports (c : Context) (s : State) :
    (addCtx c s).ports = s.ports := rfl
@[simp] theorem addCtx_links (c : Context) (s : State) :
    (addCtx c s).links = s.links := rfl
@[simp] theorem addCtx_map (c : Context) (s : State) :
    (addCtx c s).map = s.map := rfl
@[simp] theorem addCtx_frozenOrder (c : Context) (s : State) :
    (addCtx c s).frozenOrder = s.frozenOrder := rfl
@[simp] theorem addCtx_arbiters (c : Context) (s : State) :
    (addCtx c s).arbiters = s.arbiters := rfl
@[simp] theorem addCtx_monitor (c : Context) (s : State) :
    (addCtx c s).monitor = s.monitor := rfl
@[simp] theorem addCtx_watches (c : Context) (s : State) :
    (addCtx c s).watches = s.watches := rfl
@[simp] theorem addCtx_actuators (c : Context) (s : State) :
    (addCtx c s).actuators = s.actuators := rfl
@[simp] theorem addCtx_results (c : Context) (s : State) :
    (addCtx c s).results = s.results := rfl
@[simp] theorem dropCtx_pending (id : JobId) (s : State) :
    (dropCtx id s).pending = s.pending := rfl
@[simp] theorem dropCtx_running (id : JobId) (s : State) :
    (dropCtx id s).running = s.running := rfl
@[simp] theorem dropCtx_time (id : JobId) (s : State) :
    (dropCtx id s).time = s.time := rfl
@[simp] theorem dropCtx_seqCounter (id : JobId) (s : State) :
    (dropCtx id s).seqCounter = s.seqCounter := rfl
@[simp] theorem dropCtx_node (id : JobId) (s : State) :
    (dropCtx id s).node = s.node := rfl
@[simp] theorem dropCtx_degrees (id : JobId) (s : State) :
    (dropCtx id s).degrees = s.degrees := rfl
@[simp] theorem dropCtx_ports (id : JobId) (s : State) :
    (dropCtx id s).ports = s.ports := rfl
@[simp] theorem dropCtx_links (id : JobId) (s : State) :
    (dropCtx id s).links = s.links := rfl
@[simp] theorem dropCtx_map (id : JobId) (s : State) :
    (dropCtx id s).map = s.map := rfl
@[simp] theorem dropCtx_frozenOrder (id : JobId) (s : State) :
    (dropCtx id s).frozenOrder = s.frozenOrder := rfl
@[simp] theorem dropCtx_arbiters (id : JobId) (s : State) :
    (dropCtx id s).arbiters = s.arbiters := rfl
@[simp] theorem dropCtx_monitor (id : JobId) (s : State) :
    (dropCtx id s).monitor = s.monitor := rfl
@[simp] theorem dropCtx_watches (id : JobId) (s : State) :
    (dropCtx id s).watches = s.watches := rfl
@[simp] theorem dropCtx_actuators (id : JobId) (s : State) :
    (dropCtx id s).actuators = s.actuators := rfl
@[simp] theorem dropCtx_results (id : JobId) (s : State) :
    (dropCtx id s).results = s.results := rfl
@[simp] theorem modLeg_pending (r : LegRef) (f : LineLeg → LineLeg) (s : State) :
    (modLeg r f s).pending = s.pending := rfl
@[simp] theorem modLeg_running (r : LegRef) (f : LineLeg → LineLeg) (s : State) :
    (modLeg r f s).running = s.running := rfl
@[simp] theorem modLeg_time (r : LegRef) (f : LineLeg → LineLeg) (s : State) :
    (modLeg r f s).time = s.time := rfl
@[simp] theorem modLeg_seqCounter (r : LegRef) (f : LineLeg → LineLeg) (s : State) :
    (modLeg r f s).seqCounter = s.seqCounter := rfl
@[simp] theorem modLeg_node (r : LegRef) (f : LineLeg → LineLeg) (s : State) :
    (modLeg r f s).node = s.node := rfl
@[simp] theorem modLeg_degrees (r : LegRef) (f : LineLeg → LineLeg) (s : State) :
    (modLeg r f s).degrees = s.degrees := rfl
@[simp] theorem modLeg_ports (r : LegRef) (f : LineLeg → LineLeg) (s : State) :
    (modLeg r f s).ports = s.ports := rfl
@[simp] theorem modLeg_links (r : LegRef) (f : LineLeg → LineLeg) (s : State) :
    (modLeg r f s).links = s.links := rfl
@[simp] theorem modLeg_map (r : LegRef) (f : LineLeg → LineLeg) (s : State) :
    (modLeg r f s).map = s.map := rfl
@[simp] theorem modLeg_frozenOrder (r : LegRef) (f : LineLeg → LineLeg) (s : State) :
    (modLeg r f s).frozenOrder = s.frozenOrder := rfl
@[simp] theorem modLeg_arbiters (r : LegRef) (f : LineLeg → LineLeg) (s : State) :
    (modLeg r f s).arbiters = s.arbiters := rfl
@[simp] theorem modLeg_monitor (r : LegRef) (f : LineLeg → LineLeg) (s : State) :
    (modLeg r f s).monitor = s.monitor := rfl
@[simp] theorem modLeg_watches (r : LegRef) (f : LineLeg → LineLeg) (s : State) :
    (modLeg r f s).watches = s.watches := rfl
@[simp] theorem modLeg_actuators (r : LegRef) (f : LineLeg → LineLeg) (s : State) :
    (modLeg r f s).actuators = s.actuators := rfl
@[simp] theorem modLeg_results (r : LegRef) (f : LineLeg → LineLeg) (s : State) :
    (modLeg r f s).results = s.results := rfl
@[simp] theorem storeNode_pending (n : NodeParams) (s : State) :
    (storeNode n s).pending = s.pending := rfl
@[simp] theorem storeNode_running (n : NodeParams) (s : State) :
    (storeNode n s).running = s.running := rfl
@[simp] theorem storeNode_time (n : NodeParams) (s : State) :
    (storeNode n s).time = s.time := rfl
@[simp] theorem storeNode_seqCounter (n : NodeParams) (s : State) :
    (storeNode n s).seqCounter = s.seqCounter := rfl
@[simp] theorem storeNode_degrees (n : NodeParams) (s : State) :
    (storeNode n s).degrees = s.degrees := rfl
@[simp] theorem storeNode_ports (n : NodeParams) (s : State) :
    (storeNode n s).ports = s.ports := rfl
@[simp] theorem storeNode_links (n : NodeParams) (s : State) :
    (storeNode n s).links = s.links := rfl
@[simp] theorem storeNode_map (n : NodeParams) (s : State) :
    (storeNode n s).map = s.map := rfl
@[simp] theorem storeNode_jobs (n : NodeParams) (s : State) :
    (storeNode n s).jobs = s.jobs := rfl
@[simp] theorem storeNode_frozenOrder (n : NodeParams) (s : State) :
    (storeNode n s).frozenOrder = s.frozenOrder := rfl
@[simp] theorem storeNode_arbiters (n : NodeParams) (s : State) :
    (storeNode n s).arbiters = s.arbiters := rfl
@[simp] theorem storeNode_monitor (n : NodeParams) (s : State) :
    (storeNode n s).monitor = s.monitor := rfl
@[simp] theorem storeNode_watches (n : NodeParams) (s : State) :
    (storeNode n s).watches = s.watches := rfl
@[simp] theorem storeNode_actuators (n : NodeParams) (s : State) :
    (storeNode n s).actuators = s.actuators := rfl
@[simp] theorem storeNode_results (n : NodeParams) (s : State) :
    (storeNode n s).results = s.results := rfl
@[simp] theorem storeDegree_pending (d : Degree) (p : DegreeParams) (s : State) :
    (storeDegree d p s).pending = s.pending := rfl
@[simp] theorem storeDegree_running (d : Degree) (p : DegreeParams) (s : State) :
    (storeDegree d p s).running = s.running := rfl
@[simp] theorem storeDegree_time (d : Degree) (p : DegreeParams) (s : State) :
    (storeDegree d p s).time = s.time := rfl
@[simp] theorem storeDegree_seqCounter (d : Degree) (p : DegreeParams) (s : State) :
    (storeDegree d p s).seqCounter = s.seqCounter := rfl
@[simp] theorem storeDegree_node (d : Degree) (p : DegreeParams) (s : State) :
    (storeDegree d p s).node = s.node := rfl
@[simp] theorem storeDegree_ports (d : Degree) (p : DegreeParams) (s : State) :
    (storeDegree d p s).ports = s.ports := rfl
@[simp] theorem storeDegree_links (d : Degree) (p : DegreeParams) (s : State) :
    (storeDegree d p s).links = s.links := rfl
@[simp] theorem storeDegree_map (d : Degree) (p : DegreeParams) (s : State) :
    (storeDegree d p s).map = s.map := rfl
@[simp] theorem storeDegree_jobs (d : Degree) (p : DegreeParams) (s : State) :
    (storeDegree d p s).jobs = s.jobs := rfl
@[simp] theorem storeDegree_frozenOrder (d : Degree) (p : DegreeParams) (s : State) :
    (storeDegree d p s).frozenOrder = s.frozenOrder := rfl
@[simp] theorem storeDegree_arbiters (d : Degree) (p : DegreeParams) (s : State) :
    (storeDegree d p s).arbiters = s.arbiters := rfl
@[simp] theorem storeDegree_monitor (d : Degree) (p : DegreeParams) (s : State) :
    (storeDegree d p s).monitor = s.monitor := rfl
@[simp] theorem storeDegree_watches (d : Degree) (p : DegreeParams) (s : State) :
    (storeDegree d p s).watches = s.watches := rfl
@[simp] theorem storeDegree_actuators (d : Degree) (p : DegreeParams) (s : State) :
    (storeDegree d p s).actuators = s.actuators := rfl
@[simp] theorem storeDegree_results (d : Degree) (p : DegreeParams) (s : State) :
    (storeDegree d p s).results = s.results := rfl
@[simp] theorem reply_pending (p : Port) (tag : Byte) (r : Reply) (s : State) :
    (reply p tag r s).pending = s.pending := rfl
@[simp] theorem reply_running (p : Port) (tag : Byte) (r : Reply) (s : State) :
    (reply p tag r s).running = s.running := rfl
@[simp] theorem reply_time (p : Port) (tag : Byte) (r : Reply) (s : State) :
    (reply p tag r s).time = s.time := rfl
@[simp] theorem reply_seqCounter (p : Port) (tag : Byte) (r : Reply) (s : State) :
    (reply p tag r s).seqCounter = s.seqCounter := rfl
@[simp] theorem reply_node (p : Port) (tag : Byte) (r : Reply) (s : State) :
    (reply p tag r s).node = s.node := rfl
@[simp] theorem reply_degrees (p : Port) (tag : Byte) (r : Reply) (s : State) :
    (reply p tag r s).degrees = s.degrees := rfl
@[simp] theorem reply_links (p : Port) (tag : Byte) (r : Reply) (s : State) :
    (reply p tag r s).links = s.links := rfl
@[simp] theorem reply_map (p : Port) (tag : Byte) (r : Reply) (s : State) :
    (reply p tag r s).map = s.map := rfl
@[simp] theorem reply_jobs (p : Port) (tag : Byte) (r : Reply) (s : State) :
    (reply p tag r s).jobs = s.jobs := rfl
@[simp] theorem reply_frozenOrder (p : Port) (tag : Byte) (r : Reply) (s : State) :
    (reply p tag r s).frozenOrder = s.frozenOrder := rfl
@[simp] theorem reply_arbiters (p : Port) (tag : Byte) (r : Reply) (s : State) :
    (reply p tag r s).arbiters = s.arbiters := rfl
@[simp] theorem reply_monitor (p : Port) (tag : Byte) (r : Reply) (s : State) :
    (reply p tag r s).monitor = s.monitor := rfl
@[simp] theorem reply_watches (p : Port) (tag : Byte) (r : Reply) (s : State) :
    (reply p tag r s).watches = s.watches := rfl
@[simp] theorem reply_actuators (p : Port) (tag : Byte) (r : Reply) (s : State) :
    (reply p tag r s).actuators = s.actuators := rfl
@[simp] theorem reply_results (p : Port) (tag : Byte) (r : Reply) (s : State) :
    (reply p tag r s).results = s.results := rfl
@[simp] theorem replyDone_pending (p : Port) (tag : Byte) (items : List Item) (s : State) :
    (replyDone p tag items s).pending = s.pending := rfl
@[simp] theorem replyDone_running (p : Port) (tag : Byte) (items : List Item) (s : State) :
    (replyDone p tag items s).running = s.running := rfl
@[simp] theorem replyDone_time (p : Port) (tag : Byte) (items : List Item) (s : State) :
    (replyDone p tag items s).time = s.time := rfl
@[simp] theorem replyDone_seqCounter (p : Port) (tag : Byte) (items : List Item) (s : State) :
    (replyDone p tag items s).seqCounter = s.seqCounter := rfl
@[simp] theorem replyDone_node (p : Port) (tag : Byte) (items : List Item) (s : State) :
    (replyDone p tag items s).node = s.node := rfl
@[simp] theorem replyDone_degrees (p : Port) (tag : Byte) (items : List Item) (s : State) :
    (replyDone p tag items s).degrees = s.degrees := rfl
@[simp] theorem replyDone_links (p : Port) (tag : Byte) (items : List Item) (s : State) :
    (replyDone p tag items s).links = s.links := rfl
@[simp] theorem replyDone_map (p : Port) (tag : Byte) (items : List Item) (s : State) :
    (replyDone p tag items s).map = s.map := rfl
@[simp] theorem replyDone_jobs (p : Port) (tag : Byte) (items : List Item) (s : State) :
    (replyDone p tag items s).jobs = s.jobs := rfl
@[simp] theorem replyDone_frozenOrder (p : Port) (tag : Byte) (items : List Item) (s : State) :
    (replyDone p tag items s).frozenOrder = s.frozenOrder := rfl
@[simp] theorem replyDone_arbiters (p : Port) (tag : Byte) (items : List Item) (s : State) :
    (replyDone p tag items s).arbiters = s.arbiters := rfl
@[simp] theorem replyDone_monitor (p : Port) (tag : Byte) (items : List Item) (s : State) :
    (replyDone p tag items s).monitor = s.monitor := rfl
@[simp] theorem replyDone_watches (p : Port) (tag : Byte) (items : List Item) (s : State) :
    (replyDone p tag items s).watches = s.watches := rfl
@[simp] theorem replyDone_actuators (p : Port) (tag : Byte) (items : List Item) (s : State) :
    (replyDone p tag items s).actuators = s.actuators := rfl
@[simp] theorem replyDone_results (p : Port) (tag : Byte) (items : List Item) (s : State) :
    (replyDone p tag items s).results = s.results := rfl
@[simp] theorem replyRefused_pending (p : Port) (tag : Byte) (r : Reason) (s : State) :
    (replyRefused p tag r s).pending = s.pending := rfl
@[simp] theorem replyRefused_running (p : Port) (tag : Byte) (r : Reason) (s : State) :
    (replyRefused p tag r s).running = s.running := rfl
@[simp] theorem replyRefused_time (p : Port) (tag : Byte) (r : Reason) (s : State) :
    (replyRefused p tag r s).time = s.time := rfl
@[simp] theorem replyRefused_seqCounter (p : Port) (tag : Byte) (r : Reason) (s : State) :
    (replyRefused p tag r s).seqCounter = s.seqCounter := rfl
@[simp] theorem replyRefused_node (p : Port) (tag : Byte) (r : Reason) (s : State) :
    (replyRefused p tag r s).node = s.node := rfl
@[simp] theorem replyRefused_degrees (p : Port) (tag : Byte) (r : Reason) (s : State) :
    (replyRefused p tag r s).degrees = s.degrees := rfl
@[simp] theorem replyRefused_links (p : Port) (tag : Byte) (r : Reason) (s : State) :
    (replyRefused p tag r s).links = s.links := rfl
@[simp] theorem replyRefused_map (p : Port) (tag : Byte) (r : Reason) (s : State) :
    (replyRefused p tag r s).map = s.map := rfl
@[simp] theorem replyRefused_jobs (p : Port) (tag : Byte) (r : Reason) (s : State) :
    (replyRefused p tag r s).jobs = s.jobs := rfl
@[simp] theorem replyRefused_frozenOrder (p : Port) (tag : Byte) (r : Reason) (s : State) :
    (replyRefused p tag r s).frozenOrder = s.frozenOrder := rfl
@[simp] theorem replyRefused_arbiters (p : Port) (tag : Byte) (r : Reason) (s : State) :
    (replyRefused p tag r s).arbiters = s.arbiters := rfl
@[simp] theorem replyRefused_monitor (p : Port) (tag : Byte) (r : Reason) (s : State) :
    (replyRefused p tag r s).monitor = s.monitor := rfl
@[simp] theorem replyRefused_watches (p : Port) (tag : Byte) (r : Reason) (s : State) :
    (replyRefused p tag r s).watches = s.watches := rfl
@[simp] theorem replyRefused_actuators (p : Port) (tag : Byte) (r : Reason) (s : State) :
    (replyRefused p tag r s).actuators = s.actuators := rfl
@[simp] theorem replyRefused_results (p : Port) (tag : Byte) (r : Reason) (s : State) :
    (replyRefused p tag r s).results = s.results := rfl
@[simp] theorem notify_pending (p : Port) (n : Notice) (s : State) :
    (notify p n s).pending = s.pending := rfl
@[simp] theorem notify_running (p : Port) (n : Notice) (s : State) :
    (notify p n s).running = s.running := rfl
@[simp] theorem notify_time (p : Port) (n : Notice) (s : State) :
    (notify p n s).time = s.time := rfl
@[simp] theorem notify_seqCounter (p : Port) (n : Notice) (s : State) :
    (notify p n s).seqCounter = s.seqCounter := rfl
@[simp] theorem notify_node (p : Port) (n : Notice) (s : State) :
    (notify p n s).node = s.node := rfl
@[simp] theorem notify_degrees (p : Port) (n : Notice) (s : State) :
    (notify p n s).degrees = s.degrees := rfl
@[simp] theorem notify_links (p : Port) (n : Notice) (s : State) :
    (notify p n s).links = s.links := rfl
@[simp] theorem notify_map (p : Port) (n : Notice) (s : State) :
    (notify p n s).map = s.map := rfl
@[simp] theorem notify_jobs (p : Port) (n : Notice) (s : State) :
    (notify p n s).jobs = s.jobs := rfl
@[simp] theorem notify_frozenOrder (p : Port) (n : Notice) (s : State) :
    (notify p n s).frozenOrder = s.frozenOrder := rfl
@[simp] theorem notify_arbiters (p : Port) (n : Notice) (s : State) :
    (notify p n s).arbiters = s.arbiters := rfl
@[simp] theorem notify_monitor (p : Port) (n : Notice) (s : State) :
    (notify p n s).monitor = s.monitor := rfl
@[simp] theorem notify_watches (p : Port) (n : Notice) (s : State) :
    (notify p n s).watches = s.watches := rfl
@[simp] theorem notify_actuators (p : Port) (n : Notice) (s : State) :
    (notify p n s).actuators = s.actuators := rfl
@[simp] theorem notify_results (p : Port) (n : Notice) (s : State) :
    (notify p n s).results = s.results := rfl
@[simp] theorem announce_pending (k : EventKind) (d : Option Degree) (code : Nat) (s : State) :
    (announce k d code s).pending = s.pending := rfl
@[simp] theorem announce_running (k : EventKind) (d : Option Degree) (code : Nat) (s : State) :
    (announce k d code s).running = s.running := rfl
@[simp] theorem announce_time (k : EventKind) (d : Option Degree) (code : Nat) (s : State) :
    (announce k d code s).time = s.time := rfl
@[simp] theorem announce_seqCounter (k : EventKind) (d : Option Degree) (code : Nat) (s : State) :
    (announce k d code s).seqCounter = s.seqCounter := rfl
@[simp] theorem announce_node (k : EventKind) (d : Option Degree) (code : Nat) (s : State) :
    (announce k d code s).node = s.node := rfl
@[simp] theorem announce_degrees (k : EventKind) (d : Option Degree) (code : Nat) (s : State) :
    (announce k d code s).degrees = s.degrees := rfl
@[simp] theorem announce_links (k : EventKind) (d : Option Degree) (code : Nat) (s : State) :
    (announce k d code s).links = s.links := rfl
@[simp] theorem announce_map (k : EventKind) (d : Option Degree) (code : Nat) (s : State) :
    (announce k d code s).map = s.map := rfl
@[simp] theorem announce_jobs (k : EventKind) (d : Option Degree) (code : Nat) (s : State) :
    (announce k d code s).jobs = s.jobs := rfl
@[simp] theorem announce_frozenOrder (k : EventKind) (d : Option Degree) (code : Nat) (s : State) :
    (announce k d code s).frozenOrder = s.frozenOrder := rfl
@[simp] theorem announce_arbiters (k : EventKind) (d : Option Degree) (code : Nat) (s : State) :
    (announce k d code s).arbiters = s.arbiters := rfl
@[simp] theorem announce_monitor (k : EventKind) (d : Option Degree) (code : Nat) (s : State) :
    (announce k d code s).monitor = s.monitor := rfl
@[simp] theorem announce_watches (k : EventKind) (d : Option Degree) (code : Nat) (s : State) :
    (announce k d code s).watches = s.watches := rfl
@[simp] theorem announce_actuators (k : EventKind) (d : Option Degree) (code : Nat) (s : State) :
    (announce k d code s).actuators = s.actuators := rfl
@[simp] theorem announce_results (k : EventKind) (d : Option Degree) (code : Nat) (s : State) :
    (announce k d code s).results = s.results := rfl
@[simp] theorem send_pending (d : Degree) (m : Message) (s : State) :
    (send d m s).pending = s.pending := rfl
@[simp] theorem send_running (d : Degree) (m : Message) (s : State) :
    (send d m s).running = s.running := rfl
@[simp] theorem send_time (d : Degree) (m : Message) (s : State) :
    (send d m s).time = s.time := rfl
@[simp] theorem send_seqCounter (d : Degree) (m : Message) (s : State) :
    (send d m s).seqCounter = s.seqCounter := rfl
@[simp] theorem send_node (d : Degree) (m : Message) (s : State) :
    (send d m s).node = s.node := rfl
@[simp] theorem send_degrees (d : Degree) (m : Message) (s : State) :
    (send d m s).degrees = s.degrees := rfl
@[simp] theorem send_ports (d : Degree) (m : Message) (s : State) :
    (send d m s).ports = s.ports := rfl
@[simp] theorem send_map (d : Degree) (m : Message) (s : State) :
    (send d m s).map = s.map := rfl
@[simp] theorem send_jobs (d : Degree) (m : Message) (s : State) :
    (send d m s).jobs = s.jobs := rfl
@[simp] theorem send_frozenOrder (d : Degree) (m : Message) (s : State) :
    (send d m s).frozenOrder = s.frozenOrder := rfl
@[simp] theorem send_arbiters (d : Degree) (m : Message) (s : State) :
    (send d m s).arbiters = s.arbiters := rfl
@[simp] theorem send_monitor (d : Degree) (m : Message) (s : State) :
    (send d m s).monitor = s.monitor := rfl
@[simp] theorem send_watches (d : Degree) (m : Message) (s : State) :
    (send d m s).watches = s.watches := rfl
@[simp] theorem send_actuators (d : Degree) (m : Message) (s : State) :
    (send d m s).actuators = s.actuators := rfl
@[simp] theorem send_results (d : Degree) (m : Message) (s : State) :
    (send d m s).results = s.results := rfl
@[simp] theorem changeFor_pending (c : Context) (runs : List (Degree × MapDir)) (f : SliceEntry → SliceEntry) (s : State) :
    (changeFor c runs f s).pending = s.pending := rfl
@[simp] theorem changeFor_running (c : Context) (runs : List (Degree × MapDir)) (f : SliceEntry → SliceEntry) (s : State) :
    (changeFor c runs f s).running = s.running := rfl
@[simp] theorem changeFor_time (c : Context) (runs : List (Degree × MapDir)) (f : SliceEntry → SliceEntry) (s : State) :
    (changeFor c runs f s).time = s.time := rfl
@[simp] theorem changeFor_seqCounter (c : Context) (runs : List (Degree × MapDir)) (f : SliceEntry → SliceEntry) (s : State) :
    (changeFor c runs f s).seqCounter = s.seqCounter := rfl
@[simp] theorem changeFor_node (c : Context) (runs : List (Degree × MapDir)) (f : SliceEntry → SliceEntry) (s : State) :
    (changeFor c runs f s).node = s.node := rfl
@[simp] theorem changeFor_degrees (c : Context) (runs : List (Degree × MapDir)) (f : SliceEntry → SliceEntry) (s : State) :
    (changeFor c runs f s).degrees = s.degrees := rfl
@[simp] theorem changeFor_ports (c : Context) (runs : List (Degree × MapDir)) (f : SliceEntry → SliceEntry) (s : State) :
    (changeFor c runs f s).ports = s.ports := rfl
@[simp] theorem changeFor_links (c : Context) (runs : List (Degree × MapDir)) (f : SliceEntry → SliceEntry) (s : State) :
    (changeFor c runs f s).links = s.links := rfl
@[simp] theorem changeFor_jobs (c : Context) (runs : List (Degree × MapDir)) (f : SliceEntry → SliceEntry) (s : State) :
    (changeFor c runs f s).jobs = s.jobs := rfl
@[simp] theorem changeFor_frozenOrder (c : Context) (runs : List (Degree × MapDir)) (f : SliceEntry → SliceEntry) (s : State) :
    (changeFor c runs f s).frozenOrder = s.frozenOrder := rfl
@[simp] theorem changeFor_arbiters (c : Context) (runs : List (Degree × MapDir)) (f : SliceEntry → SliceEntry) (s : State) :
    (changeFor c runs f s).arbiters = s.arbiters := rfl
@[simp] theorem changeFor_monitor (c : Context) (runs : List (Degree × MapDir)) (f : SliceEntry → SliceEntry) (s : State) :
    (changeFor c runs f s).monitor = s.monitor := rfl
@[simp] theorem changeFor_watches (c : Context) (runs : List (Degree × MapDir)) (f : SliceEntry → SliceEntry) (s : State) :
    (changeFor c runs f s).watches = s.watches := rfl
@[simp] theorem changeFor_actuators (c : Context) (runs : List (Degree × MapDir)) (f : SliceEntry → SliceEntry) (s : State) :
    (changeFor c runs f s).actuators = s.actuators := rfl
@[simp] theorem changeFor_results (c : Context) (runs : List (Degree × MapDir)) (f : SliceEntry → SliceEntry) (s : State) :
    (changeFor c runs f s).results = s.results := rfl
@[simp] theorem releaseSet_pending (c : Context) (s : State) :
    (releaseSet c s).pending = s.pending := rfl
@[simp] theorem releaseSet_running (c : Context) (s : State) :
    (releaseSet c s).running = s.running := rfl
@[simp] theorem releaseSet_time (c : Context) (s : State) :
    (releaseSet c s).time = s.time := rfl
@[simp] theorem releaseSet_seqCounter (c : Context) (s : State) :
    (releaseSet c s).seqCounter = s.seqCounter := rfl
@[simp] theorem releaseSet_node (c : Context) (s : State) :
    (releaseSet c s).node = s.node := rfl
@[simp] theorem releaseSet_degrees (c : Context) (s : State) :
    (releaseSet c s).degrees = s.degrees := rfl
@[simp] theorem releaseSet_ports (c : Context) (s : State) :
    (releaseSet c s).ports = s.ports := rfl
@[simp] theorem releaseSet_links (c : Context) (s : State) :
    (releaseSet c s).links = s.links := rfl
@[simp] theorem releaseSet_jobs (c : Context) (s : State) :
    (releaseSet c s).jobs = s.jobs := rfl
@[simp] theorem releaseSet_frozenOrder (c : Context) (s : State) :
    (releaseSet c s).frozenOrder = s.frozenOrder := rfl
@[simp] theorem releaseSet_arbiters (c : Context) (s : State) :
    (releaseSet c s).arbiters = s.arbiters := rfl
@[simp] theorem releaseSet_monitor (c : Context) (s : State) :
    (releaseSet c s).monitor = s.monitor := rfl
@[simp] theorem releaseSet_watches (c : Context) (s : State) :
    (releaseSet c s).watches = s.watches := rfl
@[simp] theorem releaseSet_actuators (c : Context) (s : State) :
    (releaseSet c s).actuators = s.actuators := rfl
@[simp] theorem releaseSet_results (c : Context) (s : State) :
    (releaseSet c s).results = s.results := rfl
@[simp] theorem writeResult_pending (c : Context) (o : JobOutcome) (fl : Option Failure) (s : State) :
    (writeResult c o fl s).pending = s.pending := rfl
@[simp] theorem writeResult_running (c : Context) (o : JobOutcome) (fl : Option Failure) (s : State) :
    (writeResult c o fl s).running = s.running := rfl
@[simp] theorem writeResult_time (c : Context) (o : JobOutcome) (fl : Option Failure) (s : State) :
    (writeResult c o fl s).time = s.time := rfl
@[simp] theorem writeResult_seqCounter (c : Context) (o : JobOutcome) (fl : Option Failure) (s : State) :
    (writeResult c o fl s).seqCounter = s.seqCounter := rfl
@[simp] theorem writeResult_node (c : Context) (o : JobOutcome) (fl : Option Failure) (s : State) :
    (writeResult c o fl s).node = s.node := rfl
@[simp] theorem writeResult_degrees (c : Context) (o : JobOutcome) (fl : Option Failure) (s : State) :
    (writeResult c o fl s).degrees = s.degrees := rfl
@[simp] theorem writeResult_ports (c : Context) (o : JobOutcome) (fl : Option Failure) (s : State) :
    (writeResult c o fl s).ports = s.ports := rfl
@[simp] theorem writeResult_links (c : Context) (o : JobOutcome) (fl : Option Failure) (s : State) :
    (writeResult c o fl s).links = s.links := rfl
@[simp] theorem writeResult_map (c : Context) (o : JobOutcome) (fl : Option Failure) (s : State) :
    (writeResult c o fl s).map = s.map := rfl
@[simp] theorem writeResult_jobs (c : Context) (o : JobOutcome) (fl : Option Failure) (s : State) :
    (writeResult c o fl s).jobs = s.jobs := rfl
@[simp] theorem writeResult_frozenOrder (c : Context) (o : JobOutcome) (fl : Option Failure) (s : State) :
    (writeResult c o fl s).frozenOrder = s.frozenOrder := rfl
@[simp] theorem writeResult_arbiters (c : Context) (o : JobOutcome) (fl : Option Failure) (s : State) :
    (writeResult c o fl s).arbiters = s.arbiters := rfl
@[simp] theorem writeResult_monitor (c : Context) (o : JobOutcome) (fl : Option Failure) (s : State) :
    (writeResult c o fl s).monitor = s.monitor := rfl
@[simp] theorem writeResult_watches (c : Context) (o : JobOutcome) (fl : Option Failure) (s : State) :
    (writeResult c o fl s).watches = s.watches := rfl
@[simp] theorem writeResult_actuators (c : Context) (o : JobOutcome) (fl : Option Failure) (s : State) :
    (writeResult c o fl s).actuators = s.actuators := rfl
@[simp] theorem raisePort_pending (p : Port) (s : State) :
    (raisePort p s).pending = s.pending := rfl
@[simp] theorem raisePort_running (p : Port) (s : State) :
    (raisePort p s).running = s.running := rfl
@[simp] theorem raisePort_time (p : Port) (s : State) :
    (raisePort p s).time = s.time := rfl
@[simp] theorem raisePort_seqCounter (p : Port) (s : State) :
    (raisePort p s).seqCounter = s.seqCounter := rfl
@[simp] theorem raisePort_node (p : Port) (s : State) :
    (raisePort p s).node = s.node := rfl
@[simp] theorem raisePort_degrees (p : Port) (s : State) :
    (raisePort p s).degrees = s.degrees := rfl
@[simp] theorem raisePort_links (p : Port) (s : State) :
    (raisePort p s).links = s.links := rfl
@[simp] theorem raisePort_map (p : Port) (s : State) :
    (raisePort p s).map = s.map := rfl
@[simp] theorem raisePort_jobs (p : Port) (s : State) :
    (raisePort p s).jobs = s.jobs := rfl
@[simp] theorem raisePort_frozenOrder (p : Port) (s : State) :
    (raisePort p s).frozenOrder = s.frozenOrder := rfl
@[simp] theorem raisePort_arbiters (p : Port) (s : State) :
    (raisePort p s).arbiters = s.arbiters := rfl
@[simp] theorem raisePort_monitor (p : Port) (s : State) :
    (raisePort p s).monitor = s.monitor := rfl
@[simp] theorem raisePort_watches (p : Port) (s : State) :
    (raisePort p s).watches = s.watches := rfl
@[simp] theorem raisePort_actuators (p : Port) (s : State) :
    (raisePort p s).actuators = s.actuators := rfl
@[simp] theorem raisePort_results (p : Port) (s : State) :
    (raisePort p s).results = s.results := rfl
@[simp] theorem requestScan_pending (q : ScanRequest) (s : State) :
    (requestScan q s).pending = s.pending := rfl
@[simp] theorem requestScan_running (q : ScanRequest) (s : State) :
    (requestScan q s).running = s.running := rfl
@[simp] theorem requestScan_time (q : ScanRequest) (s : State) :
    (requestScan q s).time = s.time := rfl
@[simp] theorem requestScan_seqCounter (q : ScanRequest) (s : State) :
    (requestScan q s).seqCounter = s.seqCounter := rfl
@[simp] theorem requestScan_node (q : ScanRequest) (s : State) :
    (requestScan q s).node = s.node := rfl
@[simp] theorem requestScan_degrees (q : ScanRequest) (s : State) :
    (requestScan q s).degrees = s.degrees := rfl
@[simp] theorem requestScan_ports (q : ScanRequest) (s : State) :
    (requestScan q s).ports = s.ports := rfl
@[simp] theorem requestScan_links (q : ScanRequest) (s : State) :
    (requestScan q s).links = s.links := rfl
@[simp] theorem requestScan_map (q : ScanRequest) (s : State) :
    (requestScan q s).map = s.map := rfl
@[simp] theorem requestScan_jobs (q : ScanRequest) (s : State) :
    (requestScan q s).jobs = s.jobs := rfl
@[simp] theorem requestScan_frozenOrder (q : ScanRequest) (s : State) :
    (requestScan q s).frozenOrder = s.frozenOrder := rfl
@[simp] theorem requestScan_arbiters (q : ScanRequest) (s : State) :
    (requestScan q s).arbiters = s.arbiters := rfl
@[simp] theorem requestScan_watches (q : ScanRequest) (s : State) :
    (requestScan q s).watches = s.watches := rfl
@[simp] theorem requestScan_actuators (q : ScanRequest) (s : State) :
    (requestScan q s).actuators = s.actuators := rfl
@[simp] theorem requestScan_results (q : ScanRequest) (s : State) :
    (requestScan q s).results = s.results := rfl

end Machine

end Sys2Proof
end

