-- ==== Sys2Proof/Laws/Edits.lean ====
section
/-! SUPPORT. What an act is made of. `Edit` lists the base changes an act makes after its request or message has been taken; every
shared operation of the engines is a sequence of them (`Edits`), said once for each operation, so that a property of all edits is a
property of every act. The grade says how far an operation reaches: at grade 0 it works on legs, arbiters, devices and entries alone
(granting, freezing, scanning); from grade 1 it also answers masters and neighbours, writes records and frees contexts (lowering and
releasing); from grade 2 it also changes contexts, announces device events and loses links (failing, accepting, link changes). -/

namespace Sys2Proof.Machine

-- One declaration at a time: the case splits below share what they generate, and each would wait in a thread of its own.
set_option Elab.async false

/-- A base change. The side conditions are what the invariants of Safety.lean need of a changed unit. -/
inductive Edit (g : Nat) : State → State → Prop
  | notice (p : Port) (n : Notice) (s : State) (hg : 1 ≤ g) : Edit g s (notify p n s)
  | announce (k : EventKind) (d : Option Degree) (code : Nat) (s : State) (hg : 2 ≤ g) : Edit g s (announce k d code s)
  | message (d : Degree) (m : Message) (s : State) (hg : 1 ≤ g) : Edit g s (send d m s)
  | lose (d : Degree) (s : State) (hg : 2 ≤ g) : Edit g s (modLink d Link.lose s)
  | arbiter (d : Degree) (f : Arbiter → Arbiter) (s : State)
      (h : ∀ a, a.HoldAgrees (s.deg d).holdAll → (f a).HoldAgrees (s.deg d).holdAll) : Edit g s (modArb d f s)
  | watch (d : Degree) (f : Watch → Watch) (s : State) (h : ∀ w, w.Sound → (f w).Sound) : Edit g s (modWatch d f s)
  | actuator (d : Degree) (f : Actuator → Actuator) (s : State) (h : ∀ a, a.Sound → (f a).Sound) : Edit g s (modAct d f s)
  | monitor (f : Monitor → Monitor) (s : State) (h : ∀ m, m.Sound → (f m).Sound) : Edit g s (modMonitor f s)
  | order (l : List LegRef) (s : State) : Edit g s { s with frozenOrder := l }
  | leg (r : LegRef) (f : LineLeg → LineLeg) (s : State)
      (h : ∀ l, (f l).fixed = l.fixed ∧ (l.Bounded → (f l).Bounded)) : Edit g s (modLeg r f s)
  | context (id : JobId) (f : Context → Context) (s : State) (hg : 2 ≤ g)
      (h : ∀ c, (f c).fixed = c.fixed ∧ (c.Bounded → (f c).Bounded)) : Edit g s (modCtx id f s)
  | free (id : JobId) (s : State) (hg : 1 ≤ g) : Edit g s (dropCtx id s)
  | entries (f : SliceEntry → SliceEntry) (first count : Nat) (runs : List (Degree × MapDir)) (s : State)
      (h : ∀ e, SliceEntry.Keeps e (f e)) :
      Edit g s (modMap (SpectrumMap.changeRuns f first count runs) s)
  | record (c : Context) (o : JobOutcome) (fl : Option Failure) (s : State) (hg : 1 ≤ g) : Edit g s (writeResult c o fl s)

/-- A sequence of base changes. -/
abbrev Edits (g : Nat) : State → State → Prop := Relation.ReflTransGen (Edit g)

variable {s t : State} {g : Nat}

theorem Edits.none : Edits g s s := Relation.ReflTransGen.refl

theorem Edits.then {u : State} (h : Edits g s t) (e : Edit g t u) : Edits g s u := Relation.ReflTransGen.tail h e

theorem Edits.foldl {α : Type} {f : State → α → State} (hf : ∀ {s t} a, Edits g s t → Edits g s (f t a)) {l : List α}
    (h : Edits g s t) : Edits g s (l.foldl f t) := by
  induction l generalizing t with
  | nil => exact h
  | cons a l ih => exact ih (hf a h)

/-! ### Fixed fields and bounds of contexts and legs -/

@[simp] theorem Leg.mapLine_fixed (f : LineLeg → LineLeg) (hf : ∀ l, (f l).fixed = l.fixed) (l : Leg) :
    (l.mapLine f).fixed = l.fixed := by
  cases l <;> simp [Leg.mapLine, Leg.fixed, hf]

theorem Leg.mapLine_bounded (f : LineLeg → LineLeg) (hf : ∀ l, l.Bounded → (f l).Bounded) (l : Leg) (h : l.Bounded) :
    (l.mapLine f).Bounded := by
  cases l with
  | line l => exact hf l h
  | drop d => exact h

theorem Context.mapLine_keeps (dir : Dir) (f : LineLeg → LineLeg) (hf : ∀ l, (f l).fixed = l.fixed)
    (hb : ∀ l, l.Bounded → (f l).Bounded) (c : Context) :
    (c.mapLine dir f).fixed = c.fixed ∧ (c.Bounded → (c.mapLine dir f).Bounded) := by
  cases dir with
  | fwd =>
    exact ⟨by simp [Context.mapLine, Context.fixed, Leg.mapLine_fixed f hf],
      fun h => ⟨Leg.mapLine_bounded f hb _ h.1, h.2⟩⟩
  | rev =>
    refine ⟨?_, fun h => ⟨h.1, ?_⟩⟩
    · cases hr : c.rev <;> simp [Context.mapLine, Context.fixed, hr, Leg.mapLine_fixed f hf]
    · intro l hl
      cases hr : c.rev with
      | none => simp [Context.mapLine, hr] at hl
      | some x =>
        simp only [Context.mapLine, hr, Option.map_some, Option.some.injEq] at hl
        subst hl
        exact Leg.mapLine_bounded f hb _ (h.2 x hr)

/-- A change of a line leg that keeps its fixed fields and its bounds. -/
theorem Edits.leg {r : LegRef} {f : LineLeg → LineLeg} (h : Edits g s t)
    (hf : ∀ l, (f l).fixed = l.fixed := by exact fun _ => rfl)
    (hb : ∀ l, l.Bounded → (f l).Bounded := by exact fun _ h => h) : Edits g s (modLeg r f t) :=
  h.then (.leg r f t fun l => ⟨hf l, hb l⟩)

/-- A change of a context outside its fixed fields and legs. -/
theorem Edits.ctx {id : JobId} {f : Context → Context} (h : Edits (g + 2) s t)
    (hf : ∀ c, (f c).fixed = c.fixed := by exact fun _ => rfl)
    (hb : ∀ c, c.Bounded → (f c).Bounded := by exact fun _ h => h) : Edits (g + 2) s (modCtx id f t) :=
  h.then (.context id f t (by omega) fun c => ⟨hf c, hb c⟩)

/-! ### What the acts of a job do to an entry -/

@[simp] theorem SliceEntry.confirm_keeps (id : JobId) (e : SliceEntry) : e.Keeps (e.confirm id) := by
  cases e <;> (try (rename_i j; by_cases h : j = id)) <;> simp_all [Keeps, confirm]

@[simp] theorem SliceEntry.light_keeps (id : JobId) (e : SliceEntry) : e.Keeps (e.light id) := by
  cases e <;> (try (rename_i j; by_cases h : j = id)) <;> simp_all [Keeps, light]

@[simp] theorem SliceEntry.accept_keeps (id : JobId) (e : SliceEntry) : e.Keeps (e.accept id) := by
  cases e <;> (try (rename_i j; by_cases h : j = id)) <;> simp_all [Keeps, accept]

@[simp] theorem SliceEntry.release_keeps (id : JobId) (e : SliceEntry) : e.Keeps (e.release id) := by
  cases e <;> (try (rename_i j; by_cases h : j = id)) <;> simp_all [Keeps, release]

@[simp] theorem SliceEntry.abandon_keeps (id : JobId) (e : SliceEntry) : e.Keeps (e.abandon id) := by
  cases e <;> (try (rename_i j; by_cases h : j = id)) <;> simp_all [Keeps, abandon]

/-! ### Ops.lean and Map.lean -/

theorem Edits.notify {p : Port} {n : Notice} (h : Edits (g + 1) s t) : Edits (g + 1) s (notify p n t) := h.then (.notice _ _ _ (by omega))

theorem Edits.notifyOwner {o : Option Port} {n : Notice} (h : Edits (g + 1) s t) : Edits (g + 1) s (notifyOwner o n t) := by
  cases o
  · exact h
  · exact h.notify

theorem Edits.announce {k : EventKind} {d : Option Degree} {code : Nat} (h : Edits (g + 2) s t) :
    Edits (g + 2) s (announce k d code t) := h.then (.announce _ _ _ _ (by omega))

theorem Edits.send {d : Degree} {m : Message} (h : Edits (g + 1) s t) : Edits (g + 1) s (send d m t) := h.then (.message _ _ _ (by omega))

theorem Edits.sendOn {d : Option Degree} {m : Message} (h : Edits (g + 1) s t) : Edits (g + 1) s (sendOn d m t) := by
  cases d
  · exact h
  · exact h.send

theorem Edits.dropCtx {id : JobId} (h : Edits (g + 1) s t) : Edits (g + 1) s (dropCtx id t) := h.then (.free _ _ (by omega))

theorem Edits.writeResult {c : Context} {o : JobOutcome} {fl : Option Failure} (h : Edits (g + 1) s t) :
    Edits (g + 1) s (writeResult c o fl t) := h.then (.record _ _ _ _ (by omega))

theorem Edits.changeFor {c : Context} {runs : List (Degree × MapDir)} {f : SliceEntry → SliceEntry} (h : Edits g s t)
    (hf : ∀ e, SliceEntry.Keeps e (f e) := by simp) : Edits g s (changeFor c runs f t) := h.then (.entries _ _ _ _ _ hf)

theorem Edits.releaseSet {c : Context} (h : Edits g s t) : Edits g s (releaseSet c t) := h.changeFor

theorem Edits.order {l : List LegRef} (h : Edits g s t) : Edits g s { t with frozenOrder := l } := h.then (.order ..)

theorem Edits.watch {d : Degree} {f : Watch → Watch} (h : Edits g s t) (hf : ∀ w, w.Sound → (f w).Sound) :
    Edits g s (modWatch d f t) := h.then (.watch _ _ _ hf)

theorem Edits.act {d : Degree} {f : Actuator → Actuator} (h : Edits g s t)
    (hf : ∀ a, a.Sound → (f a).Sound := by exact fun _ h => h) : Edits g s (modAct d f t) := h.then (.actuator _ _ _ hf)

theorem Edits.monitor {f : Monitor → Monitor} (h : Edits g s t)
    (hf : ∀ m, m.Sound → (f m).Sound := by exact fun _ h => h) : Edits g s (modMonitor f t) := h.then (.monitor _ _ hf)

/-- A change of an arbiter that touches neither the hold status nor the backoff list. -/
theorem Edits.arb {d : Degree} {f : Arbiter → Arbiter} (h : Edits g s t)
    (hh : ∀ a, (f a).held = a.held := by exact fun _ => rfl)
    (hb : ∀ a, (f a).backoff = a.backoff := by exact fun _ => rfl) : Edits g s (modArb d f t) :=
  h.then (.arbiter d f t fun a h => by simpa only [Arbiter.HoldAgrees, hh, hb] using h)

/-- A change of an arbiter that ends by computing the hold status anew. -/
theorem Edits.rehold {d : Degree} {f : Arbiter → Arbiter} (h : Edits g s t)
    (hf : ∀ a, (f a).HoldAgrees (t.deg d).holdAll := by exact fun _ => rfl) : Edits g s (modArb d f t) :=
  h.then (.arbiter d f t fun a _ => hf a)

/-! ### Finding a leg or a job -/

theorem Edits.onLeg {r : LegRef} {k : LineLeg → State → State} (h : Edits g s t)
    (hk : ∀ l, Edits g s t → Edits g s (k l t)) : Edits g s (onLeg r k t) := by
  unfold Machine.onLeg; split
  · exact hk _ h
  · exact h

theorem Edits.onCtx {id : JobId} {k : Context → State → State} (h : Edits g s t)
    (hk : ∀ c, Edits g s t → Edits g s (k c t)) : Edits g s (onCtx id k t) := by
  unfold Machine.onCtx; split
  · exact hk _ h
  · exact h

/-! ### Ramp.lean -/

theorem Edits.requestScan {q : ScanRequest} (h : Edits g s t) : Edits g s (requestScan q t) := h.monitor

theorem Edits.withdraw {r : LegRef} (h : Edits g s t) : Edits g s (withdraw r t) := h.monitor

theorem Edits.without {d : Degree} {r : LegRef} (h : Edits g s t) :
    Edits g s (modArb d (Arbiter.without (t.deg d).holdAll r) t) := h.rehold

theorem Edits.detach {d : Degree} {r : LegRef} (h : Edits g s t) : Edits g s (detach d r t) := h.rehold

theorem Edits.requeue {d : Degree} (h : Edits g s t) : Edits g s (requeue d t) :=
  .arb (.foldl (fun _ h => .leg h) h)

theorem pushRecord_length (h : List StepRecord) (x : StepRecord) (hl : h.length ≤ Config.maxHistory) :
    (pushRecord h x).length ≤ Config.maxHistory := by
  simp only [pushRecord, List.length_drop, List.length_append, List.length_singleton, Config.maxHistory] at *; omega

theorem bump_le (n : Nat) : bump n ≤ Config.countMax := Nat.min_le_right ..

theorem LineLeg.endStep_keeps (v : Verdict) (l : LineLeg) :
    (l.endStep v).fixed = l.fixed ∧ (l.Bounded → (l.endStep v).Bounded) := by
  unfold LineLeg.endStep; split
  · exact ⟨rfl, id⟩
  · exact ⟨rfl, fun h => ⟨pushRecord_length _ _ h.1, bump_le _⟩⟩

theorem Edits.endStep {r : LegRef} {v : Verdict} (h : Edits g s t) : Edits g s (endStep r v t) :=
  .leg h (fun l => (l.endStep_keeps v).1) (fun l => (l.endStep_keeps v).2)

theorem Edits.freeze {r : LegRef} {cause : FrozenBy} {kind : RequestKind} (h : Edits g s t) :
    Edits g s (freeze r cause kind t) := .onLeg h fun _ h => .order (.leg (.detach h))

theorem Edits.joinUp {r : LegRef} {kind : RequestKind} (h : Edits g s t) : Edits g s (joinUp r kind t) := by
  refine .onLeg h fun l h => ?_
  split
  · exact h.freeze
  · exact .leg (.arb h)

theorem Edits.thaw {r : LegRef} (h : Edits g s t) : Edits g s (thaw r t) := by
  refine .onLeg h fun l h => ?_
  split
  · exact .joinUp (.leg (.order h))
  · exact h

theorem Edits.thawWhere {clears : LineLeg → Bool} (h : Edits g s t) : Edits g s (thawWhere clears t) :=
  .foldl (fun _ h => h.thaw) h

theorem Actuator.command_sound (r : LegRef) (c : Context) (q : Level) (n : Nat) (a : Actuator) :
    (a.command r c q n).Sound := Nat.mod_lt _ (by decide)

theorem Edits.actuate {r : LegRef} (h : Edits g s t) : Edits g s (actuate r t) := by
  refine .onCtx h fun c h => .onLeg h fun l h => ?_
  split
  · have h2 : ∀ q n, Edits g s (modLeg r (LineLeg.mapStep fun st => { st with stage := .actuate })
        (modAct l.egress (Actuator.command r c q n) t)) :=
      fun q n => .leg (.act h (fun a _ => a.command_sound r c q n))
    simp only []
    split
    · exact .changeFor (h2 ..)
    · exact h2 ..
  · exact h

theorem Edits.startDown {r : LegRef} (h : Edits g s t) : Edits g s (startDown r t) :=
  .onLeg h fun _ h => .actuate (.leg h)

theorem Edits.freeContext {c : Context} (h : Edits (g + 1) s t) : Edits (g + 1) s (freeContext c t) := h.withdraw.withdraw.dropCtx

theorem Edits.releaseFailed {c : Context} (h : Edits (g + 1) s t) : Edits (g + 1) s (releaseFailed c t) := by
  unfold Machine.releaseFailed
  split
  · refine .freeContext (.notifyOwner ?_)
    split
    · exact h.writeResult
    · exact h
  · exact h

theorem Edits.releaseClosed {c : Context} (h : Edits (g + 1) s t) : Edits (g + 1) s (releaseClosed c t) :=
  .freeContext (.sendOn (.notifyOwner (.writeResult (.releaseSet h))))

theorem Edits.checkEnded {id : JobId} (h : Edits (g + 1) s t) : Edits (g + 1) s (checkEnded id t) := by
  refine .onCtx h fun c h => ?_
  split
  · split
    · exact h.releaseFailed
    · split
      · exact h.releaseClosed
      · exact h
  · exact h

theorem Edits.reachOff {r : LegRef} (h : Edits (g + 1) s t) : Edits (g + 1) s (reachOff r t) := by
  refine .onCtx h fun c h => .onLeg h fun l h => .checkEnded ?_
  have h2 : Edits (g + 1) s (modLeg r LineLeg.off (Machine.detach l.egress r (Machine.withdraw r t))) :=
    .leg (.detach (.withdraw h))
  split
  · exact .changeFor (.requeue (.order h2))
  · exact .requeue (.order h2)

theorem Edits.abandonLeg {r : LegRef} (h : Edits (g + 1) s t) : Edits (g + 1) s (abandonLeg r t) :=
  .onCtx h fun _ h => .onLeg h fun _ h => .reachOff (.changeFor h)

theorem Edits.turnDown {r : LegRef} (h : Edits (g + 1) s t) : Edits (g + 1) s (turnDown r t) := by
  refine .onLeg h fun l h => ?_
  split
  · exact h.abandonLeg
  · split
    · exact h.reachOff
    · exact .startDown (.arb h)

theorem Edits.joinDown {r : LegRef} (h : Edits (g + 1) s t) : Edits (g + 1) s (joinDown r t) := by
  refine .onLeg h fun l h => ?_
  split
  · exact h.abandonLeg
  · split
    · exact h.reachOff
    · exact .leg (.arb h)

theorem Edits.handOver {r : LegRef} (h : Edits (g + 1) s t) : Edits (g + 1) s (handOver r t) := by
  refine .onLeg h fun l h => ?_
  split
  · exact h
  · exact h
  · split
    · exact h
    · exact .turnDown (.endStep (.withdraw h))
  · exact .joinDown (.order (.leg (.without h)))

theorem Edits.handAll {c : Context} (h : Edits (g + 1) s t) : Edits (g + 1) s (handAll c t) := .foldl (fun _ h => h.handOver) h

theorem Edits.sendFail {c : Context} {f : Failure} {arrival : Option Degree} (h : Edits (g + 1) s t) :
    Edits (g + 1) s (sendFail c f arrival t) := by
  have on : ∀ {u : State} (d : Option Degree), Edits (g + 1) s u →
      Edits (g + 1) s (if d = arrival then u else Machine.sendOn d (.fail c.id f.cause f.verdict f.origin) u) := by
    intro u d hu
    split
    · exact hu
    · exact hu.sendOn
  exact on _ (on _ h)

theorem Edits.unwind {c : Context} (h : Edits (g + 1) s t) : Edits (g + 1) s (unwind c t) := .checkEnded (.handAll (.changeFor h))

theorem Edits.failJob {id : JobId} {f : Failure} {leg : Option Dir} {arrival : Option Degree} (h : Edits (g + 2) s t) :
    Edits (g + 2) s (failJob id f leg arrival t) := by
  refine .onCtx h fun c h => ?_
  split
  · exact .unwind (.sendFail (.ctx h))
  · exact h

theorem Edits.failByLeg {r : LegRef} {cause : Cause} {v : Verdict} (h : Edits (g + 2) s t) :
    Edits (g + 2) s (failByLeg r cause v t) := h.failJob

theorem Edits.failLocally {id : JobId} {cause : Cause} (h : Edits (g + 2) s t) : Edits (g + 2) s (failLocally id cause t) := h.failJob

/-! ### Arbiter.lean -/

theorem Edits.askScan {r : LegRef} (h : Edits g s t) : Edits g s (askScan r t) := by
  refine .onCtx h fun c h => .onLeg h fun l h => ?_
  split
  · exact h.requestScan
  · exact h

theorem Edits.enterVerify {r : LegRef} (h : Edits g s t) : Edits g s (enterVerify r t) := .askScan (.leg h)

theorem Edits.afterBaseline {r : LegRef} {k : StepKind} (h : Edits g s t) : Edits g s (afterBaseline r k t) := by
  unfold Machine.afterBaseline
  split
  · exact h.enterVerify
  · exact h.actuate

theorem Edits.beginUp {r : LegRef} {k : StepKind} {q : Int} (h : Edits g s t) : Edits g s (beginUp r k q t) := by
  refine .onCtx h fun c h => .onLeg h fun l h => ?_
  simp only []
  split
  · exact .afterBaseline (.leg h)
  · exact .askScan (.leg h)

theorem Edits.park {d : Degree} {e : UpEntry} (h : Edits g s t) : Edits g s (park d e t) := .leg (.arb h)

theorem Edits.considerUp {d : Degree} {es : List UpEntry} (h : Edits g s t) : Edits g s (considerUp d es t) := by
  induction es generalizing t with
  | nil => exact h
  | cons e es ih =>
    unfold Machine.considerUp
    split
    · exact ih h
    · split
      · simp only []
        split
        · exact .beginUp (.arb (.arb h))
        · exact ih (.park (.arb h))
      · exact ih h

theorem Edits.grantPass {d : Degree} (h : Edits g s t) : Edits g s (grantPass d t) := by
  unfold Machine.grantPass
  simp only []
  split
  · exact h
  · split
    · exact h
    · split
      · exact .startDown (.arb h)
      · split
        · exact h
        · exact h.considerUp

theorem Edits.grantAll (h : Edits g s t) : Edits g s (grantAll t) := h.grantPass.grantPass.grantPass.grantPass

theorem Monitor.issue_sound (q : ScanRequest) (a b : Bool) (n : Nat) (m : Monitor) : (m.issue q a b n).Sound :=
  Nat.mod_lt _ (by decide)

theorem Edits.markIssued {q : ScanRequest} (h : Edits g s t) : Edits g s (markIssued q t) := by
  unfold Machine.markIssued
  split
  · exact h.watch fun w hw => ⟨hw.1, by simp⟩
  · exact h

theorem Edits.issueNext (h : Edits g s t) : Edits g s (issueNext t) := by
  unfold Machine.issueNext
  split
  · exact h
  · split
    · exact h
    · exact .markIssued (.monitor h fun _ _ => Monitor.issue_sound ..)

theorem Edits.settleAct (h : Edits g s t) : Edits g s (settleAct t) := h.grantAll.issueNext

theorem Edits.settleDegree {d : Degree} (h : Edits g s t) : Edits g s (settleDegree d t) := h.grantPass.issueNext

/-! ### Verify.lean -/

theorem Edits.reachedTarget {c : Context} {dir : Dir} (h : Edits (g + 1) s t) : Edits (g + 1) s (reachedTarget c dir t) := by
  unfold Machine.reachedTarget
  split <;> first | exact h.send | exact h

theorem Edits.releaseToken {d : Degree} {r : LegRef} (h : Edits g s t) : Edits g s (releaseToken d r t) := h.arb

theorem Edits.passStep {r : LegRef} (h : Edits (g + 1) s t) : Edits (g + 1) s (passStep r t) := by
  refine .onCtx h fun c h => .onLeg h fun l h => ?_
  split
  · exact h
  · simp only []
    split
    · exact .reachedTarget (.leg (.releaseToken (.leg (.endStep h))))
    · exact .joinUp (.releaseToken (.leg (.endStep h)))

theorem Edits.enterBackoff {r : LegRef} (h : Edits g s t) : Edits g s (enterBackoff r t) :=
  .onLeg h fun _ h => .leg (.rehold h)

theorem Edits.beginBackoff {r : LegRef} {q : Level} (h : Edits g s t) : Edits g s (beginBackoff r q t) := by
  refine .onLeg h fun l h => ?_
  simp only []
  split
  · exact .enterBackoff (.endStep (.leg h))
  · exact .actuate (.leg h)

theorem Edits.failStep {r : LegRef} {v : Verdict} (h : Edits (g + 2) s t) : Edits (g + 2) s (failStep r v t) := by
  refine .onLeg h fun l h => ?_
  split
  · exact h
  · simp only []
    split
    · exact .beginBackoff (.endStep h)
    · exact .failByLeg (.endStep h)

theorem Edits.endMasked {r : LegRef} (h : Edits g s t) : Edits g s (endMasked r t) := .freeze (.endStep h)

theorem Edits.verifyResult {r : LegRef} {x : List Int} (h : Edits (g + 2) s t) : Edits (g + 2) s (verifyResult r x t) := by
  refine .onCtx h fun c h => .onLeg h fun l h => ?_
  split
  · split
    · exact .endMasked (.leg h)
    · simp only []
      split
      · exact .passStep (.leg h)
      · split
        · exact .failStep (.leg h)
        · split
          · exact .failStep (.leg h)
          · exact .leg (.leg h)
  · exact h

theorem Edits.baselineResult {r : LegRef} {x : List Int} (h : Edits g s t) : Edits g s (baselineResult r x t) := by
  refine .onCtx h fun c h => .onLeg h fun l h => ?_
  split
  · split
    · exact h.endMasked
    · exact .afterBaseline (.leg h)
  · exact h

theorem Edits.legResult {r : LegRef} {x : List Int} (h : Edits (g + 2) s t) : Edits (g + 2) s (legResult r x t) := by
  refine .onLeg h fun l h => ?_
  split
  · split
    · exact h.baselineResult
    · split
      · exact h
      · exact h.verifyResult
    · exact h
    · exact h
  · exact h

theorem LineLeg.record_keeps (x : Level) (p : DegreeParams) (l : LineLeg) :
    (l.record x p).fixed = l.fixed ∧ (l.Bounded → (l.record x p).Bounded) := by
  unfold LineLeg.record; split
  · exact ⟨rfl, id⟩
  · split <;> exact ⟨rfl, id⟩

theorem LineLeg.enterSettle_keeps (p : DegreeParams) (l : LineLeg) :
    (l.enterSettle p).fixed = l.fixed ∧ (l.Bounded → (l.enterSettle p).Bounded) := by
  unfold LineLeg.enterSettle; split <;> exact ⟨rfl, id⟩

theorem Edits.enterSettle {r : LegRef} (h : Edits g s t) : Edits g s (enterSettle r t) :=
  .onLeg h fun _ h => .leg h (fun l => (l.enterSettle_keeps _).1) (fun l => (l.enterSettle_keeps _).2)

theorem Edits.legApplied {r : LegRef} {x : Level} (h : Edits (g + 1) s t) : Edits (g + 1) s (legApplied r x t) := by
  refine .onCtx h fun c h => .onLeg h fun l h => ?_
  split
  · exact h
  · have h1 : Edits (g + 1) s (modLeg r (LineLeg.record x (t.deg l.egress)) t) :=
      .leg h (fun l => (l.record_keeps ..).1) (fun l => (l.record_keeps ..).2)
    simp only []
    split
    · exact .enterSettle (.requeue h1)
    · split
      · exact .turnDown (.endStep h1)
      · split
        · exact h1.enterSettle
        · split
          · exact .freeze (.endStep h1)
          · split
            · exact .freeze (.endStep h1)
            · exact h1.enterSettle

theorem Edits.legSettled {r : LegRef} (h : Edits (g + 1) s t) : Edits (g + 1) s (legSettled r t) := by
  refine .onLeg h fun l h => ?_
  split
  · split
    · exact .enterVerify (.leg h)
    · exact .enterVerify (.leg h)
    · exact h
    · exact .enterBackoff (.endStep (.leg h))
    · split
      · exact .reachOff (.endStep (.leg h))
      · exact .startDown (.endStep (.leg h))
  · exact h

theorem Edits.freezeHolder {d : Degree} {cause : FrozenBy} {p : LineLeg → Bool} (h : Edits g s t) :
    Edits g s (freezeHolder d cause p t) := by
  unfold Machine.freezeHolder
  split
  · refine .onLeg h fun l h => ?_
    split
    · split
      · exact .freeze (.endStep (.withdraw h))
      · exact h
    · exact h
  · exact h

theorem Edits.freezeEntries {p : LineLeg → Bool} {es : List UpEntry} (h : Edits g s t) :
    Edits g s (freezeEntries p es t) := by
  refine .foldl (fun e h => ?_) h
  split
  · exact h.freeze
  · exact h

theorem Edits.freezeDarkOn {p : LineLeg → Bool} {d : Degree} (h : Edits g s t) : Edits g s (freezeDarkOn p d t) :=
  .freezeEntries (.freezeEntries (.freezeHolder h))

theorem Edits.freezeDark {e : Degree} (h : Edits g s t) : Edits g s (freezeDark e t) := .foldl (fun _ h => h.freezeDarkOn) h

theorem Edits.thawLit {e : Degree} (h : Edits g s t) : Edits g s (thawLit e t) := h.thawWhere

theorem Edits.freezeMonitor (h : Edits g s t) : Edits g s (freezeMonitor t) := .foldl (fun _ h => h.freezeHolder) h

theorem Edits.thawMonitor (h : Edits g s t) : Edits g s (thawMonitor t) := h.thawWhere

theorem Edits.faultHolder {r : LegRef} (h : Edits (g + 2) s t) : Edits (g + 2) s (faultHolder r t) := by
  refine .onCtx h fun c h => ?_
  simp only []
  split
  · exact .failByLeg (.endStep h)
  · exact .abandonLeg (.endStep h)

theorem Edits.arbiterFault {d : Degree} (h : Edits (g + 2) s t) : Edits (g + 2) s (arbiterFault d t) := by
  unfold Machine.arbiterFault
  refine .foldl (fun _ h => h.abandonLeg) ?_
  split
  · exact h.faultHolder
  · exact h

/-! ### Monitor.lean -/

theorem Edits.setMonitorState {m : MonitorState} (h : Edits (g + 2) s t) : Edits (g + 2) s (setMonitorState m t) := .announce (.monitor h)

theorem Edits.issueProbe (h : Edits g s t) : Edits g s (issueProbe t) := .monitor h fun _ _ => Monitor.issue_sound ..

theorem Watch.decide_run (low : Bool) (w : Watch) : (Watch.decide low w).run ≤ 1 := by
  unfold Watch.decide
  split <;> first | exact Nat.zero_le _ | (split <;> simp)

theorem Watch.taken_sound (low : Bool) (n : Nat) (w : Watch) : (w.taken low n).Sound :=
  ⟨Watch.decide_run low w, by simp [Watch.taken]⟩

theorem Edits.watchResult {d : Degree} {x : List Int} (h : Edits (g + 2) s t) : Edits (g + 2) s (watchResult d x t) := by
  have h1 : ∀ low, Edits (g + 2) s (modWatch d (Watch.taken low t.node.watchInterval) t) :=
    fun low => h.watch fun w _ => w.taken_sound low _
  unfold Machine.watchResult
  simp only []
  split
  · exact h1 _
  · split
    · exact .announce (.freezeDark (h1 _))
    · exact .announce (.thawLit (h1 _))

theorem Edits.queueWatches (h : Edits g s t) : Edits g s (queueWatches t) := by
  refine .foldl (fun d h => ?_) h
  exact .requestScan (.watch h fun w hw => ⟨hw.1, by simp⟩)

theorem Edits.probeResult (h : Edits (g + 2) s t) : Edits (g + 2) s (probeResult t) :=
  .thawMonitor (.queueWatches (.monitor (.setMonitorState h)))

theorem Edits.handResult {f : ScanFlight} {x : List Int} (h : Edits (g + 2) s t) : Edits (g + 2) s (handResult f x t) := by
  unfold Machine.handResult
  split
  · split
    · exact h
    · exact h.legResult
  · exact h.watchResult
  · exact h.probeResult

theorem Edits.scanResult {n : Nat} {x : List Int} (h : Edits (g + 2) s t) : Edits (g + 2) s (scanResult n x t) := by
  unfold Machine.scanResult
  split
  · exact h
  · split
    · simp only []
      refine .settleAct (.handResult ?_)
      split
      · exact .setMonitorState (.monitor h)
      · exact h.monitor
    · exact h

theorem Edits.stopWatches (h : Edits g s t) : Edits g s (stopWatches t) :=
  .foldl (fun _ h => h.watch fun _ _ => ⟨Nat.zero_le _, by simp [Watch.stop]⟩) h

theorem Edits.monitorFault (h : Edits (g + 2) s t) : Edits (g + 2) s (monitorFault t) :=
  .announce (.freezeMonitor (.stopWatches (.monitor h)))

theorem Edits.scanTimeout (h : Edits (g + 2) s t) : Edits (g + 2) s (scanTimeout t) := by
  unfold Machine.scanTimeout
  split
  · exact h
  · split
    · exact h
    · split
      · exact h.monitor
      · split
        · exact .settleAct (.monitorFault h)
        · exact .setMonitorState (.monitor h fun _ _ => Monitor.issue_sound ..)

theorem Edits.probeTimerExpiry (h : Edits g s t) : Edits g s (probeTimerExpiry t) := by
  unfold Machine.probeTimerExpiry
  split
  · exact h.issueProbe
  · exact h

theorem Edits.watchIntervalExpiry {d : Degree} (h : Edits g s t) : Edits g s (watchIntervalExpiry d t) := by
  unfold Machine.watchIntervalExpiry
  simp only []
  split
  · exact .issueNext (.requestScan (h.watch fun w hw => ⟨hw.1, by simp⟩))
  · exact h

theorem Edits.actuatorCompletion {d : Degree} {n : Nat} {x : Applied} (h : Edits (g + 1) s t) :
    Edits (g + 1) s (actuatorCompletion d n x t) := by
  unfold Machine.actuatorCompletion
  split
  · split
    · exact .settleAct (.legApplied (.act h))
    · exact h
  · exact h

theorem Edits.actuatorTimeout {d : Degree} (h : Edits (g + 2) s t) : Edits (g + 2) s (actuatorTimeout d t) := by
  unfold Machine.actuatorTimeout
  split
  · exact h
  · split
    · exact h
    · exact .settleAct (.announce (.arbiterFault (.act h)))

/-! ### PathEngine.lean -/

theorem Edits.refusedOutcome {c : Context} {cause : Cause} {n : Nat} (h : Edits (g + 1) s t) :
    Edits (g + 1) s (refusedOutcome c cause n t) := .freeContext (.writeResult (.notifyOwner (.releaseSet h)))

theorem Edits.endHolding {c : Context} {cause : Cause} {n : Nat} (h : Edits (g + 1) s t) :
    Edits (g + 1) s (endHolding c cause n t) := by
  unfold Machine.endHolding
  split
  · exact h.refusedOutcome
  · exact .freeContext (.sendOn (.releaseSet h))

theorem Edits.expireHolding {c : Context} (h : Edits (g + 1) s t) : Edits (g + 1) s (expireHolding c t) :=
  .endHolding (.sendOn (.releaseSet h))

theorem Edits.releaseReservation {c : Context} (h : Edits (g + 1) s t) : Edits (g + 1) s (releaseReservation c t) :=
  .freeContext (.sendOn (.releaseSet h))

theorem Edits.acceptJob {c : Context} (h : Edits (g + 2) s t) : Edits (g + 2) s (acceptJob c t) := .writeResult (.ctx (.changeFor h))

theorem Edits.beginRampDown {id : JobId} (h : Edits (g + 2) s t) : Edits (g + 2) s (beginRampDown id t) := by
  refine .onCtx h fun c h => ?_
  split
  · exact .checkEnded (.handAll (.ctx h))
  · exact h

theorem Edits.startTeardown {c : Context} {d : Degree} (h : Edits (g + 2) s t) : Edits (g + 2) s (startTeardown c d t) := by
  unfold Machine.startTeardown
  split
  · exact .send (.ctx (.ctx h))
  · exact .beginRampDown (.ctx h)

theorem Edits.tailTeardown {c : Context} (h : Edits (g + 2) s t) : Edits (g + 2) s (tailTeardown c t) :=
  .checkEnded (.handAll (.notifyOwner (.ctx h)))

theorem Edits.closeLive {c : Context} (h : Edits (g + 2) s t) : Edits (g + 2) s (closeLive c t) := by
  unfold Machine.closeLive
  split
  · exact h.startTeardown
  · exact h.startTeardown
  · exact h.tailTeardown

theorem Edits.lossOf {d : Degree} {c : Context} (h : Edits (g + 2) s t) : Edits (g + 2) s (lossOf d c t) := by
  unfold Machine.lossOf
  split
  · split
    · exact h.endHolding
    · exact h.releaseReservation
  · split
    · exact h.beginRampDown
    · exact h
  · exact h
  · exact h
  · exact h.failLocally

theorem Edits.linkLoss {d : Degree} (h : Edits (g + 2) s t) : Edits (g + 2) s (linkLoss d t) :=
  .foldl (fun _ h => .onCtx h fun _ h => h.lossOf) h

theorem Edits.linkDown {d : Degree} (h : Edits (g + 2) s t) : Edits (g + 2) s (linkDown d t) :=
  .announce (.linkLoss (h.then (.lose _ _ (by omega))))

end Sys2Proof.Machine
end

