-- ==== Sys2Proof/Laws/Invariants.lean ====
section
/-! SUPPORT. What every sequence of base changes keeps: the parameters, the node state, the time, the queue of commands and the
sequence counter as they are, and each invariant of Safety.lean that does not speak of replies. -/

namespace Sys2Proof.Machine

variable {s t : State} {g : Nat}

/-- A relation or property that every base change keeps, every sequence of them keeps. -/
theorem Edits.keep {P : State → Prop} (hp : ∀ {s t}, Edit g s t → P s → P t) (h : Edits g s t) (hs : P s) : P t := by
  induction h with
  | refl => exact hs
  | tail _ e ih => exact hp e ih

/-! ### Fields no base change touches -/

theorem Edit.params (h : Edit g s t) : t.node = s.node ∧ t.degrees = s.degrees ∧ t.running = s.running ∧ t.time = s.time
    ∧ t.seqCounter = s.seqCounter ∧ t.pending = s.pending := by
  cases h <;> exact ⟨rfl, rfl, rfl, rfl, rfl, rfl⟩

theorem Edits.params (h : Edits g s t) : t.node = s.node ∧ t.degrees = s.degrees ∧ t.running = s.running
    ∧ t.time = s.time ∧ t.seqCounter = s.seqCounter ∧ t.pending = s.pending := by
  induction h with
  | refl => exact ⟨rfl, rfl, rfl, rfl, rfl, rfl⟩
  | tail _ e ih =>
    obtain ⟨a, b, c, d, e, f⟩ := e.params
    obtain ⟨a', b', c', d', e', f'⟩ := ih
    exact ⟨a.trans a', b.trans b', c.trans c', d.trans d', e.trans e', f.trans f'⟩

theorem Edits.deg (h : Edits g s t) (d : Degree) : t.deg d = s.deg d := by
  simp only [State.deg, h.params.2.1]

/-! ### The map -/

theorem onRange_length {α : Type} (f : α → α) (l : List α) (k n : Nat) : (onRange f k n l).length = l.length := by
  induction l generalizing k n with
  | nil => cases k <;> cases n <;> rfl
  | cons x xs ih =>
    cases k with
    | succ k => simp [onRange, ih]
    | zero =>
      cases n with
      | zero => rfl
      | succ n => simp [onRange, ih]

theorem SpectrumMap.setTable_shaped {m : SpectrumMap} (h : m.Shaped) (d : Degree) (dir : MapDir) {l : List SliceEntry}
    (hl : l.length = Config.slices) : (m.setTable d dir l).Shaped := by
  intro e
  cases dir <;> simp only [SpectrumMap.setTable, PerDegree.get_set] <;> split <;> simp [hl, h e]

theorem SpectrumMap.Shaped.table {m : SpectrumMap} (h : m.Shaped) (d : Degree) (dir : MapDir) :
    (m.table d dir).length = Config.slices := by
  cases dir
  · exact (h d).1
  · exact (h d).2

theorem SpectrumMap.change_shaped {m : SpectrumMap} (h : m.Shaped) (f : SliceEntry → SliceEntry) (k n : Nat)
    (run : Degree × MapDir) : (m.change f k n run).Shaped :=
  SpectrumMap.setTable_shaped h _ _ (by rw [onRange_length, h.table])

theorem SpectrumMap.changeRuns_shaped (f : SliceEntry → SliceEntry) (k n : Nat) (runs : List (Degree × MapDir))
    {m : SpectrumMap} (h : m.Shaped) : (m.changeRuns f k n runs).Shaped := by
  unfold SpectrumMap.changeRuns
  induction runs generalizing m with
  | nil => exact h
  | cons r rs ih => exact ih (SpectrumMap.change_shaped h f k n r)

theorem Edit.mapInv (h : Edit g s t) (hs : MapInv s) : MapInv t := by
  cases h <;> first | exact SpectrumMap.changeRuns_shaped _ _ _ _ hs | exact hs

theorem Edits.mapInv (h : Edits g s t) (hs : MapInv s) : MapInv t := h.keep Edit.mapInv hs

/-! ### Units -/

theorem takeNotice_sound (n : Notice) {u : SlotLink} (h : u.Sound) : (takeNotice n u).Sound := by
  unfold takeNotice
  split
  · split
    · next hl =>
      refine ⟨?_, h.2⟩
      simp only [List.length_append, List.length_singleton, Config.maxFrames, Config.noticeLimit] at *
      omega
    · exact ⟨h.1, h.2.1, h.2.2.1, bump_le _, h.2.2.2.2⟩
  · exact h

theorem modPort_portInv (p : Port) (f : SlotLink → SlotLink) (hf : (s.port p).Sound → (f (s.port p)).Sound)
    (hs : PortInv s) : PortInv (modPort p f s) := by
  intro q
  rw [modPort_port]
  split
  · exact hf (hs p)
  · exact hs q

theorem Edit.portInv (h : Edit g s t) (hs : PortInv s) : PortInv t := by
  cases h with
  | notice p n => exact modPort_portInv p _ (takeNotice_sound n) hs
  | announce k d code =>
    intro p
    rw [announce_port]
    exact takeNotice_sound _ (hs p)
  | _ => exact hs

theorem Edits.portInv (h : Edits g s t) (hs : PortInv s) : PortInv t := h.keep Edit.portInv hs

theorem modLink_linkInv (d : Degree) (f : Link → Link)
    (hf : (s.link d).Sound (s.deg d).enabled → (f (s.link d)).Sound (s.deg d).enabled) (hs : LinkInv s) :
    LinkInv (modLink d f s) := by
  intro e
  rw [modLink_link]
  split
  · next h => subst h; exact hf (hs e)
  · exact hs e

theorem takeMessage_sound (b : Bool) (m : Message) {l : Link} (h : l.Sound b) : (takeMessage b m l).Sound b := by
  unfold takeMessage
  split
  · next hb =>
    obtain ⟨rfl, -⟩ := Bool.and_eq_true_iff.mp hb
    split
    · refine ⟨?_, h.2.1, h.2.2.1, h.2.2.2.1, h.2.2.2.2.1, by simp⟩
      simp only [List.length_append, List.length_singleton, Config.maxMessages] at *
      omega
    · exact ⟨h.1, ⟨h.2.1.1, h.2.1.2.1, h.2.1.2.2.1, h.2.1.2.2.2.1, bump_le _⟩, h.2.2⟩
  · exact h

theorem Link.lose_sound (b : Bool) {l : Link} (h : l.Sound b) : l.lose.Sound b :=
  ⟨Nat.zero_le _, h.2.1, rfl, rfl, h.2.2.2.2.1, fun hb => ⟨rfl, (h.2.2.2.2.2 hb).2.1, rfl⟩⟩

theorem Edit.linkInv (h : Edit g s t) (hs : LinkInv s) : LinkInv t := by
  cases h with
  | message d m => exact modLink_linkInv d _ (takeMessage_sound _ m) hs
  | lose d => exact modLink_linkInv d _ (Link.lose_sound _) hs
  | _ => exact hs

theorem Edits.linkInv (h : Edits g s t) (hs : LinkInv s) : LinkInv t := h.keep Edit.linkInv hs

theorem Edit.arbiterInv (h : Edit g s t) (hs : ArbiterInv s) : ArbiterInv t := by
  cases h with
  | arbiter d f _ hf =>
    intro e
    rw [modArb_arb]
    split
    · next h => subst h; exact hf _ (hs e)
    · exact hs e
  | _ => exact hs

theorem Edits.arbiterInv (h : Edits g s t) (hs : ArbiterInv s) : ArbiterInv t := h.keep Edit.arbiterInv hs

theorem Edit.deviceInv (h : Edit g s t) (hs : DeviceInv s) : DeviceInv t := by
  cases h with
  | watch d f _ hf =>
    refine ⟨hs.1, fun e => ⟨?_, (hs.2 e).2⟩⟩
    rw [modWatch_watch]
    split
    · next h => subst h; exact hf _ (hs.2 e).1
    · exact (hs.2 e).1
  | actuator d f _ hf =>
    refine ⟨hs.1, fun e => ⟨(hs.2 e).1, ?_⟩⟩
    rw [modAct_act]
    split
    · next h => subst h; exact hf _ (hs.2 e).2
    · exact (hs.2 e).2
  | monitor f _ hf => exact ⟨hf _ hs.1, hs.2⟩
  | _ => exact hs

theorem Edits.deviceInv (h : Edits g s t) (hs : DeviceInv s) : DeviceInv t := h.keep Edit.deviceInv hs

/-! ### The result store -/

theorem OutcomeCounts.bump_bounded (o : JobOutcome) {n : OutcomeCounts} (h : n.Bounded) : (n.bump o).Bounded := by
  obtain ⟨a, b, c, d, e⟩ := h
  cases o
  · exact ⟨bump_le _, b, c, d, e⟩
  · exact ⟨a, bump_le _, c, d, e⟩
  · exact ⟨a, b, bump_le _, d, e⟩
  · exact ⟨a, b, c, bump_le _, e⟩
  · exact ⟨a, b, c, d, bump_le _⟩

theorem nextSlot_bounds (i : Nat) : 1 ≤ nextSlot i ∧ nextSlot i ≤ Config.logSlots := by
  unfold nextSlot Config.logSlots; split <;> omega

/-- The slots after a record is written: the next slot holds it, the others what they held. -/
theorem Results.write_slot (r : ResultRecord) {x : Results} (h : x.slots.length = Config.logSlots) {k : Nat}
    (hk : k < Config.logSlots) :
    ((x.write r).slots.getD k none).isSome = true ↔ k + 1 = nextSlot x.index ∨ (x.slots.getD k none).isSome = true := by
  have := nextSlot_bounds x.index
  simp only [Results.write, List.getD_eq_getElem?_getD, List.getElem?_set]
  by_cases e : nextSlot x.index - 1 = k
  · rw [if_pos e, if_pos (by omega)]; exact ⟨fun _ => .inl (by omega), fun _ => rfl⟩
  · rw [if_neg e]; exact ⟨.inr, fun h => h.resolve_left (by omega)⟩

theorem Results.write_filled (r : ResultRecord) {x : Results} (hl : x.slots.length = Config.logSlots)
    (hi : x.index ≤ Config.logSlots) (h : x.Filled) : (x.write r).Filled := by
  have hn := nextSlot_bounds x.index
  by_cases full : x.index < Config.logSlots
  · have e : nextSlot x.index = x.index + 1 := if_pos full
    rcases h with ⟨_, h⟩ | h
    · exact .inl ⟨hn.1, fun k hk => (Results.write_slot r hl hk).2 (.inr (h k hk))⟩
    · refine .inr fun k hk => ?_
      rw [Results.write_slot r hl hk, h k hk]
      show _ ↔ k < nextSlot x.index
      omega
  · refine .inl ⟨hn.1, fun k hk => (Results.write_slot r hl hk).2 (.inr ?_)⟩
    rcases h with ⟨_, h⟩ | h
    · exact h k hk
    · exact (h k hk).2 (by omega)

theorem Results.write_sound (r : ResultRecord) {x : Results} (h : x.Sound) : (x.write r).Sound :=
  ⟨by simp [Results.write, h.1], (nextSlot_bounds _).2, Results.write_filled r h.1 h.2.1 h.2.2.1,
    OutcomeCounts.bump_bounded _ h.2.2.2⟩

theorem Edit.resultInv (h : Edit g s t) (hs : ResultInv s) : ResultInv t := by
  cases h <;> first | exact Results.write_sound _ hs | exact hs

theorem Edits.resultInv (h : Edits g s t) (hs : ResultInv s) : ResultInv t := h.keep Edit.resultInv hs

/-! ### The job table -/

theorem map_jobTable {f : Context → Context} (hf : ∀ c, (f c).id = c.id) {jobs : List Context} (h : JobTable jobs) :
    JobTable (jobs.map f) :=
  ⟨by simpa using h.1, List.pairwise_map.mpr (h.2.imp (by simp only [hf]; exact fun h => h))⟩

theorem filter_jobTable (p : Context → Bool) {jobs : List Context} (h : JobTable jobs) : JobTable (jobs.filter p) :=
  ⟨(List.length_filter_le ..).trans h.1, h.2.filter p⟩

theorem modCtx_jobInv {id : JobId} {f : Context → Context} (hf : ∀ c, (f c).fixed = c.fixed) (hs : JobInv s) :
    JobInv (modCtx id f s) := by
  refine map_jobTable (fun c => ?_) hs
  split
  · exact congrArg FixedFields.id (hf c)
  · rfl

theorem Edit.jobInv (h : Edit g s t) (hs : JobInv s) : JobInv t := by
  cases h with
  | leg r f _ hf =>
    exact modCtx_jobInv (fun c => (Context.mapLine_keeps r.dir f (fun l => (hf l).1) (fun l => (hf l).2) c).1) hs
  | context id f _ _ hf => exact modCtx_jobInv (fun c => (hf c).1) hs
  | free id => exact filter_jobTable _ hs
  | _ => exact hs

theorem Edits.jobInv (h : Edits g s t) (hs : JobInv s) : JobInv t := h.keep Edit.jobInv hs

theorem modCtx_legInv {id : JobId} {f : Context → Context} (hf : ∀ c, c.Bounded → (f c).Bounded) (hs : LegInv s) :
    LegInv (modCtx id f s) := by
  intro c hc
  obtain ⟨b, hb, rfl⟩ := List.mem_map.mp hc
  split
  · exact hf b (hs b hb)
  · exact hs b hb

theorem Edit.legInv (h : Edit g s t) (hs : LegInv s) : LegInv t := by
  cases h with
  | leg r f _ hf =>
    exact modCtx_legInv (fun c => (Context.mapLine_keeps r.dir f (fun l => (hf l).1) (fun l => (hf l).2) c).2) hs
  | context id f _ _ hf => exact modCtx_legInv (fun c => (hf c).2) hs
  | free id => exact fun c hc => hs c (List.mem_of_mem_filter hc)
  | _ => exact hs

theorem Edits.legInv (h : Edits g s t) (hs : LegInv s) : LegInv t := h.keep Edit.legInv hs

theorem modCtx_fixed {id : JobId} {f : Context → Context} (hf : ∀ c, (f c).fixed = c.fixed) {c : Context}
    (hc : c ∈ (modCtx id f s).jobs) : ∃ b, b ∈ s.jobs ∧ b.fixed = c.fixed := by
  obtain ⟨b, hb, rfl⟩ := List.mem_map.mp hc
  refine ⟨b, hb, ?_⟩
  split
  · exact (hf b).symm
  · rfl

/-- Every context in use after a base change was in use before it, with the same fixed fields (R38). -/
theorem Edit.fixed (h : Edit g s t) {c : Context} (hc : c ∈ t.jobs) : ∃ b, b ∈ s.jobs ∧ b.fixed = c.fixed := by
  cases h with
  | leg r f _ hf =>
    exact modCtx_fixed (fun c => (Context.mapLine_keeps r.dir f (fun l => (hf l).1) (fun l => (hf l).2) c).1) hc
  | context id f _ _ hf => exact modCtx_fixed (fun c => (hf c).1) hc
  | free id => exact ⟨c, List.mem_of_mem_filter hc, rfl⟩
  | _ => exact ⟨c, hc, rfl⟩

theorem Edits.fixed (h : Edits g s t) {c : Context} (hc : c ∈ t.jobs) : ∃ b, b ∈ s.jobs ∧ b.fixed = c.fixed := by
  induction h generalizing c with
  | refl => exact ⟨c, hc, rfl⟩
  | tail _ e ih =>
    obtain ⟨b, hb, hbc⟩ := e.fixed hc
    obtain ⟨a, ha, hab⟩ := ih hb
    exact ⟨a, ha, hab.trans hbc⟩

end Sys2Proof.Machine
end

