-- ==== Sys2Proof/Laws/Changes.lean ====
section
/-! SUPPORT. What a whole command is made of. `Change` adds to the base changes what only a command does: taking a frame, answering
it, storing parameters, putting a context in use. Every request is a sequence of changes, said once for each. -/

namespace Sys2Proof.Machine

/-- A change a command makes. -/
inductive Change : State → State → Prop
  | edits {s t : State} (h : Edits 2 s t) : Change s t
  | port (p : Port) (f : SlotLink → SlotLink) (s : State) (h : (s.port p).Sound → (f (s.port p)).Sound) :
      Change s (modPort p f s)
  | link (d : Degree) (f : Link → Link) (s : State)
      (h : (s.link d).Sound (s.deg d).enabled → (f (s.link d)).Sound (s.deg d).enabled) : Change s (modLink d f s)
  | node (f : NodeFields) (s : State) : Change s (storeNode (NodeParams.apply f s.node) s)
  | add (c : Context) (s : State) (hl : s.jobs.length < Config.maxContexts) (hn : s.ctx? c.id = none)
      (hb : c.Bounded) : Change s (addCtx c s)
  | seq (v : Nat) (s : State) (h : SeqInv s → 1 ≤ v ∧ v ≤ 65535) : Change s { s with seqCounter := v }
  | map (f : SpectrumMap → SpectrumMap) (s : State) (h : ∀ m, m.Shaped → (f m).Shaped) : Change s (modMap f s)
  | results (f : Results → Results) (s : State) (h : ∀ x, x.Sound → (f x).Sound) : Change s (modResults f s)
  | running (s : State) : Change s { s with running := true }
  | degree (d : Degree) (f : DegreeFields) (s : State) :
      Change s (enabledChanged d (s.deg d).enabled (DegreeParams.apply f (s.deg d)).enabled
        (arbiterChanged d (s.deg d) (DegreeParams.apply f (s.deg d)) (storeDegree d (DegreeParams.apply f (s.deg d)) s)))

/-- A sequence of changes. -/
abbrev Changes : State → State → Prop := Relation.ReflTransGen Change

variable {s t : State}

theorem Changes.none : Changes s s := Relation.ReflTransGen.refl

theorem Changes.then {u : State} (h : Changes s t) (e : Change t u) : Changes s u := Relation.ReflTransGen.tail h e

theorem Edits.changes (h : Edits 2 s t) : Changes s t := Relation.ReflTransGen.single (.edits h)

/-- Changes, then an operation that is a sequence of edits from the state they reach. -/
theorem Changes.edits {u : State} (h : Changes s t) (e : Edits 2 t u) : Changes s u := h.then (.edits e)

/-- What a property of states needs in order to be kept by every sequence of changes. -/
theorem Changes.keep {P : State → Prop} (hp : ∀ {s t}, Change s t → P s → P t) (h : Changes s t) (hs : P s) : P t := by
  induction h with
  | refl => exact hs
  | tail _ e ih => exact hp e ih

/-! ### Slot links -/

theorem reply_sound (p : Port) (tag : Byte) (r : Reply) (s : State) (h : (s.port p).tx.length < Config.maxFrames) :
    Change s (reply p tag r s) := by
  refine .port p _ s fun hu => ⟨?_, hu.2⟩
  simp only [List.length_append, List.length_singleton]
  omega

theorem raisePort_change (p : Port) (s : State) : Change s (raisePort p s) :=
  .port p _ s fun hu => ⟨hu.1, hu.2.1, hu.2.2.1, hu.2.2.2.1, rfl, rfl⟩

theorem SlotLink.countOverrun_sound {u : SlotLink} (h : u.Sound) : u.countOverrun.Sound :=
  ⟨h.1, h.2.1, bump_le _, h.2.2.2⟩

theorem SlotLink.discard_sound {u : SlotLink} (h : u.Sound) : u.discard.Sound :=
  ⟨h.1, bump_le _, h.2.2.1, h.2.2.2.1, h.2.2.2.2.1, rfl⟩

theorem SlotLink.keep_sound (b : List Byte) (n : Nat) {u : SlotLink} (h : u.Sound) : (u.keep b n).Sound :=
  ⟨h.1, h.2.1, h.2.2.1, h.2.2.2.1, h.2.2.2.2.1, rfl⟩

theorem SlotLink.fallSilent_sound {u : SlotLink} (h : u.Sound) : u.fallSilent.Sound :=
  ⟨h.1, h.2.1, h.2.2.1, h.2.2.2.1, rfl, h.2.2.2.2.2⟩

theorem SlotLink.frameDone_sound {u : SlotLink} (h : u.Sound) : u.frameDone.Sound := by
  unfold SlotLink.frameDone
  split
  · exact h
  · next f rest heq =>
    have hl := h.1
    rw [heq] at hl
    simp only []
    split
    · exact h
    · exact ⟨by simp only [List.length_cons] at hl; dsimp only; omega, h.2⟩

/-- A request taken on a port whose queue has room is a sequence of changes when its action is one from every state whose queue has
room. -/
theorem takeRequest_changes (p : Port) (act : State → State)
    (h : ∀ s, (s.port p).tx.length < Config.maxFrames → Changes s (act s)) (s : State) : Changes s (takeRequest p act s) := by
  unfold takeRequest
  split
  · next hl =>
    refine (Changes.none.then (raisePort_change p s)).trans (h _ ?_)
    simpa [raisePort, SlotLink.raise] using hl
  · exact (Changes.none.then (raisePort_change p s)).then (.port p _ _ SlotLink.countOverrun_sound)

/-! ### Contexts put in use -/

/-- Entries taken for a job that is put in use. -/
theorem taken (c : Context) (runs : List (Degree × MapDir)) (f : SliceEntry → SliceEntry) :
    Changes s (changeFor c runs f s) :=
  Changes.none.then (.map _ s fun _ hm => SpectrumMap.changeRuns_shaped f c.first c.count runs hm)

theorem newLineLeg_bounded (i : Point) (e : Degree) (t : Int) (p : DegreeParams) : (newLineLeg i e t p).Bounded :=
  ⟨Nat.zero_le _, Nat.zero_le _⟩

theorem forwardLeg_bounded (place : Place) (t : Int) (ps : PerDegree DegreeParams) : (forwardLeg place t ps).Bounded := by
  cases place
  · exact newLineLeg_bounded ..
  · exact newLineLeg_bounded ..
  · trivial

theorem reverseLeg_bounded (place : Place) (t : Int) (ps : PerDegree DegreeParams) : (reverseLeg place t ps).Bounded := by
  cases place
  · trivial
  · exact newLineLeg_bounded ..
  · exact newLineLeg_bounded ..

theorem newContext_bounded (id : JobId) (place : Place) (o : Option Port) (b : Bool) (k n : Nat) (x : Int)
    (r : Option (List RawHop)) (i : Nat) (ps : PerDegree DegreeParams) :
    (newContext id place o b k n x r i ps).Bounded := by
  refine ⟨forwardLeg_bounded .., fun l hl => ?_⟩
  simp only [newContext] at hl
  split at hl
  · obtain rfl := Option.some.inj hl
    exact reverseLeg_bounded ..
  · cases hl

theorem Leg.restore_bounded (levels : List Level) {l : Leg} (h : l.Bounded) : (l.restore levels).Bounded := by
  unfold Leg.restore
  split
  · unfold LineLeg.restore; split <;> exact h
  · exact h

theorem restoreContext_bounded (f : RestoreFields) (place : Place) (s : State) : (restoreContext f place s).Bounded := by
  have h := newContext_bounded f.job place (f.owner.bind Port.ofInt) (f.bidir == 1) f.first.toNat f.count.toNat f.density
    none f.hopIndex.toNat s.degrees
  refine ⟨Leg.restore_bounded _ h.1, fun l hl => ?_⟩
  simp only [restoreContext, Option.map_eq_some_iff] at hl
  obtain ⟨b, hb, rfl⟩ := hl
  exact Leg.restore_bounded _ (h.2 b hb)

/-! ### Requests -/

theorem reply_changes {p : Port} {tag : Byte} {r : Reply} (h : (s.port p).tx.length < Config.maxFrames) :
    Changes s (reply p tag r s) := Changes.none.then (reply_sound p tag r s h)

theorem doNop_changes (p : Port) (tag : Byte) (s : State) (h : (s.port p).tx.length < Config.maxFrames) :
    Changes s (doNop p tag s) := reply_changes h

theorem doQueryNode_changes (p : Port) (tag : Byte) (s : State) (h : (s.port p).tx.length < Config.maxFrames) :
    Changes s (doQueryNode p tag s) := reply_changes h

theorem doSetNode_changes (p : Port) (tag : Byte) (f : NodeFields) (s : State)
    (h : (s.port p).tx.length < Config.maxFrames) : Changes s (doSetNode p tag f s) := by
  unfold doSetNode
  split
  · exact reply_changes h
  · exact (Changes.none.then (.node f s)).trans (reply_changes h)

theorem doAbort_changes (p : Port) (tag : Byte) (j : JobId) (s : State)
    (h : (s.port p).tx.length < Config.maxFrames) : Changes s (doAbort p tag j s) := by
  unfold doAbort
  split
  · exact reply_changes h
  · split
    · unfold abortOwned
      split
      · exact reply_changes h
      · split
        · exact (reply_changes h).edits Edits.none.failLocally.settleAct
        · exact reply_changes h
    · exact reply_changes h

theorem doClose_changes (p : Port) (tag : Byte) (j : JobId) (s : State)
    (h : (s.port p).tx.length < Config.maxFrames) : Changes s (doClose p tag j s) := by
  unfold doClose
  split
  · exact reply_changes h
  · split
    · split
      · exact (reply_changes h).edits Edits.none.closeLive.settleAct
      · exact reply_changes h
    · exact reply_changes h

theorem Edits.queryLock {c : Context} (h : Edits 2 s t) : Edits 2 s (queryLock c t) := by
  unfold Machine.queryLock
  split <;> first | exact h.notifyOwner | exact h

theorem doAdopt_changes (p : Port) (tag : Byte) (j : JobId) (s : State)
    (h : (s.port p).tx.length < Config.maxFrames) : Changes s (doAdopt p tag j s) := by
  unfold doAdopt
  split
  · exact reply_changes h
  · split
    · exact reply_changes h
    · split
      · exact reply_changes h
      · split
        · exact reply_changes h
        · exact (reply_changes h).edits (Edits.queryLock (.ctx .none))

theorem Edits.lockReported {c : Context} (h : Edits 2 s t) : Edits 2 s (lockReported c t) := by
  unfold Machine.lockReported
  split
  · split
    · exact .joinUp (.ctx h)
    · exact .send (.notifyOwner (.acceptJob h))
  · exact .send (.notifyOwner (.acceptJob h))
  · exact h

theorem Edits.takeLockReport {b : Bool} {c : Context} (h : Edits 2 s t) : Edits 2 s (takeLockReport b c t) := by
  unfold Machine.takeLockReport
  refine .settleAct ?_
  split
  · exact h.lockReported
  · exact h.failLocally

theorem doLockReport_changes (p : Port) (tag : Byte) (j : JobId) (r : Int) (s : State)
    (h : (s.port p).tx.length < Config.maxFrames) : Changes s (doLockReport p tag j r s) := by
  unfold doLockReport
  split
  · split
    · exact reply_changes h
    · split
      · split
        · exact (reply_changes h).edits Edits.none.takeLockReport
        · exact reply_changes h
      · exact reply_changes h
  · exact reply_changes h

theorem doQueryJob_changes (p : Port) (tag : Byte) (j : Option JobId) (s : State)
    (h : (s.port p).tx.length < Config.maxFrames) : Changes s (doQueryJob p tag j s) := by
  unfold doQueryJob
  split
  · exact reply_changes h
  · split <;> exact reply_changes h

theorem doQueryMap_changes (p : Port) (tag : Byte) (r : RangeFields) (s : State)
    (h : (s.port p).tx.length < Config.maxFrames) : Changes s (doQueryMap p tag r s) := by
  unfold doQueryMap
  split <;> exact reply_changes h

theorem changeByRequest_changes (p : Port) (tag : Byte) (r : RangeFields) (f : SliceEntry → SliceEntry) (s : State)
    (h : (s.port p).tx.length < Config.maxFrames) : Changes s (changeByRequest p tag r f s) := by
  unfold changeByRequest
  split
  · exact reply_changes h
  · next d dir _ =>
    exact (Changes.none.then (.map (fun m => m.change f r.first.toNat r.count.toNat (d, dir)) s fun _ hm => by
      exact SpectrumMap.change_shaped hm f _ _ (d, dir))).trans (reply_changes h)

theorem doQueryDegree_changes (p : Port) (tag : Byte) (d : Int) (s : State)
    (h : (s.port p).tx.length < Config.maxFrames) : Changes s (doQueryDegree p tag d s) := by
  unfold doQueryDegree
  split <;> exact reply_changes h

theorem doClearFault_changes (p : Port) (tag : Byte) (d : Int) (s : State)
    (h : (s.port p).tx.length < Config.maxFrames) : Changes s (doClearFault p tag d s) := by
  unfold doClearFault
  split
  · exact reply_changes h
  · split
    · exact (reply_changes h).edits (Edits.settleDegree (.announce (.act .none)))
    · exact reply_changes h

theorem doClearFaultMonitor_changes (p : Port) (tag : Byte) (s : State)
    (h : (s.port p).tx.length < Config.maxFrames) : Changes s (doClearFaultMonitor p tag s) := by
  unfold doClearFaultMonitor
  split
  · exact (reply_changes h).edits Edits.none.issueProbe
  · exact reply_changes h

theorem doReadLog_changes (p : Port) (tag : Byte) (a n : Int) (s : State)
    (h : (s.port p).tx.length < Config.maxFrames) : Changes s (doReadLog p tag a n s) := by
  unfold doReadLog
  split <;> exact reply_changes h

theorem Results.initial_sound : Results.initial.Sound := by
  refine ⟨rfl, Nat.zero_le _, .inr (by decide), ?_⟩
  exact ⟨Nat.zero_le _, Nat.zero_le _, Nat.zero_le _, Nat.zero_le _, Nat.zero_le _⟩

theorem doReadCounts_changes (p : Port) (tag : Byte) (c : Int) (s : State)
    (h : (s.port p).tx.length < Config.maxFrames) : Changes s (doReadCounts p tag c s) := by
  unfold doReadCounts
  simp only []
  split
  · exact reply_changes h
  · split
    · exact (reply_changes h).then (.results _ _ fun x hx => ⟨hx.1, hx.2.1, hx.2.2.1, Results.initial_sound.2.2.2⟩)
    · split
      · exact (reply_changes h).then (.results _ _ fun _ _ => Results.initial_sound)
      · exact reply_changes h

theorem doRestoreLive_changes (p : Port) (tag : Byte) (f : RestoreFields) (s : State)
    (h : (s.port p).tx.length < Config.maxFrames) : Changes s (doRestoreLive p tag f s) := by
  unfold doRestoreLive
  split
  · split
    · exact reply_changes h
    · next c hc =>
      have hadd : s.jobs.length < Config.maxContexts ∧ s.ctx? c.id = none ∧ c.Bounded := by
        unfold restoreCheck at hc
        repeat' (split at hc)
        all_goals first
          | (cases hc; done)
          | (obtain rfl := Except.ok.inj hc
             refine ⟨by omega, ?_, restoreContext_bounded ..⟩
             simp_all [restoreContext, newContext])
      exact ((taken c c.entrySet _).then (.add c _ hadd.1 hadd.2.1 hadd.2.2)).trans (reply_changes h)
  · exact reply_changes h

theorem SpectrumMap.mapAll_shaped (f : SliceEntry → SliceEntry) {m : SpectrumMap} (h : m.Shaped) : (m.mapAll f).Shaped := by
  intro d
  have := h d
  cases d <;> simpa [SpectrumMap.mapAll, PerDegree.get] using this

theorem doEndRestore_changes (p : Port) (tag : Byte) (s : State) (h : (s.port p).tx.length < Config.maxFrames) :
    Changes s (doEndRestore p tag s) := by
  unfold doEndRestore
  split
  · exact reply_changes h
  · exact ((Changes.none.then (.map (·.mapAll SliceEntry.endRestore) s fun _ hm => SpectrumMap.mapAll_shaped _ hm)).then
      (.running _)).trans (reply_changes h)

end Sys2Proof.Machine
end

