-- ==== Sys2Proof/Laws/Commands.lean ====
section
/-! SUPPORT. OPEN's free sequence number, SET_DEGREE, and the commands that are not requests: each a sequence of changes. -/

namespace Sys2Proof.Machine

variable {s t : State}

/-! ### The sequence number of an OPEN (R39) -/

/-- The number that follows a sequence number. -/
def seqAfter (v : Nat) : Nat := if v = 65535 then 1 else v + 1

theorem freeSequence_free_or_taken (s : State) (k v : Nat) :
    s.ctx? ⟨s.node.nodeId, freeSequence s k v⟩ = none ∨
      ∀ j, j < k → (s.ctx? ⟨s.node.nodeId, seqAfter^[j] v⟩).isSome := by
  induction k generalizing v with
  | zero => exact .inr fun j hj => absurd hj (Nat.not_lt_zero j)
  | succ k ih =>
    unfold freeSequence
    split
    · next h =>
      refine (ih (seqAfter v)).imp id fun hk j hj => ?_
      cases j with
      | zero => exact h
      | succ j => simpa using hk j (by omega)
    · next h => exact .inl (by simpa using h)

theorem seqAfter_iterate (j v : Nat) (hj : j ≤ 65) :
    seqAfter^[j] v = if 65535 < v then v + j else if v + j ≤ 65535 then v + j else v + j - 65535 := by
  induction j with
  | zero => simp; omega
  | succ j ih =>
    rw [Function.iterate_succ_apply', ih (by omega)]
    unfold seqAfter
    split_ifs <;> omega

theorem seqAfter_iterate_inj {i j v : Nat} (hi : i < 65) (hj : j < 65) (h : seqAfter^[i] v = seqAfter^[j] v) : i = j := by
  rw [seqAfter_iterate i v (by omega), seqAfter_iterate j v (by omega)] at h
  split_ifs at h <;> omega

theorem ctx?_isSome_mem {id : JobId} (h : (s.ctx? id).isSome) : id ∈ s.jobs.map (·.id) := by
  obtain ⟨c, hc⟩ := Option.isSome_iff_exists.mp h
  exact List.mem_map.mpr ⟨c, List.mem_of_find?_eq_some hc, by simpa using List.find?_some hc⟩

/-- With at most 64 contexts in use, one of 65 numbers is free (R39). -/
theorem freeSequence_free (h : s.jobs.length ≤ Config.maxContexts) (v : Nat) :
    s.ctx? ⟨s.node.nodeId, freeSequence s (Config.maxContexts + 1) v⟩ = none := by
  refine (freeSequence_free_or_taken s _ v).resolve_right fun hall => ?_
  let tried := (List.range 65).map (fun j => (⟨s.node.nodeId, seqAfter^[j] v⟩ : JobId))
  have hn : tried.Nodup := by
    refine List.Nodup.map_on (fun i hi j hj hij => ?_) List.nodup_range
    exact seqAfter_iterate_inj (List.mem_range.mp hi) (List.mem_range.mp hj) (congrArg JobId.seq hij)
  have hs : tried ⊆ s.jobs.map (·.id) := by
    intro id hid
    obtain ⟨j, hj, rfl⟩ := List.mem_map.mp hid
    exact ctx?_isSome_mem (hall j (List.mem_range.mp hj))
  have := (hn.subperm hs).length_le
  simp only [tried, List.length_map, List.length_range, Config.maxContexts] at this h
  omega

theorem freeSequence_range (k v : Nat) (h : 1 ≤ v ∧ v ≤ 65535) :
    1 ≤ freeSequence s k v ∧ freeSequence s k v ≤ 65535 := by
  induction k generalizing v with
  | zero => exact h
  | succ k ih =>
    unfold freeSequence
    split
    · refine ih _ ?_
      split <;> omega
    · exact h

theorem openPlace_ok {f : OpenFields} {d : Degree} (h : openPlace f s = .ok d) :
    s.jobs.length < Config.maxContexts := by
  unfold openPlace at h
  repeat' (split at h)
  all_goals first
    | (cases h; done)
    | omega

theorem openCheck_ok {p : Port} {f : OpenFields} {c : Context} (h : openCheck p f s = .ok c) :
    ∃ d, openPlace f s = .ok d ∧ c = openContext p f d (freeSequence s (Config.maxContexts + 1) s.seqCounter) s := by
  unfold openCheck at h
  split at h
  · cases h
  · split at h
    · cases h
    · split at h
      · cases h
      · split at h
        · cases h
        · next d hd =>
          simp only [] at h
          split at h
          · cases h
          · exact ⟨d, hd, (Except.ok.inj h).symm⟩

theorem doOpen_changes (p : Port) (tag : Byte) (f : OpenFields) (s : State)
    (h : (s.port p).tx.length < Config.maxFrames) : Changes s (doOpen p tag f s) := by
  unfold doOpen
  split
  · exact reply_changes h
  · next c hc =>
    obtain ⟨d, hd, rfl⟩ := openCheck_ok hc
    have hl := openPlace_ok hd
    unfold takeOpen
    refine Changes.edits ?_ (Edits.none.sendOn)
    refine Changes.then (Changes.then ((reply_changes h).trans (taken _ _ _)) (.add _ _ hl ?_ ?_)) (.seq _ _ ?_)
    · exact freeSequence_free (s := s) (Nat.le_of_lt hl) s.seqCounter
    · have hb : (openContext p f d (freeSequence s (Config.maxContexts + 1) s.seqCounter) s).Bounded := newContext_bounded ..
      exact hb
    · intro hs
      have := freeSequence_range (s := s) (Config.maxContexts + 1) s.seqCounter hs
      simp only [openContext, newContext]
      generalize freeSequence s (Config.maxContexts + 1) s.seqCounter = v at this ⊢
      by_cases hv : v = 65535
      · simp [hv]
      · simp only [hv, if_false]; omega

/-! ### SET_DEGREE -/

theorem doSetDegree_changes (p : Port) (tag : Byte) (n : Int) (f : DegreeFields) (s : State)
    (h : (s.port p).tx.length < Config.maxFrames) : Changes s (doSetDegree p tag n f s) := by
  unfold doSetDegree
  split
  · split
    · exact reply_changes h
    · next d _ =>
      split
      · exact reply_changes h
      · exact ((reply_changes h).then (.degree d f _)).edits Edits.none.settleDegree
  · exact reply_changes h

/-! ### Every request, and the frames that carry them -/

theorem runRequest_changes (p : Port) (tag : Byte) (r : Request) (s : State)
    (h : (s.port p).tx.length < Config.maxFrames) : Changes s (runRequest p tag r s) := by
  cases r with
  | nop => exact doNop_changes p tag s h
  | queryNode => exact doQueryNode_changes p tag s h
  | setNode f => exact doSetNode_changes p tag f s h
  | setDegree d f => exact doSetDegree_changes p tag d f s h
  | openJob f => exact doOpen_changes p tag f s h
  | abortJob j => exact doAbort_changes p tag j s h
  | closeJob j => exact doClose_changes p tag j s h
  | adoptJob j => exact doAdopt_changes p tag j s h
  | lockReport j r => exact doLockReport_changes p tag j r s h
  | queryJob j => exact doQueryJob_changes p tag j s h
  | queryMap r => exact doQueryMap_changes p tag r s h
  | block r => exact changeByRequest_changes p tag r _ s h
  | unblock r => exact changeByRequest_changes p tag r _ s h
  | queryDegree d => exact doQueryDegree_changes p tag d s h
  | clearFault d => exact doClearFault_changes p tag d s h
  | clearFaultMonitor => exact doClearFaultMonitor_changes p tag s h
  | readLog a n => exact doReadLog_changes p tag a n s h
  | readCounts c => exact doReadCounts_changes p tag c s h
  | restoreLive f => exact doRestoreLive_changes p tag f s h
  | endRestore => exact doEndRestore_changes p tag s h

theorem doFrame_changes (p : Port) (tag kind : Byte) (body : List Byte) (s : State)
    (h : (s.port p).tx.length < Config.maxFrames) : Changes s (doFrame p tag kind body s) := by
  unfold doFrame
  split
  · exact runRequest_changes p tag _ s h
  · exact reply_changes h

theorem goodFrame_changes (p : Port) (tag kind : Byte) (body : List Byte) (s : State) :
    Changes s (goodFrame p tag kind body s) := takeRequest_changes p _ (fun s h => doFrame_changes p tag kind body s h) s

theorem Changes.trans {u : State} (h : Changes s t) (g : Changes t u) : Changes s u := Relation.ReflTransGen.trans h g

theorem Changes.port {p : Port} {f : SlotLink → SlotLink} (h : (s.port p).Sound → (f (s.port p)).Sound) :
    Changes s (modPort p f s) := Changes.none.then (.port p f s h)

theorem Changes.link {d : Degree} {f : Link → Link}
    (h : (s.link d).Sound (s.deg d).enabled → (f (s.link d)).Sound (s.deg d).enabled) : Changes s (modLink d f s) :=
  Changes.none.then (.link d f s h)

theorem byteReceived_changes (p : Port) (b : Byte) (s : State) : Changes s (byteReceived p b s) := by
  unfold byteReceived
  split
  · split
    · exact .port (SlotLink.keep_sound _ _)
    · exact .none
  · unfold partialByte
    split
    · exact .port SlotLink.discard_sound
    · split
      · exact .port (SlotLink.keep_sound _ _)
      · split
        · exact goodFrame_changes ..
        · exact .port SlotLink.discard_sound

theorem frameGapExpiry_changes (p : Port) (s : State) : Changes s (frameGapExpiry p s) := by
  unfold frameGapExpiry
  split
  · exact .port SlotLink.discard_sound
  · exact .none

theorem portSilenceExpiry_changes (p : Port) (s : State) : Changes s (portSilenceExpiry p s) := by
  unfold portSilenceExpiry
  split
  · exact .port SlotLink.fallSilent_sound
  · exact .none

/-! ### Supervisory links -/

theorem Link.noteHeader_sound {b : Bool} (h : Header) {l : Link} (hl : l.Sound b) : (l.noteHeader h).Sound b := by
  cases h with
  | clean => exact hl
  | corrected => exact ⟨hl.1, ⟨bump_le _, hl.2.1.2⟩, hl.2.2⟩

theorem Link.noteUncorrectable_sound {b : Bool} {l : Link} (h : l.Sound b) : l.noteUncorrectable.Sound b :=
  ⟨h.1, ⟨h.2.1.1, bump_le _, h.2.1.2.2⟩, h.2.2⟩

theorem Link.noteBodyBad_sound {b : Bool} {l : Link} (h : l.Sound b) : l.noteBodyBad.Sound b :=
  ⟨h.1, ⟨h.2.1.1, h.2.1.2.1, bump_le _, h.2.1.2.2.2⟩, h.2.2⟩

theorem Link.noteUnknownKind_sound {b : Bool} {l : Link} (h : l.Sound b) : l.noteUnknownKind.Sound b :=
  ⟨h.1, ⟨h.2.1.1, h.2.1.2.1, h.2.1.2.2.1, bump_le _, h.2.1.2.2.2.2⟩, h.2.2⟩

theorem Link.handOver_sound {b : Bool} (n : Nat) (d : Degree) {l : Link} (h : l.Sound b) : (l.handOver n d).Sound b := by
  unfold Link.handOver
  split
  · exact ⟨h.1, h.2.1, h.2.2.1, h.2.2.2.1, h.2.2.2.2.1, fun hb => ⟨(h.2.2.2.2.2 hb).1, rfl, (h.2.2.2.2.2 hb).2.2⟩⟩
  · split
    · exact h
    · next m rest hq =>
      have hl := h.1
      rw [hq] at hl
      refine ⟨by simp only [List.length_cons] at hl; dsimp only; omega, h.2.1, h.2.2.1, h.2.2.2.1, h.2.2.2.2.1, fun hb => ?_⟩
      have := (h.2.2.2.2.2 hb).2.2
      rw [hq] at this
      cases this

theorem helloTimerExpiry_changes (d : Degree) (s : State) : Changes s (helloTimerExpiry d s) := by
  unfold helloTimerExpiry
  split
  · next h =>
    refine .link fun hl => ⟨hl.1, hl.2.1, hl.2.2.1, hl.2.2.2.1, ?_, ?_⟩
    · simp [h.1, Link.formHello]
    · intro hb; rw [h.1] at hb; cases hb
  · exact .none

theorem framerSendRequest_changes (d : Degree) (s : State) : Changes s (framerSendRequest d s) := by
  unfold framerSendRequest
  split
  · exact .link (Link.handOver_sound _ _)
  · exact .none

theorem onEnabled_changes {d : Degree} {act : State → State}
    (h : ∀ u, (u.deg d).enabled = true → Changes u (act u)) (s : State) : Changes s (onEnabled d act s) := by
  unfold onEnabled
  split
  · next he => exact h s he
  · exact .none

theorem withHeader_changes {d : Degree} {hd : Header} {act : State → State}
    (h : ∀ u, (u.deg d).enabled = true → Changes u (act u)) (s : State) : Changes s (withHeader d hd act s) :=
  onEnabled_changes (fun _ he => (Changes.link (Link.noteHeader_sound hd)).trans (h _ he)) s

theorem receivePath_changes {d : Degree} {hd : Header} {act : State → State} (h : ∀ u, Changes u (act u)) (s : State) :
    Changes s (receivePath d hd act s) := by
  refine withHeader_changes (fun s _ => ?_) s
  split
  · next hu =>
    refine Changes.trans (Changes.link fun hl => ⟨hl.1, hl.2.1, hl.2.2.1, ?_, hl.2.2.2.2.1, hl.2.2.2.2.2⟩) (h _)
    exact hu.symm
  · exact .none

theorem Link.raise_sound (n k : Nat) (f : ErrorFlags) (x : Nat) {l : Link} (h : l.Sound true) :
    (l.raise n k f x).Sound true :=
  ⟨h.1, h.2.1, rfl, rfl, h.2.2.2.2.1, by simp⟩

theorem linkUp_changes {d : Degree} {n k : Nat} {f : ErrorFlags} (he : (s.deg d).enabled = true) :
    Changes s (linkUp d n k f s) := by
  refine Changes.edits (.link ?_) Edits.none.announce
  rw [he]
  exact Link.raise_sound _ _ _ _

theorem takeHello_changes {d : Degree} {n k : Nat} {f : ErrorFlags} (s : State) (he : (s.deg d).enabled = true) :
    Changes s (takeHello d n k f s) := by
  unfold takeHello
  split
  · split
    · split
      · refine .link ?_
        rw [he]
        exact Link.raise_sound _ _ _ _
      · have hd : Edits 2 s (linkDown d s) := Edits.none.linkDown
        refine (Changes.trans hd.changes (linkUp_changes ?_)).edits Edits.none.settleAct
        rw [hd.deg, he]
    · exact linkUp_changes he
  · exact .link Link.noteBodyBad_sound

theorem linkTimeoutExpiry_changes (d : Degree) (s : State) : Changes s (linkTimeoutExpiry d s) := by
  unfold linkTimeoutExpiry
  split
  · exact Edits.none.linkDown.settleAct.changes
  · exact .none

/-! ### Path messages -/

theorem Edits.confirmHolding {c : Context} (h : Edits 2 s t) : Edits 2 s (confirmHolding c t) := by
  have h1 := (h.changeFor (c := c) (runs := c.entrySet) (f := SliceEntry.confirm c.id)).ctx (id := c.id)
    (f := Context.confirmed t.node.pathLimit)
  unfold Machine.confirmHolding
  simp only []
  split
  · exact h1.send
  · exact .joinUp (.ctx (.notifyOwner h1))
  · exact h1

theorem Edits.takeReserveOk {d : Degree} {j : JobId} (h : Edits 2 s t) : Edits 2 s (takeReserveOk d j t) := by
  unfold Machine.takeReserveOk
  split
  · exact h.send
  · split
    · exact h.confirmHolding.settleAct
    · exact h

theorem Edits.takeRefuse {d : Degree} {j : JobId} {c : Cause} {n : Nat} (h : Edits 2 s t) :
    Edits 2 s (takeRefuse d j c n t) := by
  refine .onCtx h fun c h => ?_
  split
  · exact h.endHolding
  · exact h

theorem Edits.releaseAt {d : Degree} {j : JobId} (h : Edits 2 s t) : Edits 2 s (releaseAt d j t) := by
  refine .onCtx h fun c h => ?_
  split
  · refine .releaseReservation ?_
    split
    · exact h.writeResult
    · exact h
  · exact h

theorem Edits.takeRampTurn {d : Degree} {j : JobId} {n : Nat} (h : Edits 2 s t) : Edits 2 s (takeRampTurn d j n t) := by
  unfold Machine.takeRampTurn
  split
  · refine .onCtx h fun c h => ?_
    unfold turnForward
    split
    · split
      · exact .settleAct (.joinUp (.ctx (.changeFor h)))
      · exact .notifyOwner (.ctx (.changeFor h))
      · exact h
    · exact h
  · refine .onCtx h fun c h => ?_
    unfold turnReverse
    split
    · split
      · exact .settleAct (.joinUp (.ctx (.changeFor h)))
      · exact .notifyOwner (.ctx (.changeFor h))
      · exact h
    · exact h
  · exact h

theorem Edits.acceptPathUp {d : Degree} {c : Context} (h : Edits 2 s t) : Edits 2 s (acceptPathUp d c t) := by
  unfold Machine.acceptPathUp
  split
  · exact h
  · split
    · split
      · exact h.acceptJob.send
      · exact h.acceptJob.notifyOwner
    · exact h

theorem Edits.takeFail {d : Degree} {j : JobId} {f : Failure} (h : Edits 2 s t) : Edits 2 s (takeFail d j f t) := by
  refine .onCtx h fun c h => ?_
  split
  · exact h.failJob.settleAct
  · exact h

theorem Edits.takeDrop {d : Degree} {c : Context} (h : Edits 2 s t) : Edits 2 s (takeDrop d c t) := by
  unfold Machine.takeDrop
  split
  · exact h.closeLive.settleAct
  · exact h

theorem Edits.takeDownTurn {d : Degree} {c : Context} (h : Edits 2 s t) : Edits 2 s (takeDownTurn d c t) := by
  unfold Machine.takeDownTurn
  split
  · exact h.beginRampDown.settleAct
  · exact h

/-- A RESERVE whose checks pass finds a free context and no other with its job id (R63 checks 6 and 7). -/
theorem reserveCause_none {f : ReserveFields} {place : Place} {hop : RawHop} (h : reserveCause f place hop s = none) :
    s.jobs.length < Config.maxContexts ∧ s.ctx? f.job = none := by
  unfold reserveCause at h
  simp only [] at h
  split at h
  · cases h
  · split at h
    · cases h
    · split at h
      · cases h
      · next h1 h2 => exact ⟨by omega, by simpa using h2⟩

theorem takeReserve_changes {d : Degree} {f : ReserveFields} {place : Place} {hop : RawHop}
    (h : reserveCause f place hop s = none) : Changes s (takeReserve d f place hop s) := by
  obtain ⟨hl, hn⟩ := reserveCause_none h
  have add : ∀ (fe : SliceEntry → SliceEntry) (c : Context), c.id = f.job → c.Bounded →
      Changes s (addCtx c (changeFor (reserveContext f place hop s) (reserveContext f place hop s).entrySet fe s)) := by
    intro fe c hc hb
    refine (taken _ _ _).then (.add c _ hl ?_ hb)
    rw [hc]
    exact hn
  have hb : (reserveContext f place hop s).Bounded := newContext_bounded ..
  unfold takeReserve
  simp only []
  split
  · refine Changes.edits ?_ Edits.none.send
    exact add _ _ rfl (by exact hb)
  · refine Changes.edits ?_ Edits.none.send
    exact add _ _ rfl (by exact hb)
  · exact .none

theorem reserveAt_changes (d : Degree) (f : ReserveFields) (s : State) : Changes s (reserveAt d f s) := by
  have refuse : ∀ c, Changes s (send d (.refuse f.job c s.node.nodeId) s) := fun c => Edits.none.send.changes
  unfold reserveAt
  simp only []
  split
  · exact refuse _
  · split
    · exact refuse _
    · split
      · exact refuse _
      · split
        · exact refuse _
        · split
          · exact refuse _
          · next h => exact takeReserve_changes h

/-! ### Timers -/

theorem Edits.holdExpiry {c : Context} (h : Edits 2 s t) : Edits 2 s (holdExpiry c t) := by
  unfold Machine.holdExpiry
  split
  · exact h.expireHolding
  · exact h

theorem Edits.pathExpiry {c : Context} (h : Edits 2 s t) : Edits 2 s (pathExpiry c t) := by
  unfold Machine.pathExpiry
  split
  · exact h.failLocally.settleAct
  · exact h

theorem Edits.lockExpiry {c : Context} (h : Edits 2 s t) : Edits 2 s (lockExpiry c t) := by
  unfold Machine.lockExpiry
  split
  · exact h.failLocally.settleAct
  · exact h

theorem Edits.teardownExpiry {c : Context} (h : Edits 2 s t) : Edits 2 s (teardownExpiry c t) := by
  unfold Machine.teardownExpiry
  split
  · exact h.beginRampDown.settleAct
  · exact h

theorem Edits.settleExpiry {r : LegRef} {l : LineLeg} (h : Edits 2 s t) : Edits 2 s (settleExpiry r l t) := by
  unfold Machine.settleExpiry
  split
  · exact h.legSettled.settleAct
  · exact h

theorem Edits.spacingExpiry {r : LegRef} {l : LineLeg} (h : Edits 2 s t) : Edits 2 s (spacingExpiry r l t) := by
  unfold Machine.spacingExpiry
  split
  · exact .issueNext (.askScan (.leg h))
  · exact h

theorem Edits.retryExpiry {r : LegRef} {l : LineLeg} (h : Edits 2 s t) : Edits 2 s (retryExpiry r l t) := by
  unfold Machine.retryExpiry
  split
  · exact .settleAct (.joinUp (.leg h.without))
  · exact h

theorem Edits.darkExpiry {r : LegRef} {l : LineLeg} (h : Edits 2 s t) : Edits 2 s (darkExpiry r l t) := by
  unfold Machine.darkExpiry
  split
  · exact h.failByLeg.settleAct
  · exact h

theorem Edits.headroomExpiry {r : LegRef} {l : LineLeg} (h : Edits 2 s t) : Edits 2 s (headroomExpiry r l t) := by
  unfold Machine.headroomExpiry
  split
  · exact h.failByLeg.settleAct
  · exact h

end Sys2Proof.Machine
end

