-- ==== Sys2Proof/Laws/Frames.lean ====
section
/-! SUPPORT. What the lower grades of edits leave alone: granting, freezing and scanning (grade 0) touch no port, link, result record or
field of a context outside its legs; lowering and releasing (grade 1) change no such field of a context that stays in use. -/

namespace Sys2Proof.Machine

variable {s t : State}

@[simp] theorem Context.mapLine_outer (c : Context) (dir : Dir) (f : LineLeg → LineLeg) :
    (c.mapLine dir f).outer = c.outer := by
  cases dir <;> rfl

theorem modLeg_outer (r : LegRef) (f : LineLeg → LineLeg) (s : State) :
    (modLeg r f s).jobs.map Context.outer = s.jobs.map Context.outer := by
  simp only [modLeg, modCtx, List.map_map]
  refine List.map_congr_left fun c _ => ?_
  simp only [Function.comp_apply]
  split <;> simp

/-! ### Grade 0 -/

theorem Edit.quiet (h : Edit 0 s t) : t.ports = s.ports ∧ t.links = s.links ∧ t.results = s.results
    ∧ t.jobs.map Context.outer = s.jobs.map Context.outer := by
  cases h with
  | leg r f => exact ⟨rfl, rfl, rfl, modLeg_outer r f s⟩
  | notice _ _ _ hg => omega
  | announce _ _ _ _ hg => omega
  | message _ _ _ hg => omega
  | lose _ _ hg => omega
  | context _ _ _ hg _ => omega
  | free _ _ hg => omega
  | record _ _ _ _ hg => omega
  | _ => exact ⟨rfl, rfl, rfl, rfl⟩

/-- Granting, freezing and scanning leave ports, links, results and the contexts outside their legs as they are. -/
theorem Edits.quiet (h : Edits 0 s t) : t.ports = s.ports ∧ t.links = s.links ∧ t.results = s.results
    ∧ t.jobs.map Context.outer = s.jobs.map Context.outer := by
  induction h with
  | refl => exact ⟨rfl, rfl, rfl, rfl⟩
  | tail _ e ih =>
    obtain ⟨a, b, c, d⟩ := e.quiet
    obtain ⟨a', b', c', d'⟩ := ih
    exact ⟨a.trans a', b.trans b', c.trans c', d.trans d'⟩

theorem settleAct_quiet (s : State) : (settleAct s).ports = s.ports ∧ (settleAct s).links = s.links
    ∧ (settleAct s).results = s.results ∧ (settleAct s).jobs.map Context.outer = s.jobs.map Context.outer :=
  (Edits.none (g := 0)).settleAct.quiet

theorem settleDegree_quiet (d : Degree) (s : State) : (settleDegree d s).ports = s.ports
    ∧ (settleDegree d s).links = s.links ∧ (settleDegree d s).results = s.results
    ∧ (settleDegree d s).jobs.map Context.outer = s.jobs.map Context.outer :=
  (Edits.none (g := 0)).settleDegree.quiet

theorem settleAct_params (s : State) : (settleAct s).node = s.node ∧ (settleAct s).degrees = s.degrees
    ∧ (settleAct s).running = s.running ∧ (settleAct s).time = s.time ∧ (settleAct s).seqCounter = s.seqCounter
    ∧ (settleAct s).pending = s.pending := (Edits.none (g := 0)).settleAct.params

theorem settleDegree_params (d : Degree) (s : State) : (settleDegree d s).node = s.node
    ∧ (settleDegree d s).degrees = s.degrees ∧ (settleDegree d s).running = s.running
    ∧ (settleDegree d s).time = s.time ∧ (settleDegree d s).seqCounter = s.seqCounter
    ∧ (settleDegree d s).pending = s.pending := (Edits.none (g := 0)).settleDegree.params

/-! ### Grade 1 -/

theorem Edit.outer (h : Edit 1 s t) {c : Context} (hc : c ∈ t.jobs) : ∃ b, b ∈ s.jobs ∧ b.outer = c.outer := by
  cases h with
  | leg r f =>
    have := modLeg_outer r f s
    obtain ⟨b, hb, he⟩ := List.mem_map.mp (this ▸ List.mem_map_of_mem (f := Context.outer) hc)
    exact ⟨b, hb, he⟩
  | announce _ _ _ _ hg => omega
  | lose _ _ hg => omega
  | context _ _ _ hg _ => omega
  | free id => exact ⟨c, List.mem_of_mem_filter hc, rfl⟩
  | _ => exact ⟨c, hc, rfl⟩

/-- Every context in use after lowering and releasing was in use before, the same outside its legs. -/
theorem Edits.outer (h : Edits 1 s t) {c : Context} (hc : c ∈ t.jobs) : ∃ b, b ∈ s.jobs ∧ b.outer = c.outer := by
  induction h generalizing c with
  | refl => exact ⟨c, hc, rfl⟩
  | tail _ e ih =>
    obtain ⟨b, hb, hbc⟩ := e.outer hc
    obtain ⟨a, ha, hab⟩ := ih hb
    exact ⟨a, ha, hab.trans hbc⟩

/-! ### The map under edits (R22) -/

theorem SliceEntry.Keeps.refl (e : SliceEntry) : e.Keeps e := .inl rfl

theorem SliceEntry.Keeps.trans {a b c : SliceEntry} (h : a.Keeps b) (g : b.Keeps c) : a.Keeps c := by
  rcases h with rfl | h
  · exact g
  · rcases g with rfl | g
    · exact .inr h
    · refine .inr ?_
      cases a <;> simp only [] at h <;> rcases h with rfl | rfl | rfl | rfl | rfl <;> simp_all

end Sys2Proof.Machine
end

