-- ==== Sys2Proof/Laws/Jobs.lean ====
section
/-! SUPPORT. What the acts of one job leave alone: lowering its legs, releasing it and failing it touch no other context outside its
legs, take nothing from a transmit or outbound queue, and change no parameter. -/

namespace Sys2Proof.Machine

variable {s t : State} {id : JobId}

/-- Between `s` and `t` only the job `id` has acted: the other contexts are the same outside their legs, its own is the same there or
freed; frames and messages have only been added; no parameter has changed. -/
structure OneJob (id : JobId) (s t : State) : Prop where
  others : (t.jobs.filter (fun c => c.id ≠ id)).map Context.outer = (s.jobs.filter (fun c => c.id ≠ id)).map Context.outer
  own    : ∀ b, b ∈ t.jobs → b.id = id → ∃ a, a ∈ s.jobs ∧ a.outer = b.outer
  ports  : ∀ p, (t.port p).up = (s.port p).up ∧ (s.port p).tx <+: (t.port p).tx
  links  : ∀ d, (t.link d).up = (s.link d).up ∧ (s.link d).queue <+: (t.link d).queue
  params : t.node = s.node ∧ t.degrees = s.degrees ∧ t.running = s.running ∧ t.time = s.time ∧ t.seqCounter = s.seqCounter
             ∧ t.pending = s.pending

theorem OneJob.refl : OneJob id s s where
  others := rfl
  own b hb _ := ⟨b, hb, rfl⟩
  ports _ := ⟨rfl, List.prefix_rfl⟩
  links _ := ⟨rfl, List.prefix_rfl⟩
  params := ⟨rfl, rfl, rfl, rfl, rfl, rfl⟩

theorem Context.outer_id {a b : Context} (h : a.outer = b.outer) : a.id = b.id :=
  show a.outer.id = b.outer.id from congrArg Context.id h

theorem OneJob.trans {u : State} (h : OneJob id s t) (g : OneJob id t u) : OneJob id s u where
  others := g.others.trans h.others
  own b hb hi := by
    obtain ⟨a, ha, e⟩ := g.own b hb hi
    obtain ⟨a', ha', e'⟩ := h.own a ha ((Context.outer_id e).trans hi)
    exact ⟨a', ha', e'.trans e⟩
  ports p := ⟨(g.ports p).1.trans (h.ports p).1, (h.ports p).2.trans (g.ports p).2⟩
  links d := ⟨(g.links d).1.trans (h.links d).1, (h.links d).2.trans (g.links d).2⟩
  params := by
    obtain ⟨a, b, c, d, e, f⟩ := h.params
    obtain ⟨a', b', c', d', e', f'⟩ := g.params
    exact ⟨a'.trans a, b'.trans b, c'.trans c, d'.trans d, e'.trans e, f'.trans f⟩

/-- The contexts that satisfy a test of their fields outside the legs, in two tables that are the same there. -/
theorem filter_outer (p : Context → Bool) (hp : ∀ c, p c.outer = p c) {l m : List Context}
    (h : l.map Context.outer = m.map Context.outer) : (l.filter p).map Context.outer = (m.filter p).map Context.outer := by
  have key : ∀ x : List Context, (x.filter p).map Context.outer = (x.map Context.outer).filter p := by
    intro x
    rw [List.filter_map]
    congr 1
    exact List.filter_congr fun c _ => (hp c).symm
  rw [key, key, h]

/-- Granting, freezing and scanning are no job's acts outside the legs. -/
theorem OneJob.quiet (h : Edits 0 s t) : OneJob id s t where
  others := filter_outer _ (fun _ => rfl) h.quiet.2.2.2
  own b hb _ := by
    have : b.outer ∈ s.jobs.map Context.outer := h.quiet.2.2.2 ▸ List.mem_map_of_mem hb
    obtain ⟨a, ha, e⟩ := List.mem_map.mp this
    exact ⟨a, ha, e⟩
  ports p := by
    have : t.port p = s.port p := by simp only [State.port, h.quiet.1]
    rw [this]
    exact ⟨rfl, List.prefix_rfl⟩
  links d := by
    have : t.link d = s.link d := by simp only [State.link, h.quiet.2.1]
    rw [this]
    exact ⟨rfl, List.prefix_rfl⟩
  params := h.params

theorem OneJob.edits {u : State} (h : OneJob id s t) (e : Edits 0 t u) : OneJob id s u := h.trans (.quiet e)

theorem takeNotice_adds (n : Notice) (u : SlotLink) : (takeNotice n u).up = u.up ∧ u.tx <+: (takeNotice n u).tx := by
  unfold takeNotice
  split
  · split
    · exact ⟨rfl, List.prefix_append ..⟩
    · exact ⟨rfl, List.prefix_rfl⟩
  · exact ⟨rfl, List.prefix_rfl⟩

theorem takeMessage_adds (b : Bool) (m : Message) (l : Link) :
    (takeMessage b m l).up = l.up ∧ l.queue <+: (takeMessage b m l).queue := by
  unfold takeMessage
  split
  · split
    · exact ⟨rfl, List.prefix_append ..⟩
    · exact ⟨rfl, List.prefix_rfl⟩
  · exact ⟨rfl, List.prefix_rfl⟩

theorem OneJob.notify (p : Port) (n : Notice) (s : State) : OneJob id s (notify p n s) where
  others := rfl
  own b hb _ := ⟨b, hb, rfl⟩
  ports q := by
    by_cases h : q = p
    · subst h
      simpa [Machine.notify, modPort, State.port] using takeNotice_adds n (s.ports.get q)
    · simp [Machine.notify, modPort, State.port, PerPort.get_set_ne _ _ h]
  links _ := ⟨rfl, List.prefix_rfl⟩
  params := ⟨rfl, rfl, rfl, rfl, rfl, rfl⟩

theorem OneJob.notifyOwner (o : Option Port) (n : Notice) (s : State) : OneJob id s (notifyOwner o n s) := by
  cases o
  · exact .refl
  · exact .notify ..

theorem OneJob.send (d : Degree) (m : Message) (s : State) : OneJob id s (send d m s) where
  others := rfl
  own b hb _ := ⟨b, hb, rfl⟩
  ports _ := ⟨rfl, List.prefix_rfl⟩
  links e := by
    by_cases h : e = d
    · subst h
      simpa [Machine.send, modLink, State.link] using takeMessage_adds (s.deg e).enabled m (s.links.get e)
    · simp [Machine.send, modLink, State.link, PerDegree.get_set_ne _ _ h]
  params := ⟨rfl, rfl, rfl, rfl, rfl, rfl⟩

theorem OneJob.sendOn (d : Option Degree) (m : Message) (s : State) : OneJob id s (sendOn d m s) := by
  cases d
  · exact .refl
  · exact .send ..

theorem OneJob.writeResult (c : Context) (o : JobOutcome) (f : Option Failure) (s : State) :
    OneJob id s (writeResult c o f s) where
  others := rfl
  own b hb _ := ⟨b, hb, rfl⟩
  ports _ := ⟨rfl, List.prefix_rfl⟩
  links _ := ⟨rfl, List.prefix_rfl⟩
  params := ⟨rfl, rfl, rfl, rfl, rfl, rfl⟩

theorem OneJob.dropCtx (id : JobId) (s : State) : OneJob id s (dropCtx id s) where
  others := by simp only [Machine.dropCtx, List.filter_filter, Bool.and_self]
  own b hb _ := ⟨b, List.mem_of_mem_filter hb, rfl⟩
  ports _ := ⟨rfl, List.prefix_rfl⟩
  links _ := ⟨rfl, List.prefix_rfl⟩
  params := ⟨rfl, rfl, rfl, rfl, rfl, rfl⟩

theorem ctx?_id {c : Context} (h : s.ctx? id = some c) : c.id = id := by simpa using List.find?_some h

theorem OneJob.onCtx {k : Context → State → State} (h : ∀ c, c.id = id → OneJob id s (k c s)) : OneJob id s (onCtx id k s) := by
  unfold Machine.onCtx
  split
  · rename_i c hc
    exact h c (ctx?_id hc)
  · exact .refl

theorem OneJob.onLeg {r : LegRef} {k : LineLeg → State → State} (h : ∀ l, OneJob id s (k l s)) : OneJob id s (onLeg r k s) := by
  unfold Machine.onLeg
  split
  · exact h _
  · exact .refl

theorem OneJob.freeContext (c : Context) (s : State) : OneJob c.id s (freeContext c s) :=
  (OneJob.quiet (.withdraw (.withdraw .none))).trans (.dropCtx ..)

theorem OneJob.releaseFailed (c : Context) (s : State) : OneJob c.id s (releaseFailed c s) := by
  unfold Machine.releaseFailed
  split
  · refine .trans (.trans ?_ (.notifyOwner _ _ _)) (.freeContext c _)
    split
    · exact .writeResult ..
    · exact .refl
  · exact .refl

theorem OneJob.releaseClosed (c : Context) (s : State) : OneJob c.id s (releaseClosed c s) :=
  (((OneJob.quiet (.releaseSet .none)).trans (.writeResult ..)).trans (.notifyOwner ..)).trans
    ((OneJob.sendOn ..).trans (.freeContext ..))

theorem OneJob.checkEnded (id : JobId) (s : State) : OneJob id s (checkEnded id s) := by
  refine .onCtx fun c hc => ?_
  subst hc
  split
  · split
    · exact .releaseFailed ..
    · split
      · exact .releaseClosed ..
      · exact .refl
  · exact .refl

theorem OneJob.reachOff (r : LegRef) (s : State) : OneJob r.job s (reachOff r s) := by
  refine .onCtx fun c _ => .onLeg fun l => .trans ?_ (.checkEnded ..)
  have h : Edits 0 s (modLeg r LineLeg.off (Machine.detach l.egress r (Machine.withdraw r s))) :=
    .leg (.detach (.withdraw .none))
  split
  · exact .quiet (.changeFor (.requeue (.order h)))
  · exact .quiet (.requeue (.order h))

theorem OneJob.abandonLeg (r : LegRef) (s : State) : OneJob r.job s (abandonLeg r s) :=
  .onCtx fun _ _ => .onLeg fun _ => (OneJob.quiet (.changeFor .none)).trans (.reachOff ..)

theorem OneJob.turnDown (r : LegRef) (s : State) : OneJob r.job s (turnDown r s) := by
  refine .onLeg fun l => ?_
  split
  · exact .abandonLeg ..
  · split
    · exact .reachOff ..
    · exact .quiet (.startDown (.arb .none))

theorem OneJob.joinDown (r : LegRef) (s : State) : OneJob r.job s (joinDown r s) := by
  refine .onLeg fun l => ?_
  split
  · exact .abandonLeg ..
  · split
    · exact .reachOff ..
    · exact .quiet (.leg (.arb .none))

theorem OneJob.handOver (r : LegRef) (s : State) : OneJob r.job s (handOver r s) := by
  refine .onLeg fun l => ?_
  split
  · exact .refl
  · exact .refl
  · split
    · exact .refl
    · exact (OneJob.quiet (.endStep (.withdraw .none))).trans (.turnDown ..)
  · exact (OneJob.quiet (.order (.leg (.without .none)))).trans (.joinDown ..)

theorem OneJob.handAll (c : Context) (s : State) : OneJob c.id s (handAll c s) := by
  unfold Machine.handAll
  generalize c.lineLegs = legs
  induction legs generalizing s with
  | nil => exact .refl
  | cons x xs ih => exact (OneJob.handOver ⟨c.id, x.1⟩ s).trans (ih _)

theorem OneJob.sendFail (c : Context) (f : Failure) (arrival : Option Degree) (s : State) :
    OneJob id s (sendFail c f arrival s) := by
  have on : ∀ (u : State) (d : Option Degree),
      OneJob id u (if d = arrival then u else Machine.sendOn d (.fail c.id f.cause f.verdict f.origin) u) := by
    intro u d
    split
    · exact .refl
    · exact .sendOn ..
  exact (on _ _).trans (on _ _)

theorem OneJob.unwind (c : Context) (s : State) : OneJob c.id s (unwind c s) :=
  ((OneJob.quiet (.changeFor .none)).trans (.handAll ..)).trans (.checkEnded ..)

theorem OneJob.settleAct (s : State) : OneJob id s (settleAct s) := .quiet (.settleAct .none)

theorem OneJob.settleDegree (d : Degree) (s : State) : OneJob id s (settleDegree d s) := .quiet (.settleDegree .none)

/-! ### Failure (R45, R87, R90) -/

/-- A job that can fail, failing: what its context is outside the legs unless it is freed, and what is left alone. -/
theorem failJob_jobs {f : Failure} {leg : Option Dir} {arrival : Option Degree} {c : Context} (h : s.ctx? id = some c)
    (hc : c.phase.canFail = true) :
    OneJob id (modCtx id (Context.failing f leg) s) (failJob id f leg arrival s) := by
  have hi : c.id = id := ctx?_id h
  subst hi
  simp only [failJob, Machine.onCtx, h, hc, if_true]
  exact (OneJob.sendFail ..).trans (.unwind ..)

end Sys2Proof.Machine
end

