-- ==== Sys2Proof/Tests/Slice0.lean ====
section
/-! SUPPORT. Tests: the checks of well-formedness, the spec's worked cases, one or two steps of commands on small states, and for each
obligation with hypotheses a state and operands that meet them. -/

namespace Sys2Proof.Tests
open Sys2Proof.Machine

-- One kernel evaluation at a time: each has a thread of its own else.
set_option Elab.async false

/-! ### Well-formedness: an ill-formed term for each check -/

theorem test_wf_item : (Instr.queryDegree .p1 0 2147483648).wf = false := by decide
theorem test_wf_optional_item : (Instr.setNode .p1 0 { nodeId := some (-2147483649) }).wf = false := by decide
theorem test_wf_degree_fields : (Instr.setDegree .p1 0 1 { stepSize := some 2147483648 }).wf = false := by decide
theorem test_wf_degree_number : (Instr.setDegree .p1 0 2147483648 {}).wf = false := by decide
theorem test_wf_job_id : (Instr.abortJob .p1 0 ⟨65536, 1⟩).wf = false := by decide
theorem test_wf_optional_job_id : (Instr.queryJob .p1 0 (some ⟨1, 65536⟩)).wf = false := by decide
theorem test_wf_hop : (Instr.openJob .p1 0 ⟨[⟨65536, 1, 0⟩], 0, 2, 0, 0⟩).wf = false := by decide
theorem test_wf_open_without_hops : (Instr.openJob .p1 0 ⟨[], 0, 2, 0, 0⟩).wf = false := by decide
theorem test_wf_open_too_long : (Instr.openJob .p1 0 ⟨List.replicate 47 ⟨1, 1, 0⟩, 0, 2, 0, 0⟩).wf = false := by decide
theorem test_wf_range : (Instr.block .p1 0 ⟨1, 0, 0, 2147483648⟩).wf = false := by decide
theorem test_wf_lock_report : (Instr.lockReport .p1 0 ⟨1, 1⟩ 2147483648).wf = false := by decide
theorem test_wf_read_log : (Instr.readLog .p1 0 0 2147483648).wf = false := by decide
theorem test_wf_restore :
    (Instr.restoreLive .p1 0 ⟨⟨1, 1⟩, 0, 0, some 2147483648, none, some 1, 0, 0, 2, 0, some 0, none⟩).wf = false := by decide
theorem test_wf_bad_request_kind : (Instr.badRequest .p1 0 0x01#8 []).wf = false := by decide
theorem test_wf_bad_request_body : (Instr.badRequest .p1 0 0x05#8 (List.replicate 251 0#8)).wf = false := by decide +kernel
theorem test_wf_overrun_body : (Instr.requestOverrun .p1 0 0x01#8 (List.replicate 251 0#8)).wf = false := by decide +kernel
theorem test_wf_hello : (Instr.hello .d1 .clean 65536 1 noErrors).wf = false := by decide
theorem test_wf_reserve_density : (Instr.reserve .d1 .clean ⟨⟨1, 1⟩, 1, 0, 2, 32768, 0, []⟩).wf = false := by decide
theorem test_wf_reserve_length :
    (Instr.reserve .d1 .clean ⟨⟨1, 1⟩, 1, 0, 2, 0, 0, List.replicate 61 ⟨1, 1, 0⟩⟩).wf = false := by decide
theorem test_wf_refuse_node : (Instr.refuse .d1 .clean ⟨1, 1⟩ .expired 65536).wf = false := by decide
theorem test_wf_turn : (Instr.rampTurn .d1 .clean ⟨1, 1⟩ 256).wf = false := by decide
theorem test_wf_fail_origin : (Instr.fail .d1 .clean ⟨1, 1⟩ .linkDown 0#8 65536).wf = false := by decide
theorem test_wf_scan_issue : (Instr.scanResult 256 []).wf = false := by decide
theorem test_wf_command_issue : (Instr.actuatorCompletion .d1 256 .off).wf = false := by decide

/-! ### The worked cases of chapter 1 -/

/-- A degree with the parameters of the cases: those after reset. -/
def plain : DegreeParams := DegreeParams.initial

/-- 1.10 "Ramp plan": T = 452, P = -1048. -/
theorem test_ramp_plan : targetLevel (-150) 4 = 452 ∧ probeLevel 452 plain = -1048 := by decide
/-- 1.10 "Ramp plan": with a level ceiling of +300 the top is 300. -/
theorem test_ramp_plan_short : ladderTop 452 { plain with levelCeiling := 300 } = 300 := by decide
/-- 1.10 "Ramp plan": the way down from 452. -/
theorem test_ramp_down :
    (List.range 6).map (fun k => (fun x => downRequest x (-1048) plain)^[k + 1] (.num 452)) =
      [.num 152, .num (-148), .num (-448), .num (-748), .num (-1048), .off] := by decide
/-- R2: distances 3 and 13, covering range (120, 10). -/
theorem test_slices : sliceDistance 120 4 126 4 = 3 ∧ sliceDistance 120 4 100 8 = 13 ∧ covering 120 4 [(126, 4)] = (120, 10) := by
  decide
/-- R11: the order of a fold matters. -/
theorem test_fold_order : foldLevels [100, 0, 0] = 514 ∧ foldLevels [0, 0, 100] = 513 := by decide
/-- 1.10 "Verification": the measured level is -1552. -/
theorem test_channel_level : channelLevel 120 120 4 [-2150, -2148, -2155, -2152] = -1552 := by decide
/-- 1.10 "Headroom": 1021, and 1013 with D first; 6.8: 895. -/
theorem test_headroom :
    foldLevels [400, 452, 380, 452] = 1021 ∧ foldLevels [452, 400, 452, 380] = 1013 ∧ foldLevels [400, 380, 452] = 895 := by decide
/-- 1.10 "Verification": |-70| above the limit is DISTURB whatever the deviation; -4 within the tolerance is PASS. -/
theorem test_judge : judge plain (-4) [-70, 30] = .disturb ∧ judge plain (-4) [] = .pass ∧ worstOf [-30, 30] = some (-30) := by
  decide
/-- 1.10 "Dark decision": two low totals in a row make a LIT degree DARK. -/
theorem test_dark_decision :
    watchLow (-5200) plain = true ∧ watchLow (-1400) plain = false
      ∧ (Watch.decide true (Watch.decide true ⟨.lit, 0, .inFlight, none⟩)).dark = .dark := by decide
/-- 7.8: a single settle of 170 with 12 amplifiers, doubled for LIGHT_ON (R18). -/
theorem test_settle :
    settleTime .up { plain with amplifierCount := 12 } = 170 ∧ settleTime .lightOn { plain with amplifierCount := 12 } = 340 := by
  decide

/-! ### Layouts -/

/-- R182: the digits 1 to 9. -/
theorem test_crc : crc16 [0x31#8, 0x32#8, 0x33#8, 0x34#8, 0x35#8, 0x36#8, 0x37#8, 0x38#8, 0x39#8] = 0x29B1#16 := by decide +kernel

/-- R179, R182: NOP with tag 7 is marker, length 0, kind 1, tag 7 and the CRC of the three bytes, low byte first. -/
theorem test_frame : frameBytes 0x01#8 7#8 [] = [0xA5#8, 0x00#8, 0x01#8, 0x07#8] ++ crcBytes [0x00#8, 0x01#8, 0x07#8] := by decide +kernel

/-- R180: CLEAR_FAULT(2) is kind 0x24 with item 1 of value 2, low byte first; without items it is the monitor's. -/
theorem test_decode_clear_fault :
    decodeRequest 0x24#8 [1#8, 2#8, 0#8, 0#8, 0#8] = some (.clearFault 2) ∧ decodeRequest 0x24#8 [] = some .clearFaultMonitor := by
  decide
/-- R180: CLOSE of job 7/12: head node id in the low half of the value. -/
theorem test_decode_close : decodeRequest 0x12#8 [1#8, 7#8, 0#8, 12#8, 0#8] = some (.closeJob ⟨7, 12⟩) := by decide +kernel
/-- R180: an item twice, or one the request does not define, makes no request. -/
theorem test_decode_refuses :
    decodeRequest 0x12#8 [1#8, 7#8, 0#8, 12#8, 0#8, 1#8, 7#8, 0#8, 12#8, 0#8] = none ∧ decodeRequest 0x01#8 [1#8, 0#8, 0#8, 0#8, 0#8] = none
      ∧ decodeRequest 0x05#8 [] = none := by decide
/-- R34, R180: QUERY_MAP of degree 3 outgoing over (100, 8). -/
theorem test_decode_query_map :
    decodeRequest 0x20#8 [1#8, 3#8, 0#8, 0#8, 0#8, 2#8, 1#8, 0#8, 0#8, 0#8, 3#8, 100#8, 0#8, 0#8, 0#8, 4#8, 8#8, 0#8, 0#8, 0#8] =
      some (.queryMap ⟨3, 1, 100, 8⟩) := by decide
/-- R180: LOCK_REPORT(7/12, locked). -/
theorem test_decode_lock_report :
    decodeRequest 0x14#8 [1#8, 7#8, 0#8, 12#8, 0#8, 2#8, 1#8, 0#8, 0#8, 0#8] = some (.lockReport ⟨7, 12⟩ 1) := by decide
/-- R180: READ_LOG(0, 3). -/
theorem test_decode_read_log :
    decodeRequest 0x30#8 [1#8, 0#8, 0#8, 0#8, 0#8, 2#8, 3#8, 0#8, 0#8, 0#8] = some (.readLog 0 3) := by decide

/-- R183, R150: RELEASE of 7/12: kind 4, class 2, length 4 in the header, then the body and its CRC. -/
theorem test_decode_release :
    commandOfMessage .d3 0x84#8 0x04#8 0x00#8 ((checkBits 0x000484#24).setWidth 8)
      ([7#8, 0#8, 12#8, 0#8] ++ crcBytes [7#8, 0#8, 12#8, 0#8]) = .release .d3 .clean ⟨7, 12⟩ := by decide +kernel
/-- R183: a HELLO of node 31, degree 3, with its header-uncorrectable flag set. -/
theorem test_decode_hello :
    commandOfMessage .d2 0xCA#8 0x04#8 0x00#8 ((checkBits 0x0004CA#24).setWidth 8)
      ([31#8, 0#8, 3#8, 2#8] ++ crcBytes [31#8, 0#8, 3#8, 2#8]) = .hello .d2 .clean 31 3 ⟨false, true, false, false⟩ := by decide +kernel
/-- R151: a kind with the wrong class. -/
theorem test_unknown_kind :
    commandOfMessage .d2 0x44#8 0x04#8 0x00#8 ((checkBits 0x000444#24).setWidth 8) [] = .unknownKind .d2 .clean := by decide +kernel
/-- R152: a body cut short. -/
theorem test_body_bad :
    commandOfMessage .d2 0x84#8 0x04#8 0x00#8 ((checkBits 0x000484#24).setWidth 8) [7#8, 0#8] = .bodyBad .d2 .clean := by decide +kernel

/-- The mark of a position in error: its data bit (9.6; R184 places data bits 0 to 23 at the positions that are no power of two). -/
def atPosition (n : Nat) : BitVec 24 := 1#24 <<< (dataPositions.findIdx (· = n))

/-- 9.6 "Header decoding": the seven rows of the table. -/
theorem test_header_table :
    let h : BitVec 24 := 0x000484#24
    let c := checkBits h
    readHeader h c = .usable .clean h ∧ readHeader (h ^^^ atPosition 13) c = .usable .corrected h
      ∧ readHeader h (c ^^^ 4#6) = .usable .corrected h ∧ readHeader h (c ^^^ 32#6) = .usable .corrected h
      ∧ readHeader (h ^^^ atPosition 13 ^^^ atPosition 6) c = .uncorrectable
      ∧ readHeader (h ^^^ atPosition 29 ^^^ atPosition 3) (c ^^^ 32#6) = .uncorrectable
      ∧ readHeader (h ^^^ atPosition 3 ^^^ atPosition 5 ^^^ atPosition 6) c =
          .usable .corrected (h ^^^ atPosition 3 ^^^ atPosition 5 ^^^ atPosition 6) := by decide +kernel

/-! ### Small states: node 22 of the examples, with every degree enabled and every link and port UP -/

def enabledDegree : DegreeParams := { DegreeParams.initial with enabled := true }

def linkTo (n : Nat) : Link :=
  { Link.initial with up := true, neighbour := some (n, 1), timeout := some 3500, helloTimer := some 1000 }

def upPort : SlotLink := { SlotLink.initial with up := true, silence := some 5000 }

/-- A port with `n` frames queued. -/
def fullPort (n : Nat) : SlotLink := { upPort with tx := List.replicate n (.reply 0#8 (.done [])) }

def allOf (e : SliceEntry) : SpectrumMap := ⟨PerDegree.const (List.replicate 384 e), PerDegree.const (List.replicate 384 e)⟩

/-- A monitor with nothing to do. -/
def idleMonitor : Monitor := ⟨[], none, 0, .ok, none⟩

def node22 : State :=
  { State.reset with
    running := true
    node := { NodeParams.initial with nodeId := 22 }
    degrees := PerDegree.const enabledDegree
    links := ⟨linkTo 7, linkTo 31, linkTo 32, linkTo 33⟩
    ports := PerPort.const upPort
    map := allOf .free
    watches := PerDegree.const ⟨.lit, 0, .waiting, some 1000⟩
    monitor := idleMonitor }

def job12 : JobId := ⟨7, 12⟩

/-- The route of 4.6. -/
def route12 : List RawHop := [⟨7, 3, 0⟩, ⟨22, 2, 0⟩, ⟨31, 4, 0⟩, ⟨40, 0, 6⟩]

/-- A leg of the job of 4.6 on egress degree `e`. -/
def legOf (i : Point) (e : Degree) : LineLeg := DarkLeg i e 452 (-1048)

/-- The same leg at its target. -/
def topLeg (i : Point) (e : Degree) : LineLeg :=
  { legOf i e with level := .num 452, state := .atTarget, verified := some 452, stepsTaken := 6 }

/-- Job 7/12 on (120, 4) at a place, in a phase. -/
def jobAt (place : Place) (owner : Option Port) (phase : Phase) (fwd : Leg) : Context :=
  { FreshContext job12 place owner false 120 4 (-150) none 1 fwd none with phase := phase, reached := true }

def headJob (phase : Phase) (l : LineLeg) : Context := jobAt (.head .d2) (some .p2) phase (.line l)
def transitJob (phase : Phase) (l : LineLeg) : Context := jobAt (.transit .d1 .d2) none phase (.line l)
def tailJob (phase : Phase) : Context := jobAt (.tail .d1) (some .p6) phase (.drop .d1)

def withJobs (jobs : List Context) : State := { node22 with jobs := jobs }

/-- The map with the job's run at a transit in one state. -/
def transitMap (e : SliceEntry) : SpectrumMap :=
  SpectrumMap.changeRuns (fun _ => e) 120 4 [(.d1, .incoming), (.d2, .outgoing)] (allOf .free)

/-- The state a command leads to. -/
def after (c : Instr) (s : State) : State :=
  match exec c s with
  | .next t => t
  | _ => s

/-! ### One or two steps of each family -/

/-- R175: after RESET the node starts again at time 0. -/
theorem test_reset : (after .reset { node22 with time := 9#32 }).time = 0#32 ∧ (after .reset node22).running = false := by decide +kernel
/-- R164: NOP is answered DONE with its tag. -/
theorem test_nop : ((after (.nop .p4 21#8) node22).port .p4).tx = [.reply 21#8 (.done [])] := by decide +kernel
/-- 10.9 "Clamping and BUSY": step size 800 is stored as 600, fail run 0 as 1. -/
theorem test_set_degree_clamps :
    let t := after (.setDegree .p1 0 2 { stepSize := some 800, failRun := some 0 }) (withJobs [transitJob .live (topLeg (.line .d1) .d2)])
    (t.deg .d2).stepSize = 600 ∧ (t.deg .d2).failRun = 1 := by decide +kernel
/-- 10.9: disabling a used degree is refused BUSY and stores nothing. -/
theorem test_set_degree_busy :
    let t := after (.setDegree .p1 0 2 { enabled := some 0, stepSize := some 200 }) (withJobs [transitJob .live (topLeg (.line .d1) .d2)])
    (t.deg .d2).stepSize = 300 ∧ (t.port .p1).tx = [.reply 0#8 (.refused .busy)] := by decide +kernel
/-- 10.9: SET_NODE with node id 70000 while a context is in use is refused BUSY. -/
theorem test_set_node_busy :
    let t := after (.setNode .p1 0 { nodeId := some 70000, lockWait := some 500 }) (withJobs [tailJob .live])
    t.node.lockWait = 10000 ∧ (t.port .p1).tx = [.reply 0#8 (.refused .busy)] := by decide +kernel
/-- 10.9: without the node id the lock wait is stored as 1000. -/
theorem test_set_node_clamps : (after (.setNode .p1 0 { lockWait := some 500 }) (withJobs [tailJob .live])).node.lockWait = 1000 := by
  decide +kernel
/-- 4.6: OPEN at node 7 takes 3-OUT 120 to 123 HELD for 7/12. -/
theorem test_open :
    let s := { node22 with node := { NodeParams.initial with nodeId := 7 }, links := ⟨linkTo 1, linkTo 2, linkTo 22, linkTo 3⟩, seqCounter := 12 }
    let t := after (.openJob .p2 0 ⟨route12, 120, 4, -150, 0⟩) s
    t.map.read .d3 .outgoing 119 6 = [.free, .held job12, .held job12, .held job12, .held job12, .free] ∧ t.seqCounter = 13 := by
  decide +kernel
/-- 4.6: node 22 takes RESERVE on degree 1 and forwards it on degree 2 with hop index 2. -/
theorem test_reserve :
    let t := after (.reserve .d1 .clean ⟨job12, 1, 120, 4, -150, 0, route12⟩) node22
    (t.link .d2).queue = [.reserve ⟨job12, 2, 120, 4, -150, 0, route12⟩] ∧ t.map.read .d1 .incoming 123 2 = [.held job12, .free] := by
  decide +kernel
/-- 4.6 "A refusal unwinding": an entry of another job is CONFLICT. -/
theorem test_reserve_conflict :
    let s := { node22 with map := (allOf .free).change (fun _ => .lit ⟨9, 5⟩) 122 1 (.d2, .outgoing) }
    ((after (.reserve .d1 .clean ⟨job12, 1, 120, 4, -150, 0, route12⟩) s).link .d1).queue = [.refuse job12 .conflict 22] := by
  decide +kernel
/-- 4.6: RESERVE_OK books a transit's entries and goes on upstream. -/
theorem test_reserve_ok :
    let s := { withJobs [{ transitJob .holding (legOf (.line .d1) .d2) with hold := some 10000 }] with map := transitMap (.held job12) }
    let t := after (.reserveOk .d2 .clean job12) s
    (t.link .d1).queue = [.reserveOk job12] ∧ t.map.read .d2 .outgoing 120 1 = [.booked job12] := by decide +kernel
/-- 4.6: a RESERVE_OK that finds no job is answered RELEASE. -/
theorem test_reserve_ok_late : ((after (.reserveOk .d2 .clean job12) node22).link .d2).queue = [.release job12] := by decide +kernel
/-- 4.6: a BOOKED transit released from upstream writes FAILED with cause RELEASED. -/
theorem test_release :
    let t := after (.release .d1 .clean job12) (withJobs [transitJob .booked (legOf (.line .d1) .d2)])
    t.jobs = [] ∧ t.results.counts.failed = 1 := by decide +kernel
/-- 5.8: at a tail RAMP_TURN starts the lock timer and asks for the lock. -/
theorem test_ramp_turn_tail :
    let t := after (.rampTurn .d1 .clean job12 0) (withJobs [tailJob .booked])
    (t.port .p6).tx = [.notice (.lockQuery job12 .fwd)] ∧ t.jobs.map (·.lock) = [some 10000] := by decide +kernel
/-- 5.8: LOCK_REPORT(locked) at the tail: DONE, then COMMISSIONED, and PATH_UP on degree 1. -/
theorem test_lock_report :
    let t := after (.lockReport .p6 5#8 job12 1) (withJobs [{ tailJob .awaitLockFwd with lock := some 1 }])
    (t.port .p6).tx = [.reply 5#8 (.done []), .notice (.commissioned job12)] ∧ (t.link .d1).queue = [.pathUp job12] := by decide +kernel
/-- 5.8: PATH_UP at a transit goes on upstream; the job is LIVE. -/
theorem test_path_up :
    let t := after (.pathUp .d2 .clean job12) (withJobs [transitJob .bringupFwd (topLeg (.line .d1) .d2)])
    t.jobs.map (·.phase) = [.live] ∧ (t.link .d1).queue = [.pathUp job12] := by decide +kernel
/-- 5.8: a job that fails with LOCK_FAILED at a tail with a drop leg alone ends in the same act. -/
theorem test_lock_failed :
    let t := after (.lockReport .p6 5#8 job12 0) (withJobs [{ tailJob .awaitLockFwd with lock := some 1 }])
    t.jobs = [] ∧ (t.link .d1).queue = [.fail job12 .lockFailed 0#8 22] := by decide +kernel
/-- 5.8 "Teardown": DROP at the tail: CLOSING and CLOSED, DOWN_TURN, context freed. -/
theorem test_drop_tail :
    let t := after (.drop .d1 .clean job12) (withJobs [tailJob .live])
    (t.port .p6).tx = [.notice (.closing job12), .notice (.closed job12)] ∧ (t.link .d1).queue = [.downTurn job12] := by decide +kernel
/-- 5.8: DOWN_TURN at a transit commands the first down-step from 452, to 152. -/
theorem test_down_turn :
    let t := after (.downTurn .d2 .clean job12) (withJobs [{ transitJob .teardown (topLeg (.line .d1) .d2) with teardown := some 9 }])
    (t.act .d2).flight.map (·.requested) = some (.num 152) := by decide +kernel
/-- 2.9 "Blocking": BLOCK leaves LIT and BLOCKED entries and counts five. -/
theorem test_block :
    let lit : SliceEntry := .lit ⟨5, 2⟩
    let row : List SliceEntry := [.free, .free, lit, lit, lit, lit, .blocked .abandoned, .free]
    let m := (allOf .free).setTable .d2 .outgoing (List.replicate 100 .free ++ row ++ List.replicate 276 .free)
    let t := after (.block .p1 0 ⟨2, 1, 100, 8⟩) { node22 with map := m }
    t.map.read .d2 .outgoing 100 8 = [.blocked .admin, .blocked .admin, lit, lit, lit, lit, .blocked .abandoned, .blocked .admin]
      ∧ (t.port .p1).tx = [.reply 0#8 (.done [⟨1, 5⟩])] := by decide +kernel
/-- 11.6: RESTORE_LIVE of 7/12 at level 452: its entries LIVE, the short flag clear. -/
theorem test_restore_live :
    let s := { node22 with running := false, map := allOf .unknown }
    let t := after (.restoreLive .p1 0 ⟨job12, 1, 1, none, some 1, some 2, 0, 120, 4, -150, some 452, none⟩) s
    t.map.read .d2 .outgoing 119 2 = [.unknown, .live job12] ∧ t.jobs.map (fun c => c.lineLegs.map (·.2.short)) = [[false]] := by
  decide +kernel
/-- R176: a level above the target is BAD_LEVEL; R162: a HEAD with no owner is BAD_REQUEST. -/
theorem test_restore_refused :
    let s := { node22 with running := false, map := allOf .unknown }
    ((after (.restoreLive .p1 0 ⟨job12, 1, 1, none, some 1, some 2, 0, 120, 4, -150, some 453, none⟩) s).port .p1).tx =
        [.reply 0#8 (.refused .badLevel)]
      ∧ ((after (.restoreLive .p1 0 ⟨job12, 0, 0, none, none, some 2, 0, 120, 4, -150, some 452, none⟩) s).port .p1).tx =
        [.reply 0#8 (.refused .badRequest)] := by decide +kernel
/-- 11.6: END_RESTORE answers with the number of contexts. -/
theorem test_end_restore :
    let t := after (.endRestore .p1 0) { withJobs [tailJob .live] with running := false }
    t.running = true ∧ (t.port .p1).tx = [.reply 0#8 (.done [⟨1, 1⟩])] := by decide +kernel
/-- 9.6: the HELLO that raises a link carries its neighbour, and the change is announced. -/
theorem test_hello :
    let t := after (.hello .d2 .clean 31 3 noErrors) { node22 with links := node22.links.set .d2 { linkTo 31 with up := false, neighbour := none, timeout := none } }
    (t.link .d2).neighbour = some (31, 3) ∧ (t.port .p1).tx = [.notice (.degreeEvent .link (some .d2) 1 0#32)] := by decide +kernel
/-- 9.6: header uncorrectable: counted and flagged. -/
theorem test_header_uncorrectable :
    let l := (after (.headerUncorrectable .d2) node22).link .d2
    l.counts.uncorrectable = 1 ∧ l.localFlags.uncorrectable = true := by decide +kernel
/-- Node 22 with the timeout timer of degree 2's link run out. -/
def silentLink (jobs : List Context) : State :=
  { node22 with links := node22.links.set .d2 { linkTo 31 with timeout := some 0 }, jobs := jobs }
/-- 9.6: the link timeout takes the link DOWN. -/
theorem test_link_timeout : ((after (.linkTimeoutExpiry .d2) (silentLink [])).link .d2).up = false := by decide +kernel
/-- R74, R97: a HOLDING head loses its downstream link: REFUSED with LINK_DOWN to its owner, then the announcement. -/
theorem test_link_timeout_holding :
    let t := after (.linkTimeoutExpiry .d2) (silentLink [{ headJob .holding (legOf .bank .d2) with hold := some 9 }])
    t.jobs = [] ∧ (t.port .p2).tx = [.notice (.refused job12 .linkDown 22), .notice (.degreeEvent .link (some .d2) 0 0#32)] := by
  decide +kernel
/-- R154: a HELLO from another node announces DOWN and then UP. -/
theorem test_hello_from_another :
    ((after (.hello .d2 .clean 61 3 noErrors) (silentLink [])).port .p1).tx =
      [.notice (.degreeEvent .link (some .d2) 0 0#32), .notice (.degreeEvent .link (some .d2) 1 0#32)] := by decide +kernel
/-- R34, R180, R185: three LIVE entries of job 7/12: code 5 in byte 0, length 3 in byte 1, then the job id 7 + 12 * 65536. -/
theorem test_map_run : runItems (.live job12, 3) = [⟨5, 773⟩, ⟨6, 786439⟩] ∧ runSent (.live job12, 3) = [⟨5, 773⟩, ⟨6, 786439⟩] := by decide
/-- R155: a path message taken first restarts the timer, and the expiry behind it does not happen. -/
theorem test_link_timeout_after_message :
    let t := after (.drop .d2 .clean job12) (silentLink [])
    (t.link .d2).timeout = some 3500 ∧ ((after (.linkTimeoutExpiry .d2) t).link .d2).up = true := by decide +kernel
/-- 9.6: the framer takes the pending HELLO first and the flags are cleared. -/
theorem test_framer :
    let s := { node22 with links := node22.links.set .d2 { linkTo 31 with pendingHello := true, queue := [.release job12] } }
    let l := (after (.framerSendRequest .d2) s).link .d2
    l.handed = helloBytes 22 2 noErrors ∧ l.queue = [.release job12] := by decide +kernel
/-- 8.8 "A monitor failure": the first timeout reissues with the next number, the reissue's puts the monitor in FAULT. -/
theorem test_scan_timeout :
    let request : ScanRequest := ⟨.watch .d2, .d2, .incoming, 0, 384⟩
    let s := { node22 with monitor := ⟨[], some ⟨request, 40, 0, false, false⟩, 41, .ok, none⟩ }
    let t := after .scanTimeout s
    let late := { t with monitor := { t.monitor with flight := t.monitor.flight.map (fun f => { f with timer := 0 }) } }
    t.monitor.flight.map (·.issue) = some 41 ∧ (after .scanTimeout late).monitor.state = .fault := by
  decide +kernel
/-- 8.8: a completion with another issue number is discarded. -/
theorem test_late_completion :
    let s := { node22 with actuators := node22.actuators.set .d2 ⟨false, some ⟨⟨job12, .fwd⟩, 120, 4, .num 452, 18, 500⟩, 19⟩ }
    ((after (.actuatorCompletion .d2 17 (.num 452)) s).act .d2).flight.isSome = true := by decide +kernel

/-- A leg of the job in a step, at a level, with the token of degree 2. -/
def stepping (kind : StepKind) (stage : Stage) (v : Int) (requested : Level) : LineLeg :=
  { legOf (.line .d1) .d2 with
    level := .num v, state := .stepping, verified := some v
    step := some ⟨if kind = .down then .down else .up, kind, stage, .num v, requested, [], 0, 0, none, none, none, none, none⟩ }

def holding (c : Context) (cls : StepClass) : State :=
  { withJobs [c] with arbiters := node22.arbiters.set .d2 { Arbiter.initial with token := some ⟨⟨job12, .fwd⟩, cls⟩ } }

/-- The same with the step's command in flight, issue 3, its timer run out. -/
def commanded (c : Context) (cls : StepClass) (q : Level) : State :=
  { holding c cls with actuators := node22.actuators.set .d2 ⟨false, some ⟨⟨job12, .fwd⟩, 120, 4, q, 3, 0⟩, 4⟩ }

/-- 7.8: a completion with applied level 452 leads to SETTLE. -/
theorem test_completion :
    let t := after (.actuatorCompletion .d2 3 (.num 452)) (commanded (transitJob .bringupFwd (stepping .up .actuate 152 (.num 452))) .up (.num 452))
    t.jobs.map (fun c => c.lineLegs.map (fun x => (x.2.level, x.2.settle))) = [[(.num 452, some 50)]] := by decide +kernel
/-- R9: a level that comes back below its request sets the short flag and lowers T. -/
theorem test_completion_short :
    let t := after (.actuatorCompletion .d2 3 (.num 400)) (commanded (transitJob .bringupFwd (stepping .up .actuate 152 (.num 452))) .up (.num 452))
    t.jobs.map (fun c => c.lineLegs.map (fun x => (x.2.short, x.2.target))) = [[(true, 400)]] := by decide +kernel
/-- 7.8: the settle timer's expiry asks for a scan over (120, 4) at the egress tap. -/
theorem test_settle_expiry :
    let l := { stepping .up .settle 452 (.num 452) with settle := some 0 }
    let t := after (.settleTimerExpiry job12 .fwd) (holding (transitJob .bringupFwd l) .up)
    t.monitor.flight.map (·.request) = some ⟨.leg ⟨job12, .fwd⟩, .d2, .outgoing, 120, 4⟩ := by decide +kernel
/-- 8.8 "An actuator timeout": the holder's LIT entries become BLOCKED(ABANDONED). -/
theorem test_actuator_timeout :
    let s := { commanded (transitJob .bringupFwd (stepping .up .actuate 152 (.num 452))) .up (.num 452) with map := transitMap (.lit job12) }
    let t := after (.actuatorTimeout .d2) s
    t.map.read .d2 .outgoing 119 2 = [.free, .blocked .abandoned] ∧ (t.act .d2).faulted = true := by decide +kernel

/-- A verification scan of the leg in flight, issue 5, and the leg that awaits it at 452. -/
def verifying : LineLeg := { stepping .up .verify 452 (.num 452) with verified := some 152 }
def scanning (l : LineLeg) : State :=
  { holding (transitJob .bringupFwd l) .up with
    monitor := ⟨[], some ⟨⟨.leg ⟨job12, .fwd⟩, .d2, .outgoing, 120, 4⟩, 5, 300, false, false⟩, 6, .ok, none⟩ }

/-- 1.10 "Verification" and 7.8: the readings of the case pass the step at the top: AT_TARGET, and the turn goes on. -/
theorem test_scan_result :
    let t := after (.scanResult 5 [-2150, -2148, -2155, -2152]) (scanning verifying)
    t.jobs.map (fun c => c.lineLegs.map (fun x => (x.2.state, x.2.lastDev))) = [[(.atTarget, some (-4))]]
      ∧ (t.link .d2).queue = [.rampTurn job12 .fwd] := by decide +kernel

/-! ### Soundness and agreement by evaluation: the parts of `Sound` and `Agreed` in a form that evaluates on one state -/

theorem all_degrees {p : Degree → Prop} (h : ∀ d, d ∈ Degree.all → p d) : ∀ d, p d := fun d => h d (by cases d <;> decide)

theorem in_list {α β : Type} {o : Option α} {f : α → β} {b : β} : b ∈ o.toList.map f ↔ ∃ x, o = some x ∧ f x = b := by
  cases o <;> simp [eq_comm]

/-- What `LegAgrees` says beside level, timers and the fit of the step. -/
def LegChecks (s : State) (phase : Phase) (r : LegRef) (l : LineLeg) : Prop :=
  let a := s.arb l.egress
  (l.step.isSome = true ↔ r ∈ a.token.toList.map (·.leg))
    ∧ (∀ st, st ∈ l.step.toList → a.token = some ⟨r, st.cls⟩ ∧ l.state = (if st.cls = .down then .rampingDown else .stepping)
        ∧ (phase = .failing → st.cls = .up → st.stage = .actuate)
        ∧ (st.stage = .actuate ↔ r ∈ (s.act l.egress).flight.toList.map (·.leg))
        ∧ ((st.stage ∈ [Stage.baseline, .verify] ∧ l.spacing = none) ↔ (.leg r ∈ s.monitor.queue.map (·.requester)
            ∨ (Requester.leg r, false) ∈ s.monitor.flight.toList.map (fun f => (f.request.requester, f.withdrawn))))
        ∧ (s.monitor.state = .fault → st.kind ∈ [StepKind.lightOn, .up, .recheck] → st.stage = .actuate))
    ∧ (l.state = .queued ↔ r ∈ a.up.map (·.leg)) ∧ (l.state = .headroomWait ↔ r ∈ a.wait.map (·.leg))
    ∧ (l.state = .backoff ↔ r ∈ a.backoff) ∧ ((l.state = .rampingDown ∧ l.step = none) ↔ r ∈ a.down)
    ∧ (l.state = .stepping → l.step.isSome = true) ∧ (l.state = .frozen ↔ r ∈ s.frozenOrder)

theorem legAgrees_of {s : State} {phase : Phase} {r : LegRef} {l : LineLeg} (h : LegChecks s phase r l) (h1 : l.LevelAgrees)
    (h2 : l.TimersAgree) (h3 : ∀ st, st ∈ l.step.toList → st.Fits l.level) : LegAgrees s phase r l where
  level := h1
  timers := h2
  token := h.1.trans in_list
  holder st hs := by
    have hm : st ∈ l.step.toList := by rw [hs]; exact List.mem_singleton_self _
    obtain ⟨a, b, c, d, e, f⟩ := h.2.1 st hm
    refine ⟨h3 st hm, a, b, c, d.trans in_list, e.trans ?_, f⟩
    unfold Monitor.serves
    rw [in_list]
    simp only [Prod.mk.injEq]
  up := h.2.2.1
  wait := h.2.2.2.1
  back := h.2.2.2.2.1
  down := h.2.2.2.2.2.1
  holds := h.2.2.2.2.2.2.1
  frozen := h.2.2.2.2.2.2.2

/-- What `ArbiterAgrees` says. -/
def ArbiterChecks (s : State) (d : Degree) : Prop :=
  let a := s.arb d
  (∀ r, r ∈ (a.token.toList.map (·.leg)) ++ a.down ++ a.up.map (·.leg) ++ a.wait.map (·.leg) ++ a.backoff
      ++ ((s.act d).flight.toList.map (·.leg)) → (s.leg? r).map (·.egress) = some d)
    ∧ (∀ f, f ∈ (s.act d).flight.toList → ((s.leg? f.leg).bind (·.step)).map (·.stage) = some .actuate)
    ∧ (a.down ++ a.up.map (·.leg) ++ a.wait.map (·.leg) ++ a.backoff).Nodup
    ∧ ((s.act d).faulted = true → a.token = none ∧ a.down = [] ∧ (s.act d).flight = none)

theorem arbiterAgrees_of {s : State} {d : Degree} (h : ArbiterChecks s d) : ArbiterAgrees s d where
  names r hr := by
    have := h.1 r hr
    cases hl : s.leg? r with
    | none => rw [hl] at this; cases this
    | some l => rw [hl] at this; exact ⟨l, rfl, Option.some.inj this⟩
  flown f hf := by
    have := h.2.1 f (by rw [hf]; exact List.mem_singleton_self _)
    cases hl : s.leg? f.leg with
    | none => rw [hl] at this; cases this
    | some l =>
      rw [hl] at this
      cases hs : l.step with
      | none => simp [hs] at this
      | some st => exact ⟨l, st, rfl, hs, by simpa [hs] using this⟩
  once := h.2.2.1
  faulted := h.2.2.2

/-- What `MonitorAgrees` says. -/
def MonitorChecks (s : State) : Prop :=
  let m := s.monitor
  (m.queue.map (·.requester)).Nodup ∧ m.queue.length ≤ 132
    ∧ (∀ q, q ∈ m.queue → q.requester ≠ .probe ∧ (match q.requester with
        | .leg r => (s.leg? r).isSome = true
        | _ => True))
    ∧ (∀ d, d ∈ Degree.all → ((s.watch d).state = .queued ↔ .watch d ∈ m.queue.map (·.requester))
        ∧ ((s.watch d).state = .inFlight ↔ .watch d ∈ m.flight.toList.map (·.request.requester))
        ∧ ((s.watch d).state = .stopped ↔ m.state = .fault))
    ∧ (∀ f, f ∈ m.flight.toList →
        (f.withdrawn = false → f.request.requester ∉ m.queue.map (·.requester))
          ∧ (match f.request.requester with
            | .leg r => f.withdrawn = true ∨ (s.leg? r).isSome = true
            | _ => f.withdrawn = false)
          ∧ (f.request.requester = .probe ↔ m.state = .fault) ∧ (f.reissue = true ↔ m.state = .retrying))
    ∧ (m.flight = none → m.queue = [] ∧ m.state ≠ .retrying) ∧ (m.state = .fault → m.queue = [])
    ∧ (m.probe.isSome = true ↔ m.state = .fault ∧ m.flight = none)

theorem monitorAgrees_of {s : State} (h : MonitorChecks s) : MonitorAgrees s := by
  obtain ⟨h1, h2, h3, h4, h5, h6, h7, h8⟩ := h
  refine ⟨h1, h2, fun q hq => ⟨(h3 q hq).1, fun r hr => ?_⟩, all_degrees fun d hd => (h4 d hd).1,
    all_degrees fun d hd => (h4 d hd).2.1.trans in_list, all_degrees fun d hd => (h4 d hd).2.2, fun f hf => ?_, h6, h7, h8⟩
  · have := (h3 q hq).2
    rw [hr] at this
    exact this
  · obtain ⟨a, b, c, d⟩ := h5 f (by rw [hf]; exact List.mem_singleton_self _)
    refine ⟨fun hw => ⟨a hw, fun r hr => ?_⟩, fun hw => ?_, c, d⟩
    · rw [hr] at b
      exact b.resolve_left (by rw [hw]; exact Bool.false_ne_true)
    · cases hr : f.request.requester with
      | leg r => exact ⟨r, rfl⟩
      | watch d => rw [hr] at b; rw [hw] at b; cases b
      | probe => rw [hr] at b; rw [hw] at b; cases b

/-- What `MapAgrees` says. -/
def MapChecks (s : State) : Prop :=
  (∀ c, c ∈ s.jobs → ∀ x, x ∈ c.legs → ∀ run, run ∈ x.2.runs → ∀ i, i ∈ List.range c.count →
      ∃ e, e ∈ (s.entry run.1 run.2 (c.first + i)).toList ∧ c.RunFits x.1 x.2 run.2 e)
    ∧ ∀ d, d ∈ Degree.all → ∀ dir, dir ∈ [MapDir.incoming, .outgoing] → ∀ y, y ∈ (s.map.table d dir).zipIdx → ∀ j, j ∈ y.1.job?.toList →
      ∃ c, c ∈ s.jobs ∧ c.id = j ∧ (d, dir) ∈ c.entrySet ∧ c.first ≤ y.2 ∧ y.2 < c.first + c.count

theorem mapAgrees_of {s : State} (h : MapChecks s) : MapAgrees s where
  runs c hc x hx run hr k h1 h2 := by
    obtain ⟨e, he, hf⟩ := h.1 c hc x hx run hr (k - c.first) (List.mem_range.mpr (by omega))
    rw [Nat.add_sub_cancel' h1, Option.mem_toList] at he
    exact ⟨e, he, hf⟩
  names d dir k e j he hj :=
    h.2 d (by cases d <;> decide) dir (by cases dir <;> decide) (e, k) (List.mem_zipIdx_iff_getElem?.mpr he) j (Option.mem_toList.mpr hj)

/-- What `Agreed` says. -/
def AgreedChecks (s : State) : Prop :=
  (∀ c, c ∈ s.jobs → c.Shaped ∧ c.TimersAgree ∧ c.PhaseAgrees ∧ ∀ x, x ∈ c.lineLegs →
      LegChecks s c.phase ⟨c.id, x.1⟩ x.2 ∧ x.2.LevelAgrees ∧ x.2.TimersAgree ∧ ∀ st, st ∈ x.2.step.toList → st.Fits x.2.level)
    ∧ (∀ d, d ∈ Degree.all → ArbiterChecks s d) ∧ MonitorChecks s
    ∧ (s.frozenOrder.Nodup ∧ ∀ r, r ∈ s.frozenOrder → (s.leg? r).isSome = true) ∧ MapChecks s

theorem agreed_of {s : State} (h : AgreedChecks s) : Agreed s where
  shapes c hc := (h.1 c hc).1
  timers c hc := (h.1 c hc).2.1
  phases c hc := (h.1 c hc).2.2.1
  legs c hc x hx := by
    obtain ⟨a, b, c, d⟩ := (h.1 c hc).2.2.2 x hx
    exact legAgrees_of a b c d
  arbiters := all_degrees fun d hd => arbiterAgrees_of (h.2.1 d hd)
  monitor := monitorAgrees_of h.2.2.1
  frozen := h.2.2.2.1
  map := mapAgrees_of h.2.2.2.2

/-- `AgreedChecks` evaluates. -/
def agreedDec (s : State) : Decidable (AgreedChecks s) := by
  have h1 (c : Context) : Decidable c.Shaped := by unfold Context.Shaped; split <;> infer_instance
  have h2 (c : Context) : Decidable c.TimersAgree := by unfold Context.TimersAgree; infer_instance
  have h3 (c : Context) : Decidable c.PhaseAgrees := by
    unfold Context.PhaseAgrees LegState.raised
    split <;> infer_instance
  have h4 (l : LineLeg) : Decidable l.LevelAgrees := by unfold LineLeg.LevelAgrees; infer_instance
  have h5 (l : LineLeg) : Decidable l.TimersAgree := by unfold LineLeg.TimersAgree; infer_instance
  have h6 (v : Level) (st : StepState) : Decidable (st.Fits v) := by unfold StepState.Fits; infer_instance
  have h7 (p : Phase) (r : LegRef) (l : LineLeg) : Decidable (LegChecks s p r l) := by
    unfold LegChecks
    dsimp only
    have a (x y z : Prop) (_ : Decidable x) (_ : Decidable y) (_ : Decidable z) : Decidable (x ∧ y ∧ z) := inferInstance
    exact a _ _ _ inferInstance inferInstance inferInstance
  have h8 (d : Degree) : Decidable (ArbiterChecks s d) := by unfold ArbiterChecks; dsimp only; infer_instance
  have h9 : Decidable (MonitorChecks s) := by
    have a (q : Requester) : Decidable (match q with
      | .leg r => (s.leg? r).isSome = true
      | _ => True) := by split <;> infer_instance
    have b (f : ScanFlight) : Decidable (match f.request.requester with
      | .leg r => f.withdrawn = true ∨ (s.leg? r).isSome = true
      | _ => f.withdrawn = false) := by split <;> infer_instance
    unfold MonitorChecks
    dsimp only
    infer_instance
  have h10 : Decidable (MapChecks s) := by
    have a (c : Context) (d : Dir) : Decidable (c.turned d) := by unfold Context.turned; split <;> infer_instance
    have b (l : Leg) : Decidable l.isOff := by unfold Leg.isOff; split <;> infer_instance
    have f (l : Leg) : Decidable l.unlit := by unfold Leg.unlit; split <;> infer_instance
    have g (c : Context) (d : Dir) (l : Leg) (m : MapDir) (e : SliceEntry) : Decidable (c.RunFits d l m e) := by
      unfold Context.RunFits; split <;> infer_instance
    unfold MapChecks
    infer_instance
  unfold AgreedChecks
  infer_instance

theorem agreed_by {s : State} (h : @decide _ (agreedDec s) = true) : Agreed s := agreed_of (@of_decide_eq_true _ (agreedDec s) h)

/-- What `Sound` says. -/
def SoundChecks (s : State) : Prop :=
  (∀ d, d ∈ Degree.all → (s.map.incoming.get d).length = 384 ∧ (s.map.outgoing.get d).length = 384
      ∧ (s.link d).Sound (s.deg d).enabled ∧ (s.arb d).HoldAgrees (s.deg d).holdAll ∧ (s.watch d).Sound ∧ (s.act d).Sound
      ∧ (s.deg d).InRange)
    ∧ JobTable s.jobs ∧ (∀ c, c ∈ s.jobs → c.fwd.Bounded ∧ ∀ l, l ∈ c.rev.toList → l.Bounded)
    ∧ (∀ p, p ∈ [Port.p1, .p2, .p3, .p4, .p5, .p6, .p7, .p8] → (s.port p).Sound)
    ∧ s.monitor.Sound ∧ s.results.Sound ∧ s.node.InRange ∧ SeqInv s

theorem sound_of {s : State} (h : SoundChecks s) : Sound s := by
  obtain ⟨h1, h2, h3, h4, h5, h6, h7, h8⟩ := h
  have hd {p : Degree → Prop} (f : ∀ d, d ∈ Degree.all → p d) : ∀ d, p d := all_degrees f
  exact ⟨hd fun d m => ⟨(h1 d m).1, (h1 d m).2.1⟩, h2,
    fun c hc => ⟨(h3 c hc).1, fun l hl => (h3 c hc).2 l (by rw [hl]; exact List.mem_singleton_self _)⟩,
    fun p => h4 p (by cases p <;> decide), hd fun d m => (h1 d m).2.2.1, hd fun d m => (h1 d m).2.2.2.1,
    ⟨h5, hd fun d m => ⟨(h1 d m).2.2.2.2.1, (h1 d m).2.2.2.2.2.1⟩⟩, h6, ⟨h7, hd fun d m => (h1 d m).2.2.2.2.2.2⟩, h8⟩

/-- `SoundChecks` evaluates. -/
def soundDec (s : State) : Decidable (SoundChecks s) := by
  have h1 (l : Leg) : Decidable l.Bounded := by
    cases l <;> (unfold Leg.Bounded; first | infer_instance | (unfold LineLeg.Bounded; infer_instance))
  have h2 (b : Bool) (l : Link) : Decidable (l.Sound b) := by unfold Link.Sound LinkCounts.Bounded; infer_instance
  have h3 (u : SlotLink) : Decidable u.Sound := by unfold SlotLink.Sound; infer_instance
  have h4 (p : DegreeParams) : Decidable p.InRange := by unfold DegreeParams.InRange Within; infer_instance
  have h5 (p : NodeParams) : Decidable p.InRange := by unfold NodeParams.InRange Within; infer_instance
  have h6 (x : Results) : Decidable x.Sound := by unfold Results.Sound Results.Filled OutcomeCounts.Bounded; infer_instance
  have h7 (b : Bool) (a : Arbiter) : Decidable (a.HoldAgrees b) := by unfold Arbiter.HoldAgrees; infer_instance
  have h9 : Decidable (s.monitor.Sound) := by unfold Monitor.Sound; infer_instance
  have h10 (w : Watch) : Decidable w.Sound := by unfold Watch.Sound; infer_instance
  have h11 (a : Actuator) : Decidable a.Sound := by unfold Actuator.Sound; infer_instance
  have h12 : Decidable (SeqInv s) := by unfold SeqInv; infer_instance
  unfold SoundChecks JobTable
  infer_instance

theorem sound_by {s : State} (h : @decide _ (soundDec s) = true) : Sound s := sound_of (@of_decide_eq_true _ (soundDec s) h)

/-- What an entry of a leg's run holds in a forward job that is as far as its phase says. -/
def standing (c : Context) (leg : Leg) (side : MapDir) : SliceEntry :=
  match c.phase with
  | .holding => .held c.id
  | .booked => .booked c.id
  | .live => .live c.id
  | .teardown => .live c.id
  | .failing => .lit c.id
  | _ => match leg, side with
    | .line l, .outgoing => if l.level = .off then .booked c.id else .lit c.id
    | _, _ => .lit c.id

/-- A state with the entries of its jobs, all others FREE. -/
def mapped (s : State) : State :=
  { s with
    map := s.jobs.foldl (fun m c => c.legs.foldl (fun m x => x.2.runs.foldl
      (fun m run => m.change (fun _ => standing c x.2 run.2) c.first c.count run) m) m) (allOf .free) }

/-! ### Witnesses: for each obligation with hypotheses, a state and operands that meet them together -/

/-- Every table entry of a map made by `allOf` is that entry. -/
theorem allOf_entry {s : State} {e : SliceEntry} (h : s.map = allOf e) (d : Degree) (dir : MapDir) {k : Nat} (hk : k < 384) :
    s.entry d dir k = some e := by
  unfold State.entry
  rw [h]
  cases dir <;> cases d <;> exact List.getElem?_replicate_of_lt hk

theorem allOf_free {s : State} (h : s.map = allOf .free) (runs : List (Degree × MapDir)) {first count : Nat}
    (hk : first + count ≤ 384) : RunFree s runs first count := fun x _ _ _ h2 => allOf_entry h x.1 x.2 (by omega)

theorem route12_fits : RouteFits route12 := by
  refine ⟨by decide, by decide, by decide, fun i h hi => ?_⟩
  match i with
  | 0 => cases hi; decide
  | 1 => cases hi; decide
  | 2 => cases hi; decide
  | 3 => cases hi; decide
  | i + 4 => simp [route12] at hi

/-- Node 22 with one place left on every transmit queue, with none, and in STARTING. -/
def crowded : State := { node22 with ports := PerPort.const (fullPort 31) }
def packed : State := { node22 with ports := PerPort.const (fullPort 32) }
def starting : State := { node22 with running := false, map := allOf .unknown }

/-- Node 7, the head of the job of 4.6. -/
def node7 : State :=
  { node22 with
    node := { NodeParams.initial with nodeId := 7 }, links := ⟨linkTo 1, linkTo 2, linkTo 22, linkTo 3⟩, seqCounter := 12 }

/-- A link unit of a DOWN link. -/
def downLink : Link := { Link.initial with helloTimer := some 1000 }

/-- Node 22 with every link DOWN. -/
def cutOff : State := { node22 with links := PerDegree.const downLink }

theorem witness_IdleStepIsOneMillisecond : node22.pending = [] := rfl
theorem witness_StepRunsTheFrontCommand : ({ node22 with pending := [.reset, .scanTimeout] } : State).pending = [.reset, .scanTimeout] := rfl
theorem witness_ResetLeavesTheStartingState : (0 : Nat) < 384 ∧ (383 : Nat) < 384 := by decide

/-- A state with a LIVE job, a step waiting. -/
def liveState : State :=
  { withJobs [transitJob .live (topLeg (.line .d1) .d2)] with map := transitMap (.live job12), pending := [.nop .p1 3#8] }

theorem witness_EveryStepKeepsSoundness : Sound liveState ∧ ∃ t, step liveState = .next t := ⟨sound_by (by decide +kernel), _, rfl⟩
theorem witness_EveryStepKeepsAgreement : Sound liveState ∧ Agreed liveState ∧ ∃ t, step liveState = .next t :=
  ⟨sound_by (by decide +kernel), agreed_by (by decide +kernel), _, rfl⟩

/-- A context in use before, and one put in use by an OPEN; an entry of each kind. -/
theorem witness_ContextsKeepTheirFixedFields :
    (∃ t, exec (.adoptJob .p1 0 job12) liveState = .next t ∧ t.jobs ≠ [])
      ∧ ∃ t, exec (.openJob .p2 0 ⟨route12, 120, 4, -150, 0⟩) node7 = .next t ∧ t.jobs ≠ [] :=
  ⟨⟨_, rfl, by decide +kernel⟩, ⟨_, rfl, by decide +kernel⟩⟩
theorem witness_EntriesMoveOnlyByTheTable :
    (∃ t, exec (.openJob .p2 0 ⟨route12, 120, 4, -150, 0⟩) node7 = .next t) ∧ node7.entry .d3 .outgoing 120 = some .free
      ∧ node7.entry .d3 .outgoing 383 = some .free :=
  ⟨⟨_, rfl⟩, by decide +kernel, by decide +kernel⟩
theorem witness_NodeStateChangesOnlyByItsCommands :
    (∃ t, exec (.setNode .p1 0 { lockWait := some 2000 }) node22 = .next t) ∧ (∃ t, exec .scanTimeout node22 = .next t)
      ∧ Carries (.setNode .p1 0 { lockWait := some 2000 }) node22 (.setNode { lockWait := some 2000 }) :=
  ⟨⟨_, rfl⟩, ⟨_, rfl⟩, .p1, 0, .inl rfl⟩

/-! ### Frames and requests -/

theorem witness_FrameByBytesIsItsCommand :
    (List.replicate 250 0#8 : List Byte).length ≤ 250 ∧ (node22.port .p8).receive = none ∧ decodeRequest 0x01#8 [] = some .nop
      ∧ decodeRequest 0x77#8 [] = none ∧ [0#8, 0#8] ≠ crcBytes [0#8, 0x01#8, 7#8] := by decide +kernel
theorem witness_SlotLinkEventsComplete :
    let s := { node22 with ports := PerPort.const { upPort with gap := some 0, receive := some [], silence := some 0 } }
    (s.port .p1).gap = some 0 ∧ (s.port .p1).silence = some 0 ∧ (node22.port .p1).gap ≠ some 0 ∧ (node22.port .p1).silence = some 5000
      ∧ (node22.port .p1).receive = none ∧ (s.port .p1).receive = some [] ∧ 250 < (251#8 : Byte).toNat := by decide
/-- A length byte of 0 and of 250, and the last byte before the one that completes the frame. -/
theorem witness_SlotLinkEventsComplete_partial :
    let s (bytes : List Byte) : State := { node22 with ports := PerPort.const { upPort with gap := some 3, receive := some bytes } }
    ((s []).port .p1).receive = some [] ∧ ([] : List Byte) ++ [250#8] = 250#8 :: [] ∧ (250#8 : Byte).toNat ≤ 250
      ∧ ((s [0#8, 1#8, 7#8]).port .p1).receive = some [0#8, 1#8, 7#8] ∧ ([0#8, 1#8, 7#8] : List Byte) ++ [9#8] = 0#8 :: [1#8, 7#8, 9#8]
      ∧ ([1#8, 7#8, 9#8] : List Byte).length < (0#8 : Byte).toNat + 4 := by decide
theorem witness_TransmitterSendsTheQueueInOrder :
    (node22.port .p1).tx = [] ∧ ∃ f rest, (crowded.port .p1).tx = f :: rest := ⟨rfl, _, _, rfl⟩
theorem witness_FramesAreTakenRefusedOrCounted :
    32 ≤ (packed.port .p1).tx.length ∧ HasRoom .p1 crowded ∧ decodeRequest 0x12#8 [] = none
      ∧ decodeRequest 0x12#8 [1#8, 7#8, 0#8, 12#8, 0#8] = some (.closeJob ⟨7, 12⟩) := by unfold HasRoom; decide +kernel
/-- Slots 0 to 32 and counts 0 to 32; an empty log, one with a record, one that has wrapped. -/
theorem witness_ReadingRequestsReportTheirFields :
    let log (n : Nat) : Results :=
      (List.range n).foldl (fun x k => x.write (plainRecord (tailJob .live) .closed (BitVec.ofNat 32 k))) ⟨List.replicate 32 none, 0, ⟨0, 0, 0, 0, 0⟩⟩
    HasRoom .p1 crowded ∧ HasRoom .p8 node22 ∧ (log 0).Sound ∧ (log 1).Sound ∧ (log 33).Sound ∧ (log 33).index = 1 ∧ (0 : Nat) ≤ 32
      ∧ (32 : Nat) ≤ 32 := by
  unfold HasRoom Results.Sound Results.Filled OutcomeCounts.Bounded; decide +kernel
theorem witness_QueryMapReportsTheRange :
    HasRoom .p1 crowded ∧ Degree.ofInt 4 = some .d4 ∧ MapDir.ofInt 1 = some .outgoing ∧ (288 : Int) ≤ 383 ∧ (96 : Int) ≤ 96
      ∧ (288 : Int) + 96 ≤ 384 ∧ (383 : Int) + 1 ≤ 384 := by unfold HasRoom; decide
theorem witness_BlockAndUnblockChangeTheirRange :
    HasRoom .p1 crowded ∧ Degree.ofInt 1 = some .d1 ∧ MapDir.ofInt 0 = some .incoming ∧ (0 : Int) + 384 ≤ 384 ∧ MapDir.ofInt 2 = none
      ∧ Degree.ofInt 5 = none ∧ Degree.ofInt 0 = none ∧ (384 : Int) < 383 + 2 ∧ (383 : Int) < 384 ∧ (-1 : Int) < 0 ∧ (0 : Int) < 1
      ∧ (96 : Int) < 97 := by unfold HasRoom; decide

/-! ### Parameters -/

/-- The job whose degrees the requests meet. -/
def usedState : State := withJobs [transitJob .live (topLeg (.line .d1) .d2)]

theorem witness_NumericFieldsAreClamped :
    HasRoom .p1 crowded ∧ Degree.ofInt 2 = some .d2 ∧ (0 : Int) < 1 ∧ (65534 : Int) < 65535 ∧ (25 : Int) ≤ 25 ∧ (600 : Int) ≤ 600
      ∧ (usedState.deg .d2).enabled = true ∧ (∃ c, c ∈ usedState.jobs ∧ c.uses .d2 = true)
      ∧ ¬ (some (1 : Int) = some 0 ∧ (usedState.deg .d2).enabled = true ∧ ∃ c, c ∈ usedState.jobs ∧ c.uses .d2 = true) :=
  ⟨by unfold HasRoom; decide, rfl, by decide, by decide, by decide, by decide, rfl, ⟨_, List.mem_singleton_self _, rfl⟩,
    fun h => absurd h.1 (by decide)⟩
theorem witness_SetDegreeTurnsTheLinkUnit :
    let off := { node22 with degrees := node22.degrees.set .d2 plain }
    HasRoom .p1 off ∧ (off.deg .d2).enabled = false ∧ HasRoom .p1 node22 ∧ (node22.deg .d2).enabled = true
      ∧ (∀ c, c ∈ node22.jobs → c.uses .d2 = false) ∧ (node22.link .d2).up = true ∧ (cutOff.link .d2).up = false
      ∧ some (1 : Int) = some ((true.toNat : Nat) : Int) ∧ ¬ (some (2 : Int) = none ∨ some (2 : Int) = some 0 ∨ some (2 : Int) = some 1)
      ∧ (0 : Int) < 1 ∧ (4 : Int) < 5 := by
  unfold HasRoom; decide

/-- A leg in the headroom-wait list of a used degree, one in BACKOFF, and a request that changes the ceiling, the guard or the policy, at both
bounds, or none of them. -/
theorem witness_SetDegreeTurnsTheLinkUnit_arbiter :
    let leg : LineLeg := { legOf (.line .d1) .d2 with state := .headroomWait, headroom := some 9 }
    let s : State :=
      { withJobs [transitJob .bringupFwd leg] with
        arbiters := node22.arbiters.set .d2 { Arbiter.initial with wait := [⟨⟨job12, .fwd⟩, .step⟩], backoff := [⟨⟨7, 13⟩, .fwd⟩] } }
    HasRoom .p1 s ∧ Degree.ofInt 2 = some .d2 ∧ (s.arb .d2).wait ≠ [] ∧ (s.arb .d2).backoff ≠ [] ∧ (s.deg .d2).holdAll = false
      ∧ (s.deg .d2).outputCeiling = 2300 ∧ (s.deg .d2).guardBand = 100 ∧ (999 : Int) < 1000 ∧ (2800 : Int) ≤ 2800 ∧ (501 : Int) > 500
      ∧ s.leg? ⟨job12, .fwd⟩ = some leg ∧ ¬ (some (1 : Int) = some 0 ∧ (s.deg .d2).enabled = true ∧ ∃ c, c ∈ s.jobs ∧ c.uses .d2 = true) :=
  ⟨by unfold HasRoom; decide, rfl, by decide, by decide, rfl, rfl, rfl, by decide, by decide, by decide, by decide +kernel,
    fun h => absurd h.1 (by decide)⟩
/-- R113, R107: a lower output ceiling re-queues the waiting leg behind the held token; the UP class then holds it. -/
theorem test_set_degree_requeues :
    let leg : LineLeg := { legOf (.line .d1) .d2 with state := .headroomWait, headroom := some 9 }
    let s : State :=
      { withJobs [transitJob .bringupFwd leg] with
        arbiters := node22.arbiters.set .d2
          { Arbiter.initial with wait := [⟨⟨job12, .fwd⟩, .step⟩], token := some ⟨⟨⟨7, 13⟩, .fwd⟩, .up⟩ } }
    let t := after (.setDegree .p1 0 2 { outputCeiling := some 1500 }) s
    (t.arb .d2).up = [⟨⟨job12, .fwd⟩, .step⟩] ∧ (t.arb .d2).wait = [] := by decide +kernel

/-! ### Job requests -/

def openAt (first count density bidir : Int) : OpenFields := ⟨route12, first, count, density, bidir⟩

/-- Both directions, at the ends of the grid, of the counts and of the densities. -/
theorem witness_OpenReservesTheRun :
    HasRoom .p1 node7 ∧ node7.running = true ∧ ChannelRun 0 2 ∧ ChannelRun 368 16 ∧ RouteFits route12 ∧ Degree.ofInt 3 = some .d3
      ∧ Hears .d3 node7 ∧ (node7.link .d3).neighbour = some (22, 1) ∧ node7.jobs.length < 64
      ∧ (node7.deg .d3).levelFloor ≤ -2000 + widthTerm 2 ∧ (node7.deg .d3).levelFloor ≤ 500 + widthTerm 16
      ∧ RunFree node7 [(.d3, .outgoing)] 0 2 ∧ RunFree node7 [(.d3, .outgoing), (.d3, .incoming)] 368 16 :=
  ⟨by unfold HasRoom; decide, rfl, by unfold ChannelRun; decide, by unfold ChannelRun; decide, route12_fits, rfl, by unfold Hears; decide, rfl,
    by decide, by decide, by decide, allOf_free rfl _ (by omega), allOf_free rfl _ (by omega)⟩

/-- One failing check at a time: form, ranges, route, node state, then the checks of R61 in order. -/
theorem witness_OpenIsRefusedForItsFirstFault_form :
    HasRoom .p1 node7 ∧ ¬ ((2 : Int) = 0 ∨ (2 : Int) = 1) ∧ ¬ ChannelRun 0 1 ∧ ¬ ChannelRun 369 16 ∧ ¬ ChannelRun 0 17
      ∧ ¬ (-2000 : Int) ≤ -2001 ∧ ¬ (501 : Int) ≤ 500 ∧ ¬ RouteFits [⟨7, 3, 0⟩] ∧ RouteFits route12 ∧ starting.running = false :=
  ⟨by unfold HasRoom; decide, by decide, by unfold ChannelRun; decide, by unfold ChannelRun; decide, by unfold ChannelRun; decide,
    by decide, by decide, fun h => absurd h.1 (by decide), route12_fits, rfl⟩
theorem witness_OpenIsRefusedForItsFirstFault_node :
    (7 : Nat) ≠ node22.node.nodeId ∧ node7.node.nodeId = 7 ∧ Degree.ofInt 3 = some .d3
      ∧ (({ node7 with degrees := node7.degrees.set .d3 plain } : State).deg .d3).enabled = false
      ∧ (({ node7 with links := PerDegree.const downLink } : State).link .d3).up = false
      ∧ Hears .d3 { node7 with links := PerDegree.const (linkTo 9) }
      ∧ (∀ k, (({ node7 with links := PerDegree.const (linkTo 9) } : State).link .d3).neighbour ≠ some (22, k))
      ∧ 64 ≤ ({ node7 with jobs := List.replicate 64 (tailJob .live) } : State).jobs.length
      ∧ -2000 + widthTerm 2 < (({ node7 with degrees := PerDegree.const { enabledDegree with levelFloor := -1698 } } : State).deg .d3).levelFloor := by
  refine ⟨by decide, rfl, rfl, rfl, rfl, by unfold Hears; decide, fun k h => ?_, by decide, by decide⟩
  cases h
theorem witness_OpenIsRefusedForItsFirstFault_entries :
    let entries (m : SpectrumMap) := m.readRuns 120 4 [(.d3, .outgoing)]
    let one (e : SliceEntry) := (allOf .free).change (fun _ => e) 123 1 (.d3, .outgoing)
    (∃ e, e ∈ entries (one (.lit ⟨9, 5⟩)) ∧ e.job?.isSome = true)
      ∧ ((∀ e, e ∈ entries (one (.blocked .admin)) → e.job? = none) ∧ ∃ e, e ∈ entries (one (.blocked .admin)) ∧ e.isBlocked = true)
      ∧ ((∀ e, e ∈ entries (one .unknown) → e.job? = none ∧ e.isBlocked = false) ∧ .unknown ∈ entries (one .unknown)) := by
  decide +kernel

def headIn (phase : Phase) : Context := headJob phase (topLeg .bank .d2)

theorem witness_AbortFailsTheJob :
    HasRoom .p2 node22 ∧ node22.ctx? job12 = none ∧ (withJobs [headIn .bringupFwd]).ctx? job12 = some (headIn .bringupFwd)
      ∧ (headIn .bringupFwd).owner = some .p2 ∧ (headIn .bringupFwd).place = .head .d2 ∧ BeforeLive (headIn .bringupFwd)
      ∧ BeforeLive (headIn .holding) ∧ (headIn .failing).phase = .failing ∧ (headIn .teardown).phase = .teardown
      ∧ (tailJob .live).owner ≠ some .p2 ∧ (transitJob .live (topLeg (.line .d1) .d2)).owner ≠ some .p2 := by
  unfold HasRoom BeforeLive; decide

/-- A transit at its target whose downstream link is UP, and one whose link is DOWN. -/
def cutTransit (phase : Phase) : State := { cutOff with jobs := [transitJob phase (topLeg (.line .d1) .d2)] }

theorem witness_CloseTearsDownALiveJob :
    HasRoom .p3 liveState ∧ liveState.ctx? job12 = some (transitJob .live (topLeg (.line .d1) .d2))
      ∧ (∃ u e, (transitJob .live (topLeg (.line .d1) .d2)).place = .transit u e) ∧ (liveState.link .d2).up = true
      ∧ (transitJob .failing (topLeg (.line .d1) .d2)).phase ≠ .live ∧ HasRoom .p3 (cutTransit .live) ∧ JobInv (cutTransit .live)
      ∧ (cutTransit .live).ctx? job12 = some (transitJob .live (topLeg (.line .d1) .d2))
      ∧ (transitJob .live (topLeg (.line .d1) .d2)).teardown = none ∧ (transitJob .live (topLeg (.line .d1) .d2)).allAtTarget = true
      ∧ ((cutTransit .live).link .d2).up = false ∧ ((tailJob .live).owner ≠ some .p2 ∧ ∀ u e, (tailJob .live).place ≠ .transit u e) :=
  ⟨by unfold HasRoom; decide, by decide +kernel, ⟨_, _, rfl⟩, rfl, by decide, by unfold HasRoom; decide, by unfold JobInv JobTable; decide,
    by decide +kernel, rfl, rfl, rfl, by decide, fun _ _ h => by cases h⟩

/-- A TAIL at its owner's CLOSE: without line legs, and with a reverse leg (the context of `reverseTail` below). -/
theorem witness_CloseTearsDownALiveJob_tail :
    let reverse : Context := { tailJob .live with bidir := true, rev := some (.line (topLeg .bank .d1)) }
    HasRoom .p6 (withJobs [tailJob .live]) ∧ JobInv (withJobs [tailJob .live]) ∧ (withJobs [tailJob .live]).ctx? job12 = some (tailJob .live)
      ∧ (tailJob .live).owner = some .p6 ∧ (tailJob .live).place = .tail .d1 ∧ (tailJob .live).lineLegs = []
      ∧ (tailJob .live).allAtTarget = true ∧ (tailJob .live).teardown = none ∧ HasRoom .p6 (withJobs [reverse]) ∧ JobInv (withJobs [reverse])
      ∧ (withJobs [reverse]).ctx? job12 = some reverse ∧ reverse.allAtTarget = true ∧ reverse.lineLegs ≠ [] := by
  unfold HasRoom JobInv JobTable; decide +kernel

/-- A transit with its downstream link UP, one with it DOWN, and tails with a reverse leg and without. -/
def reverseTail (phase : Phase) : Context :=
  { tailJob phase with bidir := true, rev := some (.line (topLeg .bank .d1)) }
def hearsOnly (d : Degree) (n : Nat) (jobs : List Context) : State :=
  { cutOff with links := cutOff.links.set d (linkTo n), jobs := jobs }

theorem witness_TeardownPassesOnAndRampsDown_drop :
    Hears .d1 liveState ∧ liveState.ctx? job12 = some (transitJob .live (topLeg (.line .d1) .d2))
      ∧ (transitJob .live (topLeg (.line .d1) .d2)).place.up? = some .d1 ∧ (liveState.link .d2).up = true
      ∧ Hears .d1 (hearsOnly .d1 7 [transitJob .live (topLeg (.line .d1) .d2)])
      ∧ ((hearsOnly .d1 7 [transitJob .live (topLeg (.line .d1) .d2)]).link .d2).up = false
      ∧ JobInv (hearsOnly .d1 7 [reverseTail .live]) ∧ (reverseTail .live).place.down? = none ∧ (reverseTail .live).allAtTarget = true
      ∧ (reverseTail .live).place.up? = some .d1 ∧ (tailJob .live).place = .tail .d1 ∧ (tailJob .live).lineLegs = [] := by
  unfold Hears JobInv JobTable; decide +kernel

theorem witness_AdoptMovesTheOwner :
    let s := withJobs [tailJob .awaitLockFwd]
    let silent := { s with ports := s.ports.set .p6 SlotLink.initial }
    HasRoom .p1 s ∧ node22.ctx? job12 = none ∧ s.ctx? job12 = some (tailJob .awaitLockFwd) ∧ (tailJob .awaitLockFwd).owner = some .p6
      ∧ (s.port .p6).up = true ∧ HasRoom .p1 silent ∧ silent.ctx? job12 = some (tailJob .awaitLockFwd) ∧ (silent.port .p6).up = false
      ∧ (transitJob .live (topLeg (.line .d1) .d2)).owner = none ∧ (tailJob .awaitLockRev).phase = .awaitLockRev := by
  unfold HasRoom; decide +kernel

theorem witness_LockReportDecidesTheJob :
    let s (c : Context) := withJobs [c]
    (2 : Int) ≠ 0 ∧ (2 : Int) ≠ 1 ∧ HasRoom .p6 (s (tailJob .awaitLockFwd)) ∧ (s (tailJob .awaitLockFwd)).ctx? job12 = some (tailJob .awaitLockFwd)
      ∧ (tailJob .awaitLockFwd).owner = some .p6 ∧ (tailJob .awaitLockFwd).place = .tail .d1 ∧ (tailJob .awaitLockFwd).bidir = false
      ∧ (tailJob .live).phase ≠ .awaitLockFwd ∧ (tailJob .live).phase ≠ .awaitLockRev ∧ (headIn .awaitLockRev).owner ≠ some .p6
      ∧ HasRoom .p2 (s (headIn .awaitLockRev)) ∧ (s (headIn .awaitLockRev)).ctx? job12 = some (headIn .awaitLockRev)
      ∧ (headIn .awaitLockRev).place = .head .d2
      ∧ (s (reverseTail .awaitLockFwd)).ctx? job12 = some (reverseTail .awaitLockFwd) ∧ (reverseTail .awaitLockFwd).bidir = true := by
  unfold HasRoom; decide +kernel

/-! ### Devices, log and start-up requests -/

def faultyAct : State := { node22 with actuators := node22.actuators.set .d2 ⟨true, none, 5⟩ }
def faultyMonitor (flight : Option ScanFlight) (probe : Option Nat) : State := { node22 with monitor := ⟨[], flight, 255, .fault, probe⟩ }

theorem witness_FaultsClearAndProbesAndWatchesGo_actuator :
    HasRoom .p1 faultyAct ∧ Degree.ofInt 0 = none ∧ Degree.ofInt 5 = none ∧ Degree.ofInt 1 = some .d1 ∧ Degree.ofInt 2 = some .d2
      ∧ (faultyAct.act .d1).faulted = false ∧ (faultyAct.act .d2).faulted = true := by unfold HasRoom; decide
theorem witness_FaultsClearAndProbesAndWatchesGo_monitor :
    let waits (m : Monitor) : State := { node22 with monitor := m, watches := node22.watches.set .d3 ⟨.lit, 0, .waiting, some 0⟩ }
    let probing : ScanFlight := ⟨⟨.probe, .d1, .incoming, 0, 1⟩, 7, 300, false, false⟩
    HasRoom .p1 (faultyMonitor none (some 0)) ∧ (faultyMonitor none (some 0)).monitor.probe = some 0
      ∧ (faultyMonitor none (some 0)).monitor.state = .fault ∧ (faultyMonitor none (some 0)).monitor.flight = none
      ∧ (faultyMonitor (some probing) none).monitor.probe = none ∧ node22.monitor.state ≠ .fault
      ∧ ((waits idleMonitor).watch .d3).state = .waiting ∧ ((waits idleMonitor).watch .d3).interval = some 0
      ∧ (waits idleMonitor).monitor.flight = none ∧ (waits idleMonitor).monitor.queue = []
      ∧ (waits { idleMonitor with flight := some probing }).monitor.flight ≠ none ∧ (node22.watch .d3).interval ≠ some 0
      ∧ node22.monitor.probe ≠ some 0 := by
  unfold HasRoom; decide
theorem witness_CountsLogAndHistoryAreKept_counts : HasRoom .p1 crowded := by unfold HasRoom; decide

/-- The three roles, each unidirectional and bidirectional, with the fields each needs. -/
def restoreOf (role hopIndex : Int) (owner up down : Option Int) (bidir : Int) (l1 l2 : Option Int) : RestoreFields :=
  ⟨⟨65534, 65535⟩, role, hopIndex, owner, up, down, bidir, 368, 16, -150, l1, l2⟩

theorem witness_RestoreLiveRecreatesTheJob :
    HasRoom .p1 starting ∧ starting.running = false ∧ ChannelRun 368 16 ∧ starting.jobs.length < 64 ∧ starting.ctx? ⟨65534, 65535⟩ = none
      ∧ Port.ofInt 8 = some .p8 ∧ (1054 : Int) ≠ -2147483648 ∧ (1054 : Int) ≤ -150 + widthTerm 16 ∧ (-2500 : Int) ≤ -150 + widthTerm 16
      ∧ (∀ d, (starting.deg d).levelFloor = -2500 ∧ (1054 : Int) ≤ max (starting.deg d).levelFloor (starting.deg d).levelCeiling)
      ∧ (restoreOf 0 0 (some 8) none (some 3) 1 (some 1054) none).level2 = none
      ∧ (restoreOf 1 15 none (some 1) (some 3) 1 (some 1054) (some (-2500))).owner = none
      ∧ (restoreOf 2 15 (some 8) (some 1) none 0 none none).level1 = none
      ∧ ∀ d dir, ∀ k, 368 ≤ k → k < 368 + 16 → starting.entry d dir k = some .unknown := by
  refine ⟨by unfold HasRoom; decide, rfl, by unfold ChannelRun; decide, by decide, by decide, rfl, by decide, by decide, by decide,
    fun d => ?_, rfl, rfl, rfl, fun d dir k _ h => allOf_entry rfl d dir (by omega)⟩
  cases d <;> decide
/-- One failing check at a time: form, node state, ranges, level, table, job id, entries. -/
theorem witness_RestoreLiveRecreatesTheJob_refused :
    let f (l : Int) := restoreOf 0 0 (some 8) none (some 3) 0 (some l) none
    HasRoom .p1 starting ∧ (restoreOf 0 0 none none (some 3) 0 (some 0) none).owner.isSome = false ∧ (f 0).owner.isSome = true
      ∧ (f 0).downstream = some (Degree.d3.toNat : Int) ∧ (f 0).level1 = some 0 ∧ node22.running = true ∧ starting.running = false
      ∧ ¬ ChannelRun 369 16 ∧ (restoreOf 0 1 (some 8) none (some 3) 0 (some 0) none).hopIndex ≠ 0
      ∧ ¬ ((1055 : Int) ≤ -150 + widthTerm 16) ∧ ¬ ((starting.deg .d3).levelFloor ≤ -2501)
      ∧ 64 ≤ ({ starting with jobs := List.replicate 64 (tailJob .live) } : State).jobs.length
      ∧ ({ starting with jobs := [{ tailJob .live with id := ⟨65534, 65535⟩ }] } : State).ctx? ⟨65534, 65535⟩ ≠ none
      ∧ (∃ e, ({ starting with map := (allOf .unknown).change (fun _ => .free) 383 1 (.d3, .outgoing) } : State).entry .d3 .outgoing 383 = some e
          ∧ e ≠ .unknown) := by
  unfold HasRoom ChannelRun
  refine ⟨by decide, rfl, rfl, rfl, rfl, rfl, rfl, by decide, by decide, by decide, by decide, by decide, by decide, _, rfl, ?_⟩
  decide +kernel
theorem witness_EndRestoreStartsTheNode :
    HasRoom .p1 starting ∧ starting.running = false ∧ HasRoom .p1 node22 ∧ node22.running = true
      ∧ node22.entry .d4 .incoming 383 = some .free ∧ ∃ t, exec (.nop .p1 0) node22 = .next t :=
  ⟨by unfold HasRoom; decide, rfl, by unfold HasRoom; decide, rfl, by decide +kernel, _, rfl⟩

/-! ### Supervisory links -/

def pendingLink : Link := { linkTo 31 with pendingHello := true, queue := [.release job12] }

theorem witness_MessagesAndNoticesAreQueuedAndSent_hello :
    let s (l : Link) : State := { node22 with links := node22.links.set .d2 l }
    (node22.deg .d2).enabled = true ∧ (node22.link .d2).helloTimer ≠ some 0
      ∧ ((s { pendingLink with helloTimer := some 0 }).link .d2).helloTimer = some 0 ∧ ((s pendingLink).link .d2).pendingHello = true
      ∧ ((s { pendingLink with pendingHello := false }).link .d2).queue = [.release job12]
      ∧ (node22.link .d2).pendingHello = false ∧ (node22.link .d2).queue = [] := by decide
theorem witness_HelloRaisesOrRenewsTheLink :
    (node22.deg .d2).enabled = true ∧ ¬ (1 ≤ 0 ∧ 0 ≤ 65534 ∧ 1 ≤ 1 ∧ 1 ≤ 4) ∧ ¬ (1 ≤ 1 ∧ 1 ≤ 65534 ∧ 1 ≤ 5 ∧ 5 ≤ 4) ∧ (cutOff.link .d2).up = false
      ∧ (node22.link .d2).up = true ∧ (node22.link .d2).neighbour = some (31, 1)
      ∧ (∀ k, (usedState.link .d2).neighbour ≠ some (65534, k)) ∧ JobInv usedState := by
  refine ⟨rfl, by decide, by decide, rfl, rfl, rfl, (fun k h => by cases h), by unfold JobInv JobTable; decide⟩
theorem witness_LinkTimeoutTakesTheLinkDown :
    let s := silentLink [transitJob .booked (legOf (.line .d1) .d2)]
    (s.link .d2).up = true ∧ (s.link .d2).timeout = some 0 ∧ JobInv s ∧ (node22.link .d2).timeout ≠ some 0 := by
  unfold JobInv JobTable; decide
theorem witness_DiscardedMessagesAreCounted :
    (cutOff.deg .d2).enabled = true ∧ (cutOff.link .d2).up = false ∧ PathMessage .d2 .corrected (.drop .d2 .corrected job12)
      ∧ (({ node22 with degrees := PerDegree.const plain } : State).deg .d2).enabled = false :=
  ⟨rfl, rfl, by unfold PathMessage; simp, rfl⟩
theorem witness_MessagesAndNoticesAreQueuedAndSent_placed :
    let long (n : Nat) : State := { node22 with links := PerDegree.const { linkTo 31 with queue := List.replicate n (.release job12) } }
    Hears .d2 (long 31) ∧ ((long 31).link .d2).queue.length < 32 ∧ Hears .d2 (long 32) ∧ 32 ≤ ((long 32).link .d2).queue.length
      ∧ ¬ Hears .d2 cutOff ∧ (({ node22 with ports := PerPort.const (fullPort 23) } : State).port .p1).tx.length < 24
      ∧ 24 ≤ (({ node22 with ports := PerPort.const (fullPort 24) } : State).port .p1).tx.length ∧ (node22.port .p1).up = true
      ∧ (({ node22 with ports := PerPort.const SlotLink.initial } : State).port .p1).up = false := by
  unfold Hears; decide

/-! ### Reservation along the path -/

def reserveOf (hopIndex first count : Nat) (density : Int) (bidir : Nat) : ReserveFields :=
  ⟨job12, hopIndex, first, count, density, bidir, route12⟩
def nodeId (n : Nat) (s : State) : State := { s with node := { s.node with nodeId := n } }

theorem witness_ReserveTakesTheRun_transit :
    Hears .d1 node22 ∧ node22.running = true ∧ RouteFits (reserveOf 1 368 16 500 1).hops ∧ route12[1]? = some ⟨22, 2, 0⟩
      ∧ node22.node.nodeId = 22 ∧ ChannelRun 368 16 ∧ ChannelRun 0 2 ∧ node22.jobs.length < 64 ∧ node22.ctx? job12 = none
      ∧ Degree.ofInt 2 = some .d2 ∧ Hears .d2 node22 ∧ route12[2]? = some ⟨31, 4, 0⟩ ∧ (node22.link .d2).neighbour = some (31, 1)
      ∧ (node22.deg .d2).levelFloor ≤ -2000 + widthTerm 2 ∧ (node22.deg .d1).levelFloor ≤ 500 + widthTerm 16
      ∧ RunFree node22 [(.d1, .incoming), (.d2, .outgoing)] 0 2
      ∧ RunFree node22 [(.d1, .incoming), (.d2, .outgoing), (.d2, .incoming), (.d1, .outgoing)] 368 16 :=
  ⟨by unfold Hears; decide, rfl, route12_fits, rfl, rfl, by unfold ChannelRun; decide, by unfold ChannelRun; decide, by decide, rfl, rfl,
    by unfold Hears; decide, rfl, rfl, by decide, by decide, allOf_free rfl _ (by omega), allOf_free rfl _ (by omega)⟩
theorem witness_ReserveTakesTheRun_tail :
    Hears .d1 (nodeId 40 node22) ∧ route12[3]? = some ⟨40, 0, 6⟩ ∧ (nodeId 40 node22).node.nodeId = 40 ∧ Port.ofInt 6 = some .p6
      ∧ RunFree (nodeId 40 node22) [(.d1, .incoming)] 0 2 ∧ RunFree (nodeId 40 node22) [(.d1, .incoming), (.d1, .outgoing)] 368 16 :=
  ⟨by unfold Hears; decide, rfl, rfl, rfl, allOf_free rfl _ (by omega), allOf_free rfl _ (by omega)⟩

/-- One failing check at a time, in the order of R63. -/
theorem witness_ReserveIsRefusedForItsFirstFault :
    Hears .d1 starting ∧ starting.running = false ∧ Hears .d1 (nodeId 23 node22) ∧ (nodeId 23 node22).node.nodeId ≠ 22
      ∧ (Degree.ofInt 2 = some .d2 ∧ (({ node22 with degrees := node22.degrees.set .d2 plain } : State).deg .d2).enabled = false)
      ∧ ((hearsOnly .d1 7 []).deg .d2).enabled = true ∧ ((hearsOnly .d1 7 []).link .d2).up = false
      ∧ (∀ k, (({ node22 with links := PerDegree.const (linkTo 9) } : State).link .d2).neighbour ≠ some (31, k))
      ∧ 64 ≤ ({ node22 with jobs := List.replicate 64 (tailJob .live) } : State).jobs.length
      ∧ (withJobs [tailJob .live]).ctx? job12 ≠ none
      ∧ (-2000 + widthTerm 2 < (({ node22 with degrees := PerDegree.const { enabledDegree with levelFloor := -1698 } } : State).deg .d2).levelFloor)
      ∧ RouteFits route12 ∧ ChannelRun 120 4 ∧ route12[1]? = some ⟨22, 2, 0⟩ := by
  refine ⟨by unfold Hears; decide, rfl, by unfold Hears; decide, by decide, ⟨rfl, rfl⟩, rfl, rfl, (fun k h => by cases h), by decide,
    by decide, by decide, route12_fits, by unfold ChannelRun; decide, rfl⟩
theorem witness_ReserveIsRefusedForItsFirstFault_entries :
    let entries (m : SpectrumMap) := m.readRuns 120 4 [(.d1, .incoming), (.d2, .outgoing)]
    let one (e : SliceEntry) := (allOf .free).change (fun _ => e) 123 1 (.d2, .outgoing)
    (∃ e, e ∈ entries (one (.live ⟨9, 5⟩)) ∧ e.job?.isSome = true)
      ∧ ((∀ e, e ∈ entries (one (.blocked .abandoned)) → e.job? = none)
          ∧ ∃ e, e ∈ entries (one (.blocked .abandoned)) ∧ e.isBlocked = true)
      ∧ ((∀ e, e ∈ entries (one .unknown) → e.job? = none ∧ e.isBlocked = false) ∧ .unknown ∈ entries (one .unknown)) := by
  decide +kernel

def transitIn (phase : Phase) : Context := transitJob phase (legOf (.line .d1) .d2)
def holdingTransit : Context := { transitIn .holding with hold := some 0 }
def holdingHead : Context := { headJob .holding (legOf .bank .d2) with hold := some 0 }

theorem witness_ReserveOkConfirmsOrIsReleased :
    Hears .d2 node22 ∧ node22.ctx? job12 = none ∧ (withJobs [holdingTransit]).ctx? job12 = some holdingTransit
      ∧ holdingTransit.phase = .holding ∧ holdingTransit.place = .transit .d1 .d2
      ∧ (withJobs [holdingHead]).ctx? job12 = some holdingHead ∧ holdingHead.place = .head .d2 ∧ (transitIn .booked).phase ≠ .holding
      ∧ holdingTransit.place.down? ≠ some .d3 := by unfold Hears; decide +kernel
theorem witness_ReservationsEndAndFreeTheirRun :
    Hears .d2 (withJobs [holdingTransit]) ∧ (withJobs [holdingTransit]).ctx? job12 = some holdingTransit
      ∧ (withJobs [holdingHead]).ctx? job12 = some holdingHead ∧ holdingHead.place = .head .d2 ∧ Hears .d1 (withJobs [transitIn .booked])
      ∧ (withJobs [transitIn .booked]).ctx? job12 = some (transitIn .booked) ∧ (transitIn .booked).place.up? = some .d1
      ∧ (transitIn .booked).failSteps = [] ∧ (tailJob .booked).place.up? = some .d1 := by unfold Hears; decide +kernel
theorem witness_ReservationsEndAndFreeTheirRun_expiry :
    (withJobs [holdingTransit]).ctx? job12 = some holdingTransit ∧ holdingTransit.hold = some 0
      ∧ (withJobs [holdingHead]).ctx? job12 = some holdingHead ∧ holdingHead.hold = some 0 := by decide +kernel

/-! ### Bring-up, turnaround, acceptance, failure -/

def bothWays (phase : Phase) : Context :=
  { transitJob phase (topLeg (.line .d1) .d2) with bidir := true, rev := some (.line (legOf (.line .d2) .d1)) }

theorem witness_RampTurnBeginsTheNextRamp :
    Hears .d1 (withJobs [transitIn .booked]) ∧ (withJobs [transitIn .booked]).ctx? job12 = some (transitIn .booked)
      ∧ (withJobs [tailJob .booked]).ctx? job12 = some (tailJob .booked) ∧ (tailJob .booked).place = .tail .d1
      ∧ Hears .d2 (withJobs [bothWays .bringupFwd]) ∧ (withJobs [bothWays .bringupFwd]).ctx? job12 = some (bothWays .bringupFwd)
      ∧ (bothWays .bringupFwd).bidir = true ∧ (topLeg (.line .d1) .d2).state = .atTarget
      ∧ (bothWays .bringupFwd).place = .transit .d1 .d2 ∧ ({ headIn .bringupFwd with bidir := true } : Context).place = .head .d2 := by
  unfold Hears; decide +kernel
theorem witness_PathUpAcceptsTheJob :
    let both : Context := { bothWays .bringupRev with rev := some (.line (topLeg (.line .d2) .d1)) }
    let up : Context := transitJob .bringupFwd (topLeg (.line .d1) .d2)
    Hears .d2 (withJobs [up]) ∧ (withJobs [up]).ctx? job12 = some up ∧ up.allAtTarget = true ∧ up.bidir = false
      ∧ (headIn .bringupFwd).allAtTarget = true ∧ Hears .d1 (withJobs [both]) ∧ (withJobs [both]).ctx? job12 = some both
      ∧ both.allAtTarget = true ∧ both.bidir = true ∧ (reverseTail .bringupRev).allAtTarget = true
      ∧ (reverseTail .bringupRev).place = .tail .d1 := by unfold Hears; decide +kernel
theorem witness_FailIsTakenAndPassedOn :
    let s := withJobs [transitJob .bringupFwd (stepping .up .verify 152 (.num 452))]
    let c := transitJob .bringupFwd (stepping .up .verify 152 (.num 452))
    Hears .d1 s ∧ s.ctx? job12 = some c ∧ c.uses .d1 = true ∧ BeforeLive c ∧ c.uses .d2 = true ∧ Degree.d2 ≠ .d1 := by
  unfold Hears BeforeLive; decide +kernel
/-- A job FAILING met on a foreign degree; each clause's own case: a FAIL that finds the job LIVE, a PATH_UP on the wrong degree, a
RAMP_TURN(REV) before the forward leg is AT_TARGET, a DOWN_TURN with the ramp-down begun and one at a TAIL. -/
theorem witness_StrayPathMessagesAreDiscarded :
    let c := transitIn .failing
    let live := transitJob .live (topLeg (.line .d1) .d2)
    let up := transitJob .bringupFwd (topLeg (.line .d1) .d2)
    let early : Context := { transitIn .bringupFwd with bidir := true, rev := some (.line (legOf (.line .d2) .d1)) }
    let down := transitJob .teardown { topLeg (.line .d1) .d2 with state := .rampingDown }
    Hears .d3 (withJobs [c]) ∧ node22.ctx? job12 = none ∧ (withJobs [c]).ctx? job12 = some c ∧ c.phase ≠ .holding
      ∧ c.place.down? ≠ some .d3 ∧ c.phase ≠ .booked ∧ c.place.up? ≠ some .d3 ∧ c.bidir = false ∧ c.allAtTarget = false ∧ c.uses .d3 = false
      ∧ c.phase ≠ .live ∧ c.phase ≠ .teardown ∧ live.uses .d1 = true ∧ live.phase = .live ∧ up.allAtTarget = true
      ∧ up.place.down? ≠ some .d1 ∧ early.place.down? = some .d2 ∧ early.phase = .bringupFwd ∧ (legOf (.line .d1) .d2).state ≠ .atTarget
      ∧ down.phase = .teardown ∧ down.place.down? = some .d2 ∧ down.allAtTarget = false ∧ (tailJob .teardown).place = .tail .d1
      ∧ (2 : Nat) ≤ 255 := by
  unfold Hears; decide +kernel
theorem witness_TeardownPassesOnAndRampsDown_turn :
    let c : Context := { transitJob .teardown (topLeg (.line .d1) .d2) with teardown := some 0 }
    JobInv (withJobs [c]) ∧ (withJobs [c]).ctx? job12 = some c ∧ c.phase = .teardown ∧ c.allAtTarget = true
      ∧ Hears .d2 (withJobs [c]) ∧ c.place.down? = some .d2 ∧ c.teardown = some 0 := by unfold JobInv JobTable Hears; decide +kernel
theorem witness_FailingTimersFailTheJob :
    let c (l : LineLeg) : Context := { transitJob .bringupFwd l with path := some 0 }
    let dark : LineLeg := { legOf (.line .d1) .d2 with state := .frozen, frozen := some (.dark, .step), darkTimer := some 0 }
    let wait : LineLeg := { legOf (.line .d1) .d2 with state := .headroomWait, headroom := some 0 }
    let lock : Context := { tailJob .awaitLockFwd with lock := some 0 }
    JobInv (withJobs [c dark]) ∧ (withJobs [c dark]).ctx? job12 = some (c dark) ∧ BeforeLive (c dark) ∧ (c dark).path = some 0
      ∧ (c dark).leg? .fwd = some (.line dark) ∧ dark.state = .frozen ∧ dark.darkTimer = some 0 ∧ JobInv (withJobs [c wait])
      ∧ (withJobs [c wait]).ctx? job12 = some (c wait) ∧ (c wait).leg? .fwd = some (.line wait) ∧ wait.state = .headroomWait
      ∧ wait.headroom = some 0 ∧ BeforeLive lock ∧ JobInv (withJobs [lock]) ∧ (withJobs [lock]).ctx? job12 = some lock
      ∧ BeforeLive { headIn .awaitLockRev with lock := some 0 } := by
  unfold BeforeLive JobInv JobTable; decide +kernel

/-- What the loss of a link can meet, on degree 2 and on degree 1: a HOLDING transit and head, a BOOKED job, one in TEARDOWN with its ramp-down
not begun, one with it begun, a LIVE job. -/
theorem witness_LinkTimeoutTakesTheLinkDown_jobs :
    let waiting : Context := { transitJob .teardown (topLeg (.line .d1) .d2) with teardown := some 9 }
    let begun : Context := transitJob .teardown { topLeg (.line .d1) .d2 with state := .rampingDown }
    let live : Context := transitJob .live (topLeg (.line .d1) .d2)
    let s (c : Context) := silentLink [c]
    (s holdingTransit).usersOf .d2 = [job12] ∧ (s holdingTransit).ctx? job12 = some holdingTransit ∧ holdingTransit.phase = .holding
      ∧ holdingTransit.place.down? = some .d2 ∧ holdingTransit.uses .d1 = true ∧ holdingTransit.place.down? ≠ some .d1
      ∧ (s holdingHead).usersOf .d2 = [job12] ∧ holdingHead.place = .head .d2 ∧ (s (transitIn .booked)).usersOf .d2 = [job12]
      ∧ BeforeLive (transitIn .booked) ∧ (transitIn .booked).phase ≠ .holding ∧ (transitIn .booked).uses .d1 = true
      ∧ (s waiting).usersOf .d2 = [job12] ∧ waiting.phase = .teardown ∧ waiting.allAtTarget = true ∧ waiting.place.down? = some .d2
      ∧ begun.allAtTarget = false ∧ live.phase = .live ∧ (s live).usersOf .d2 = [job12] ∧ ((s live).link .d2).up = true
      ∧ ((s live).link .d2).timeout = some 0 ∧ JobInv (s waiting) ∧ (∀ k, ((s live).link .d2).neighbour ≠ some (61, k)) := by
  refine ⟨by decide +kernel, by decide +kernel, rfl, rfl, rfl, by decide, by decide +kernel, rfl, by decide +kernel, by unfold BeforeLive; decide,
    by decide, rfl, by decide +kernel, rfl, rfl, rfl, rfl, rfl, by decide +kernel, rfl, rfl, by unfold JobInv JobTable; decide, fun k h => ?_⟩
  cases h

/-- A context of the job in a phase before LIVE or after it, with the timers and fail fields of the phase. -/
def booked : Context := { transitIn .booked with path := some 9 }
def reserved : Context := { transitIn .holding with hold := some 9, reached := false }
def lockWait : Context := { tailJob .awaitLockFwd with path := some 9, lock := some 9 }
/-- The leg in the settle of its last down-step, the settle timer run out. -/
def lastDown : LineLeg := { stepping .down .settle 152 .off with level := .off, state := .rampingDown, verified := none, settle := some 0 }
def failingContext : Context := { transitJob .failing lastDown with failure := some ⟨.linkDown, 0#8, 22⟩ }

/-- A FAIL that meets a BOOKED job, a HOLDING one and a tail without line legs; the last settle of a FAILING and of a TEARDOWN job. -/
theorem witness_EndedJobsLeaveTheirRecord_fail :
    let s (c : Context) := mapped (withJobs [c])
    (Sound (s booked) ∧ Agreed (s booked)) ∧ (Sound (s reserved) ∧ Agreed (s reserved))
      ∧ (Sound (s lockWait) ∧ Agreed (s lockWait)) ∧ Hears .d1 (s booked)
      ∧ (s booked).ctx? job12 = some booked ∧ booked.uses .d1 = true ∧ BeforeLive booked ∧ BeforeLive reserved ∧ BeforeLive lockWait
      ∧ (∀ x, x ∈ booked.lineLegs → x.2.state = .dark) ∧ lockWait.lineLegs = [] ∧ lockWait.owner = some .p6 ∧ booked.reached = true
      ∧ reserved.reached = false ∧ (node22.act .d2).faulted = false
      ∧ (s booked).entry .d1 .incoming 120 = some (.booked job12) ∧ (s reserved).entry .d2 .outgoing 123 = some (.held job12) := by
  refine ⟨⟨sound_by (by decide +kernel), agreed_by (by decide +kernel)⟩, ⟨sound_by (by decide +kernel), agreed_by (by decide +kernel)⟩,
    ⟨sound_by (by decide +kernel), agreed_by (by decide +kernel)⟩, ?_⟩
  unfold Hears BeforeLive; decide +kernel
theorem witness_EndedJobsLeaveTheirRecord_settle :
    let s (c : Context) := mapped (holding c .down)
    (Sound (s failingContext) ∧ Agreed (s failingContext))
      ∧ (Sound (s (transitJob .teardown lastDown)) ∧ Agreed (s (transitJob .teardown lastDown)))
      ∧ (s failingContext).ctx? job12 = some failingContext ∧ failingContext.leg? .fwd = some (.line lastDown)
      ∧ lastDown.step.map (·.kind) = some .down ∧ lastDown.settle = some 0 ∧ lastDown.level = .off
      ∧ (∀ x, x ∈ failingContext.lineLegs → x.1 = .fwd ∨ x.2.state = .off) ∧ failingContext.failure = some ⟨.linkDown, 0#8, 22⟩
      ∧ (transitJob .teardown lastDown).place.up? = some .d1 ∧ (s failingContext).entry .d1 .incoming 120 = some (.lit job12)
      ∧ (s (transitJob .teardown lastDown)).entry .d2 .outgoing 123 = some (.live job12) := by
  refine ⟨⟨sound_by (by decide +kernel), agreed_by (by decide +kernel)⟩, ⟨sound_by (by decide +kernel), agreed_by (by decide +kernel)⟩, ?_⟩
  decide +kernel

/-! ### Arithmetic -/

theorem witness_GridTargetsAndLadder :
    (1 : Nat) ≤ 16 ∧ (∀ r, r ∈ ([(126, 4)] : List (Nat × Nat)) → 1 ≤ r.2) ∧ (2 : Nat) ≤ 16 ∧ (legOf .bank .d2).level = .off ∧ (topLeg .bank .d2).level = .num 452 ∧ 0 < plain.stepSize ∧ (legOf .bank .d2).probe < 452
      ∧ ((5 : Nat) - 1 : Int) * plain.stepSize < 452 - (legOf .bank .d2).probe
      ∧ 452 - (legOf .bank .d2).probe ≤ (5 : Nat) * plain.stepSize := by decide
theorem witness_CombinationFoldsInOrder :
    (1225 : Nat) ≤ (1225 - 0 : Int).natAbs ∧ ([4500, -6000] : List Int) ≠ [] ∧ ∀ x, x ∈ ([4500, -6000] : List Int) → x ≤ 4500 := by decide

/-! ### Arbiters and steps -/

/-- A monitor state of degree 1 that is DARK. -/
def darkOne (s : State) : State := { s with watches := s.watches.set .d1 ⟨.dark, 0, .waiting, some 1000⟩ }

theorem witness_JoinQueuesOrFreezes :
    let s := withJobs [transitIn .bringupFwd]
    s.leg? ⟨job12, .fwd⟩ = some (legOf (.line .d1) .d2) ∧ (∀ g, (legOf (.line .d1) .d2).ingress = .line g → (s.watch g).dark = .lit)
      ∧ (darkOne s).leg? ⟨job12, .fwd⟩ = some (legOf (.line .d1) .d2) ∧ ((darkOne s).watch .d1).dark = .dark
      ∧ (withJobs [transitJob .bringupFwd { legOf (.line .d1) .d2 with frozen := some (.monitor, .retry) }]).leg? ⟨job12, .fwd⟩ =
          some { legOf (.line .d1) .d2 with frozen := some (.monitor, .retry) } ∧ (legOf (.line .d1) .d2).frozen = none := by
  refine ⟨by decide +kernel, fun g h => ?_, by decide +kernel, rfl, by decide +kernel, rfl⟩
  cases h; rfl

def queuedLeg : LineLeg := { legOf (.line .d1) .d2 with state := .queued }
def arbiterOf (c : Context) (a : Arbiter) : State := { withJobs [c] with arbiters := node22.arbiters.set .d2 a }

/-- A job of another number in bring-up, its forward leg given. -/
def numbered (n : Nat) (l : LineLeg) : Context := { transitJob .bringupFwd l with id := ⟨7, n⟩, first := 8 * n, path := some 9 }
def refOf (n : Nat) : LegRef := ⟨⟨7, n⟩, .fwd⟩
def frozenLeg (x : FrozenBy) : LineLeg :=
  { legOf (.line .d1) .d2 with
    state := .frozen, frozen := some (x, .step), darkTimer := match x with
      | .dark => some 9
      | .monitor => none }

/-- Five jobs from degree 1 to degree 2: in the UP class, in the headroom-wait list, a holder in VERIFY, frozen by dark and by monitor. -/
def mixed : State := mapped
  { withJobs [numbered 1 queuedLeg, numbered 2 { queuedLeg with state := .headroomWait, headroom := some 9 },
      numbered 3 (stepping .up .verify 152 (.num 152)), numbered 4 (frozenLeg .dark), numbered 5 (frozenLeg .monitor)] with
    frozenOrder := [refOf 4, refOf 5]
    arbiters := node22.arbiters.set .d2 { Arbiter.initial with token := some ⟨refOf 3, .up⟩, up := [⟨refOf 1, .step⟩], wait := [⟨refOf 2, .step⟩] }
    monitor := ⟨[], some ⟨⟨.leg (refOf 3), .d2, .outgoing, 24, 4⟩, 5, 300, false, false⟩, 6, .ok, none⟩ }

theorem witness_FreezesAndThawsFollowTheirTables :
    Sound mixed ∧ Agreed mixed ∧ (mixed.leg? (refOf 1)).any (frozenByDark .d1) = true ∧ (mixed.leg? (refOf 2)).any (frozenByDark .d1) = true
      ∧ (mixed.leg? (refOf 3)).any stoppedHolder = true ∧ ((mixed.leg? (refOf 4)).bind (·.frozen)).map (·.1) = some .dark
      ∧ ((mixed.leg? (refOf 5)).bind (·.frozen)).map (·.1) = some .monitor ∧ (mixed.leg? (refOf 4)).any (fun l => l.ingress == .line .d1) = true :=
  ⟨sound_by (by decide +kernel), agreed_by (by decide +kernel), by decide +kernel, by decide +kernel, by decide +kernel, by decide +kernel,
    by decide +kernel, by decide +kernel⟩

/-- Each row of the pass: fault, a DOWN entry, monitor fault; a grant, a parking (an output ceiling too low), a skip under the hold. -/
theorem witness_ActsEndInGrantPassesAndAScan :
    let entry : UpEntry := ⟨⟨job12, .fwd⟩, .step⟩
    let s := arbiterOf (transitJob .bringupFwd queuedLeg) { Arbiter.initial with up := [entry] }
    let tight := { s with degrees := PerDegree.const { enabledDegree with outputCeiling := 1000, guardBand := 500, levelFloor := 0, probeDepth := 300 } }
    let low := { tight with jobs := [transitJob .bringupFwd { queuedLeg with probe := 600 }] }
    let held := { s with arbiters := s.arbiters.set .d2 { Arbiter.initial with up := [entry], held := true } }
    let down := { s with arbiters := s.arbiters.set .d2 { Arbiter.initial with down := [⟨job12, .fwd⟩] } }
    let asks := { s with monitor := { idleMonitor with queue := [⟨.watch .d4, .d4, .incoming, 0, 384⟩] } }
    (s.arb .d2).token = none ∧ (({ s with actuators := faultyAct.actuators } : State).act .d2).faulted = true
      ∧ (down.arb .d2).down = [⟨job12, .fwd⟩] ∧ (s.act .d2).faulted = false ∧ (s.arb .d2).down = []
      ∧ (faultyMonitor none none).monitor.state = .fault ∧ s.monitor.state ≠ .fault
      ∧ ((grantPass .d2 s).arb .d2).token = some ⟨⟨job12, .fwd⟩, .up⟩ ∧ ((grantPass .d2 low).arb .d2).token = none
      ∧ ((grantPass .d2 held).arb .d2).token = none ∧ s.leg? entry.leg ≠ none ∧ skipped (held.arb .d2) entry = true
      ∧ skipped (s.arb .d2) entry = false ∧ ((s.arb .d2).up.map (·.leg)).Nodup ∧ asks.monitor.flight = none
      ∧ asks.monitor.queue ≠ [] ∧ (mixed.arb .d2).token ≠ none ∧ (low.arb .d2).up.getLast? = some entry
      ∧ skipped (low.arb .d2) entry = false ∧ (low.ctx? job12).isSome = true
      ∧ (held.arb .d2).up.filter (fun x => !skipped (held.arb .d2) x) = [] := by decide +kernel

/-- An entry whose check passes and one whose check does not. -/
theorem witness_ActsEndInGrantPassesAndAScan_fits :
    let entry : UpEntry := ⟨⟨job12, .fwd⟩, .step⟩
    let s := arbiterOf (transitJob .bringupFwd queuedLeg) { Arbiter.initial with up := [entry] }
    let tight := { s with degrees := PerDegree.const { enabledDegree with outputCeiling := 1000, guardBand := 500, levelFloor := 0, probeDepth := 300 } }
    let low := { tight with jobs := [transitJob .bringupFwd { queuedLeg with probe := 600 }] }
    Fits s .d2 entry ∧ ¬ Fits low .d2 entry := by
  refine ⟨fun l c hl hc => ?_, fun h => ?_⟩
  · cases hl; cases hc; decide +kernel
  · exact absurd (h _ _ rfl rfl) (by decide +kernel)

/-- A leg with a neighbour in the window, one without; a LIGHT_ON, an UP and a RECHECK step. -/
theorem witness_GrantedStepsBegin :
    let near : Context := { transitJob .live (topLeg (.line .d1) .d2) with id := ⟨9, 1⟩, first := 126 }
    let c := transitJob .bringupFwd queuedLeg
    let s := withJobs [c, near]
    s.ctx? job12 = some c ∧ c.leg? .fwd = some (.line queuedLeg) ∧ JobInv s ∧ (s.others .d2 ⟨job12, .fwd⟩).length = 1
      ∧ sliceDistance 120 4 126 4 = 3 ∧ (3 : Nat) ≤ plain.observationWindow ∧ ((withJobs [c]).others .d2 ⟨job12, .fwd⟩) = []
      ∧ (planStep queuedLeg plain).1 = .lightOn ∧ (planStep { queuedLeg with level := .num 152 } plain).1 = .up
      ∧ (planStep { queuedLeg with level := .num 152, unverified := true } plain).1 = .recheck := by
  unfold JobInv JobTable; decide +kernel

def inSettle (kind : StepKind) (l : LineLeg) : LineLeg :=
  { l with settle := some 0, step := l.step.map (fun x => { x with kind := kind, stage := .settle }) }

theorem witness_LegTimersMoveTheStepOn :
    let c (l : LineLeg) := transitJob .bringupFwd l
    let up := inSettle .up (stepping .up .settle 452 (.num 452))
    let last : LineLeg := { inSettle .down (stepping .down .settle 0 .off) with level := .off }
    let s (l : LineLeg) := holding (transitJob .teardown l) .down
    let spaced : LineLeg := { verifying with spacing := some 0 }
    let waits : LineLeg := { legOf (.line .d1) .d2 with level := .num (-1048), state := .backoff, retry := some 0 }
    (holding (c up) .up).ctx? job12 = some (c up) ∧ (c up).leg? .fwd = some (.line up) ∧ up.settle = some 0 ∧ up.step.map (·.kind) = some .up
      ∧ (inSettle .backoff up).step.map (·.kind) = some .backoff ∧ (inSettle .down (stepping .down .settle 152 (.num 152))).level = .num 152
      ∧ JobInv (s last) ∧ (s last).ctx? job12 = some (transitJob .teardown last) ∧ last.step.map (·.kind) = some .down ∧ last.level = .off
      ∧ (∀ x, x ∈ (transitJob .teardown last).lineLegs → x.1 = .fwd ∨ x.2.state = .off) ∧ ((s last).arb .d2).wait = []
      ∧ spaced.step.isSome = true ∧ spaced.spacing = some 0 ∧ waits.state = .backoff ∧ waits.retry = some 0 := by
  unfold JobInv JobTable; decide +kernel
theorem witness_LegTimersMoveTheStepOn_others (d : Degree) (h : d ≠ .d2) (c : Context) :
    (⟨job12, .fwd⟩ : LegRef) ∉ ((holding c .down).arb d).down ∧ ∀ x, x ∈ ((holding c .down).arb d).up → x.leg ≠ ⟨job12, .fwd⟩ := by
  have ha : (holding c .down).arb d = Arbiter.initial := by
    cases d <;> first | exact absurd rfl h | rfl
  rw [ha]
  exact ⟨List.not_mem_nil, fun x hx => absurd hx List.not_mem_nil⟩

/-- The step of the leg that awaits its verification. -/
def verifyStep : StepState := ⟨.up, .up, .verify, .num 452, .num 452, [], 0, 0, none, none, none, none, none⟩

theorem verifying_now (l : LineLeg) (st : StepState) (v : Int) (rs : List Int) (h0 : rs.length = 4) (h1 : l.step = some st) (h2 : st.stage = .verify)
    (h3 : l.spacing = none) (h4 : l.level = .num v) (h5 : l.ingress = .line .d1) :
    Verifying (scanning l) 5 rs ⟨job12, .fwd⟩ (transitJob .bringupFwd l) l st v where
  flight := ⟨_, rfl, rfl, h0, rfl, rfl⟩
  calm := (fun h => by cases h)
  job := rfl
  leg := rfl
  step := h1
  stage := h2
  free := h3
  level := h4
  bright g h := by
    rw [h5] at h
    cases h; rfl

/-- At the top of the ladder, and below it; the deviation at both bounds of the tolerance. -/
theorem witness_VerificationPassMovesTheLegOn :
    let low : LineLeg := { verifying with level := .num 152 }
    Verifying (scanning verifying) 5 [-2150, -2148, -2155, -2152] ⟨job12, .fwd⟩ (transitJob .bringupFwd verifying) verifying verifyStep 452
      ∧ Verifying (scanning low) 5 [-2450, -2448, -2455, -2452] ⟨job12, .fwd⟩ (transitJob .bringupFwd low) low verifyStep 152
      ∧ JobInv (scanning verifying) ∧ JobInv (scanning low)
      ∧ deviationOf (scanning verifying) ⟨job12, .fwd⟩ (transitJob .bringupFwd verifying) verifying verifyStep 452 [-2150, -2148, -2155, -2152] = -4
      ∧ disturbancesOf ⟨job12, .fwd⟩ (transitJob .bringupFwd verifying) verifying verifyStep [-2150, -2148, -2155, -2152] = []
      ∧ min (452 : Int) (max plain.levelFloor plain.levelCeiling) ≤ 452 ∧ (152 : Int) < min 452 (max plain.levelFloor plain.levelCeiling)
      ∧ -plain.tolerance ≤ -4 ∧ (-4 : Int) ≤ plain.tolerance := by
  refine ⟨verifying_now _ _ _ _ rfl rfl rfl rfl rfl rfl, verifying_now _ _ _ _ rfl rfl rfl rfl rfl rfl, ?_, ?_, ?_, ?_, ?_, ?_, ?_, ?_⟩
  all_goals first | (unfold JobInv JobTable; decide) | decide +kernel

/-- A low reading on the first scan, on the third of a run, on the eighth without a run, and with no retry left; a back-off to a level the
leg already has. -/
theorem witness_VerificationFailureRetriesThenFails :
    let third : LineLeg := { verifying with step := some { verifyStep with failingRun := 2, previous := some .low, scansUsed := 2 } }
    let eighth : LineLeg := { verifying with level := .num (-1048), step := some { verifyStep with failingRun := 1, previous := some .high, scansUsed := 7 } }
    let spent : LineLeg := { third with retryCount := 3 }
    let rs : List Int := [-2350, -2348, -2355, -2352]
    Verifying (scanning verifying) 5 rs ⟨job12, .fwd⟩ (transitJob .bringupFwd verifying) verifying verifyStep 452 ∧ JobInv (scanning verifying)
      ∧ Verifying (scanning third) 5 rs ⟨job12, .fwd⟩ (transitJob .bringupFwd third) third
          { verifyStep with failingRun := 2, previous := some .low, scansUsed := 2 } 452
      ∧ Verifying (scanning eighth) 5 (rs.map (· - 1500)) ⟨job12, .fwd⟩ (transitJob .bringupFwd eighth) eighth
          { verifyStep with failingRun := 1, previous := some .high, scansUsed := 7 } (-1048)
      ∧ Verifying (scanning spent) 5 rs ⟨job12, .fwd⟩ (transitJob .bringupFwd spent) spent
          { verifyStep with failingRun := 2, previous := some .low, scansUsed := 2 } 452
      ∧ deviationOf (scanning verifying) ⟨job12, .fwd⟩ (transitJob .bringupFwd verifying) verifying verifyStep 452 rs < -plain.tolerance
      ∧ 1 < plain.failRun ∧ plain.failRun ≤ 2 + 1 ∧ 8 ≤ 7 + 1 ∧ verifying.retryCount < plain.retryLimit ∧ plain.retryLimit ≤ spent.retryCount
      ∧ BeforeLive (transitJob .bringupFwd spent) ∧ (legOf .bank .d2).probe = -1048 := by
  refine ⟨verifying_now _ _ _ _ rfl rfl rfl rfl rfl rfl, ?_, verifying_now _ _ _ _ rfl rfl rfl rfl rfl rfl,
    verifying_now _ _ _ _ rfl rfl rfl rfl rfl rfl, verifying_now _ _ _ _ rfl rfl rfl rfl rfl rfl, ?_, ?_, ?_, ?_, ?_, ?_, ?_, ?_⟩
  all_goals first | (unfold JobInv JobTable; decide) | (unfold BeforeLive; decide) | decide +kernel

/-! ### Devices -/

def watching (w : Watch) (s : State) : State :=
  { s with
    watches := s.watches.set .d1 w
    monitor := ⟨[], some ⟨⟨.watch .d1, .d1, .incoming, 0, 384⟩, 9, 300, false, false⟩, 10, .ok, none⟩ }

/-- Both dark states, with the run at 0 and at 1; readings that make the total clear, and low under another threshold; a leg in the UP class
that degree 1 feeds. -/
theorem witness_WatchResultDecidesTheDarkState :
    let s (x : Dark) (run : Nat) := watching ⟨x, run, .inFlight, none⟩
      (arbiterOf (transitJob .bringupFwd queuedLeg) { Arbiter.initial with up := [⟨⟨job12, .fwd⟩, .step⟩] })
    let low (r : Int) (p : DegreeParams) : Bool :=
      decide (foldLevels ((List.replicate 384 r).map clampReading) - p.ingressTapOffset < p.losThreshold)
    node22.monitor.flight = none ∧ (s .lit 1).monitor.flight.map (·.issue) = some 9 ∧ (List.replicate 384 (0 : Int)).length = 384
      ∧ (s .lit 1).monitor.state ≠ .retrying ∧ low (-6000) plain = false ∧ low (-6000) { plain with ingressTapOffset := 0 } = true
      ∧ ((s .lit 1).watch .d1).dark = .lit ∧ ((s .lit 1).watch .d1).run ≠ 0 ∧ ((s .dark 1).watch .d1).dark = .dark
      ∧ (s .lit 1).leg? ⟨job12, .fwd⟩ = some queuedLeg ∧ queuedLeg.ingress = .line .d1
      ∧ (⟨⟨job12, .fwd⟩, .step⟩ : UpEntry) ∈ ((s .lit 1).arb .d2).up ++ ((s .lit 1).arb .d2).wait := by decide +kernel

/-- A result in RETRYING; a probe's; a withdrawn scan's and one for a leg in SETTLE; a leg in BASELINE and in VERIFY, its ingress LIT and
DARK, of a RECHECK and of an UP step. -/
theorem witness_OtherScanResultsAreTaken :
    let based (k : StepKind) := stepping k .baseline 152 (.num 452)
    let probing := { node22 with monitor := ⟨[], some ⟨⟨.probe, .d1, .incoming, 0, 1⟩, 5, 300, false, false⟩, 6, .fault, none⟩ }
    let again := { scanning verifying with monitor := { (scanning verifying).monitor with state := .retrying } }
    (scanning verifying).monitor.flight.map (fun f => (f.issue, f.request.count, f.request.requester, f.withdrawn)) =
        some (5, 4, .leg ⟨job12, .fwd⟩, false)
      ∧ again.monitor.state = .retrying ∧ probing.monitor.state ≠ .retrying ∧ probing.monitor.flight.map (·.request.requester) = some .probe
      ∧ JobInv (scanning verifying) ∧ (scanning verifying).ctx? job12 = some (transitJob .bringupFwd verifying)
      ∧ (transitJob .bringupFwd verifying).leg? .fwd = some (.line verifying) ∧ verifying.step.map (·.stage) = some .verify
      ∧ verifying.spacing = none ∧ verifying.level ≠ .off ∧ verifying.ingress = .line .d1
      ∧ ((darkOne (scanning verifying)).watch .d1).dark = .dark ∧ ((scanning verifying).watch .d1).dark = .lit
      ∧ (based .recheck).step.map (fun x => (x.kind, x.stage)) = some (.recheck, .baseline)
      ∧ (based .up).step.map (fun x => (x.kind, x.stage)) = some (.up, .baseline)
      ∧ (scanning (based .up)).ctx? job12 = some (transitJob .bringupFwd (based .up))
      ∧ (stepping .up .settle 452 (.num 452)).step.map (·.stage) = some .settle := by
  unfold JobInv JobTable; decide +kernel

theorem witness_ScanTimeoutReissuesThenFaults :
    let s (q : Requester) (again : Bool) : State :=
      { node22 with monitor := ⟨[], some ⟨⟨q, .d2, .incoming, 0, 384⟩, 40, 0, again, false⟩, 255, .ok, none⟩ }
    node22.monitor.flight = none ∧ (s .probe false).monitor.flight.map (·.request.requester) = some .probe
      ∧ (s (.watch .d2) false).monitor.flight.map (fun f => (f.reissue, f.request.requester)) = some (false, .watch .d2)
      ∧ (s (.watch .d2) true).monitor.flight.map (fun f => (f.reissue, f.timer)) = some (true, 0)
      ∧ (scanning verifying).monitor.flight.map (·.timer) = some 300 := by decide

/-- Steps of the UP class in a job before FAILING, in one FAILING, at a dark ingress and in monitor FAULT; a back-off; a down-step. -/
theorem witness_CompletionRecordsTheLevel :
    let up := stepping .up .actuate 152 (.num 452)
    let down := stepping .down .actuate 152 .off
    let s (phase : Phase) := commanded (transitJob phase up) .up (.num 452)
    let t := commanded (transitJob .teardown down) .down .off
    (node22.act .d2).flight = none ∧ ((s .bringupFwd).act .d2).flight.map (fun f => (f.issue, f.leg)) = some (3, ⟨job12, .fwd⟩)
      ∧ Applied.num 452 ≠ .neither ∧ JobInv (s .bringupFwd) ∧ (s .bringupFwd).ctx? job12 = some (transitJob .bringupFwd up)
      ∧ (transitJob .bringupFwd up).leg? .fwd = some (.line up) ∧ up.step.map (·.cls) = some .up
      ∧ ((s .bringupFwd).watch .d1).dark = .lit ∧ (s .bringupFwd).monitor.state ≠ .fault
      ∧ (transitJob .failing up).phase = .failing ∧ ((darkOne (s .bringupFwd)).watch .d1).dark = .dark
      ∧ ({ s .bringupFwd with monitor := (faultyMonitor none none).monitor } : State).monitor.state = .fault
      ∧ (stepping .backoff .actuate 152 (.num (-1048))).step.map (fun x => (x.cls, x.kind)) = some (.up, .backoff)
      ∧ JobInv t ∧ t.ctx? job12 = some (transitJob .teardown down) ∧ down.step.map (·.cls) = some .down ∧ (t.arb .d2).wait = [] := by
  unfold JobInv JobTable; decide +kernel
theorem witness_ActuatorTimeoutAbandonsTheLegs_holder :
    let c := transitJob .bringupFwd (stepping .up .actuate 152 (.num 452))
    let s := { commanded c .up (.num 452) with map := transitMap (.lit job12) }
    (node22.act .d2).flight = none ∧ (s.act .d2).flight.map (·.timer) = some 0 ∧ JobInv s
      ∧ (s.arb .d2).token = some ⟨⟨job12, .fwd⟩, .up⟩ ∧ s.ctx? job12 = some c ∧ BeforeLive c
      ∧ c.leg? .fwd = some (.line (stepping .up .actuate 152 (.num 452))) ∧ (∀ x, x ∈ c.lineLegs → x.1 ≠ .fwd → x.2.egress ≠ .d2)
      ∧ s.entry .d2 .outgoing 120 = some (.lit job12) ∧ s.entry .d2 .outgoing 123 = some (.lit job12)
      ∧ ({ (s.act .d2) with flight := (s.act .d2).flight.map (fun f => { f with timer := 1 }) } : Actuator).flight.map (·.timer) ≠ some 0 := by
  unfold JobInv JobTable BeforeLive; decide +kernel

/-- Three jobs on degree 2: the holder with its command in flight, a TEARDOWN job in the DOWN class, a leg in the headroom-wait list. -/
def jammed : State := mapped
  { withJobs [numbered 1 (stepping .up .actuate 152 (.num 452)),
      { transitJob .teardown { topLeg (.line .d1) .d2 with state := .rampingDown } with id := ⟨7, 2⟩, first := 16 },
      numbered 3 { queuedLeg with state := .headroomWait, headroom := some 9 }] with
    arbiters := node22.arbiters.set .d2 { Arbiter.initial with token := some ⟨refOf 1, .up⟩, down := [refOf 2], wait := [⟨refOf 3, .step⟩] }
    actuators := node22.actuators.set .d2 ⟨false, some ⟨refOf 1, 8, 4, .num 452, 3, 0⟩, 4⟩ }

theorem witness_ActuatorTimeoutAbandonsTheLegs :
    Sound jammed ∧ Agreed jammed ∧ (jammed.act .d2).flight.map (·.timer) = some 0 ∧ (jammed.arb .d2).down = [refOf 2]
      ∧ (jammed.ctx? ⟨7, 2⟩).map (·.phase) = some .teardown ∧ (jammed.ctx? ⟨7, 1⟩).isSome = true ∧ (jammed.arb .d2).wait = [⟨refOf 3, .step⟩]
      ∧ jammed.entry .d2 .outgoing 16 = some (.live ⟨7, 2⟩) ∧ jammed.entry .d2 .outgoing 19 = some (.live ⟨7, 2⟩) :=
  ⟨sound_by (by decide +kernel), agreed_by (by decide +kernel), by decide +kernel, by decide +kernel, by decide +kernel, by decide +kernel,
    by decide +kernel, by decide +kernel, by decide +kernel⟩

/-! ### Records and layouts -/

theorem witness_CountsLogAndHistoryAreKept_log :
    let r (n : Nat) : ResultRecord := plainRecord (tailJob .live) .closed (BitVec.ofNat 32 n)
    ((List.range 33).map r)[32]? = some (r 32) ∧ ((List.range 33).map r).length ≤ 32 + 32
      ∧ ¬ ((List.range 33).map r).length ≤ 0 + 32 ∧ ((List.range 31).map r).length ≤ 31
      ∧ (stepping .up .verify 452 (.num 452)).step.isSome = true ∧ (stepping .up .verify 452 (.num 452)).history.length ≤ 8 := by
  decide +kernel
theorem witness_HeaderCodeCorrectsOneBit : (0 : Nat) < 30 ∧ (29 : Nat) < 30 ∧ (0 : Nat) ≠ 29 := by decide
theorem witness_MessagesDecodeToTheirCommands :
    let m : Message := .reserve ⟨⟨65535, 65535⟩, 255, 383, 16, -2000, 1, route12⟩
    (messageCommand .d2 .clean m).wf = true ∧ CauseFits m ∧ (messageCommand .d2 .clean (.refuse job12 .conflict 22)).wf = true
      ∧ CauseFits (.refuse job12 .conflict 22) := by
  refine ⟨by decide +kernel, trivial, by decide +kernel, by unfold CauseFits; decide⟩

end Sys2Proof.Tests
end

section
/-! PROOFS. The combination of powers and its folds (R10, R11). -/

namespace Sys2Proof.Machine

/-! ### The term of R10 -/

theorem combineTerm_eq_zero {k : Nat} (hk : 25 ≤ k) : combineTerm k = 0 :=
  List.getD_eq_default _ _ hk

theorem combineTerm_mem_Icc (k : Nat) : 0 ≤ combineTerm k ∧ combineTerm k ≤ 301 := by
  have listed : ∀ k < 25, 0 ≤ combineTerm k ∧ combineTerm k ≤ 301 := by decide
  rcases Nat.lt_or_ge k 25 with hk | hk
  · exact listed k hk
  · simp [combineTerm_eq_zero hk]

/-! ### The combination of two levels (R10) -/

theorem combine_comm (a b : Int) : combine a b = combine b a := by
  have same_distance : (a - b).natAbs = (b - a).natAbs := by omega
  rw [combine, combine, max_comm, same_distance]

theorem max_le_combine (a b : Int) : max a b ≤ combine a b :=
  le_add_of_nonneg_right (combineTerm_mem_Icc _).1

theorem combine_le_max_add (a b : Int) : combine a b ≤ max a b + 301 :=
  Int.add_le_add_left (combineTerm_mem_Icc _).2 _

theorem combine_eq_max {a b : Int} (far : 1225 ≤ (a - b).natAbs) : combine a b = max a b := by
  have past_table : 25 ≤ ((a - b).natAbs + 25) / 50 := by omega
  rw [combine, combineTerm_eq_zero past_table, add_zero]

/-! ### Folds (R11) -/

theorem foldLevels_singleton (a : Int) : foldLevels [a] = a := rfl

theorem foldLevels_concat {xs : List Int} (y : Int) (hxs : xs ≠ []) :
    foldLevels (xs ++ [y]) = min (combine (foldLevels xs) y) Config.foldMax := by
  cases xs with
  | nil => exact absurd rfl hxs
  | cons x xs => simp [foldLevels, List.foldl_append]

/-- A fold within the saturation does not fall at a further element, nor below that element when it is within the saturation too. -/
theorem max_le_foldLevels_concat {xs : List Int} {y : Int} (hxs : xs ≠ []) (fold_le : foldLevels xs ≤ Config.foldMax)
    (hy : y ≤ Config.foldMax) : max (foldLevels xs) y ≤ foldLevels (xs ++ [y]) := by
  rw [foldLevels_concat y hxs]
  exact le_min (max_le_combine _ _) (max_le fold_le hy)

/-- R11's bound, along the list order: what is folded so far is the induction's list, the next element stands behind it. -/
theorem foldLevels_bounds (xs : List Int) (hxs : xs ≠ []) (within : ∀ x ∈ xs, x ≤ Config.foldMax) :
    foldLevels xs ≤ Config.foldMax ∧ ∀ x ∈ xs, x ≤ foldLevels xs := by
  induction xs using List.reverseRecOn with
  | nil => exact absurd rfl hxs
  | append_singleton xs y ih =>
    have hy : y ≤ Config.foldMax := within y (by simp)
    by_cases first : xs = []
    · subst first
      simpa [foldLevels_singleton] using hy
    · obtain ⟨fold_le, le_fold⟩ := ih first fun x hx => within x (List.mem_append_left _ hx)
      obtain ⟨keeps, takes⟩ := max_le_iff.mp (max_le_foldLevels_concat first fold_le hy)
      refine ⟨foldLevels_concat y first ▸ min_le_right _ _, fun x hx => ?_⟩
      rcases List.mem_append.mp hx with earlier | last
      · exact (le_fold x earlier).trans keeps
      · exact List.mem_singleton.mp last ▸ takes

/-- Settles O45: the term of R10 lies in 0 to 301 and is 0 past its table, and R11's fold is bounded by induction along its list. -/
theorem combinationFoldsInOrder : Obligations.CombinationFoldsInOrder :=
  ⟨fun a b => ⟨rfl, combine_comm a b, max_le_combine a b, combine_le_max_add a b, combine_eq_max⟩,
    foldLevels_singleton, fun _ y hxs => foldLevels_concat y hxs, foldLevels_bounds⟩

end Sys2Proof.Machine
end

section
/-! PROOFS. The spectrum map. Each change of the map read back entry by entry; what each command does to an entry (R19, R22), said once
for every command; and END_RESTORE (R36, R178). -/

namespace Sys2Proof.Machine

/-! ### The changes of the map, read back -/

theorem onRange_getElem? {α : Type} (f : α → α) (first count : Nat) (l : List α) (k : Nat) :
    (onRange f first count l)[k]? = if first ≤ k ∧ k < first + count then l[k]?.map f else l[k]? := by
  induction l generalizing first count k with
  | nil => simp [onRange]
  | cons x xs ih =>
    cases first with
    | succ first => cases k <;> simp [onRange, ih, Nat.succ_add]
    | zero =>
      cases count with
      | zero => simp [onRange]
      | succ count => cases k <;> simp [onRange, ih]

theorem SpectrumMap.table_setTable (m : SpectrumMap) (d e : Degree) (dir dir' : MapDir) (l : List SliceEntry) :
    (m.setTable d dir l).table e dir' = if (e, dir') = (d, dir) then l else m.table e dir' := by
  cases dir <;> cases dir' <;> simp [SpectrumMap.setTable, SpectrumMap.table, PerDegree.get_set]

theorem SpectrumMap.change_getElem? (f : SliceEntry → SliceEntry) (first count : Nat) (m : SpectrumMap) (run : Degree × MapDir)
    (d : Degree) (dir : MapDir) (k : Nat) :
    ((m.change f first count run).table d dir)[k]? =
      if (d, dir) = run ∧ first ≤ k ∧ k < first + count then ((m.table d dir)[k]?).map f else (m.table d dir)[k]? := by
  rw [SpectrumMap.change, SpectrumMap.table_setTable]
  by_cases named : (d, dir) = run
  · subst named; simp [onRange_getElem?]
  · simp [named]

@[simp] theorem SpectrumMap.table_mapAll (f : SliceEntry → SliceEntry) (m : SpectrumMap) (d : Degree) (dir : MapDir) :
    (m.mapAll f).table d dir = (m.table d dir).map f := by
  cases dir <;> cases d <;> rfl

/-! ### Maps whose entries follow a relation -/

/-- Every entry of the first map is still there in the second, as the relation allows. -/
def SpectrumMap.Follows (R : SliceEntry → SliceEntry → Prop) (m m' : SpectrumMap) : Prop :=
  ∀ d dir (k : Nat) e, (m.table d dir)[k]? = some e → ∃ e', (m'.table d dir)[k]? = some e' ∧ R e e'

section
variable {R Q : SliceEntry → SliceEntry → Prop} {m m' m'' : SpectrumMap} {f : SliceEntry → SliceEntry}

theorem SpectrumMap.Follows.refl (stays : ∀ e, R e e) (m : SpectrumMap) : m.Follows R m := fun _ _ _ e he => ⟨e, he, stays e⟩

theorem SpectrumMap.Follows.trans (compose : ∀ {a b c}, R a b → R b c → R a c) (h : m.Follows R m') (g : m'.Follows R m'') :
    m.Follows R m'' := by
  intro d dir k e he
  obtain ⟨e', he', step⟩ := h d dir k e he
  obtain ⟨e'', he'', step'⟩ := g d dir k e' he'
  exact ⟨e'', he'', compose step step'⟩

theorem SpectrumMap.Follows.imp (weaker : ∀ e e', R e e' → Q e e') (h : m.Follows R m') : m.Follows Q m' := by
  intro d dir k e he
  obtain ⟨e', he', step⟩ := h d dir k e he
  exact ⟨e', he', weaker e e' step⟩

theorem SpectrumMap.change_follows (stays : ∀ e, R e e) (changes : ∀ e, R e (f e)) (first count : Nat) (m : SpectrumMap)
    (run : Degree × MapDir) : m.Follows R (m.change f first count run) := by
  intro d dir k e he
  rw [SpectrumMap.change_getElem?, he]
  split
  · exact ⟨f e, rfl, changes e⟩
  · exact ⟨e, rfl, stays e⟩

theorem SpectrumMap.changeRuns_follows (stays : ∀ e, R e e) (compose : ∀ {a b c}, R a b → R b c → R a c)
    (changes : ∀ e, R e (f e)) (first count : Nat) (runs : List (Degree × MapDir)) (m : SpectrumMap) :
    m.Follows R (m.changeRuns f first count runs) := by
  induction runs generalizing m with
  | nil => exact .refl stays m
  | cons run runs ih => exact (SpectrumMap.change_follows stays changes first count m run).trans compose (ih _)

/-- Under a change that does nothing the second time, runs that overlap change an entry as one run does. -/
theorem SpectrumMap.changeRuns_follows_of_idempotent (stays : ∀ e, R e e) (changes : ∀ e, R e (f e)) (once : ∀ e, f (f e) = f e)
    (first count : Nat) (runs : List (Degree × MapDir)) (m : SpectrumMap) : m.Follows R (m.changeRuns f first count runs) := by
  refine SpectrumMap.Follows.imp (R := fun e e' => e' = e ∨ e' = f e) ?_
    (SpectrumMap.changeRuns_follows (fun _ => .inl rfl) ?_ (fun _ => .inr rfl) first count runs m)
  · rintro e e' (rfl | rfl)
    exacts [stays _, changes _]
  · rintro a b c (rfl | rfl) (rfl | rfl)
    exacts [.inl rfl, .inr rfl, .inr rfl, .inr (once _)]

theorem SpectrumMap.mapAll_follows (changes : ∀ e, R e (f e)) (m : SpectrumMap) : m.Follows R (m.mapAll f) := by
  intro d dir k e he
  exact ⟨f e, by simp [he], changes e⟩

end

/-! ### What the changes by request and by RESERVE do to an entry (R23, R26, R32, R33, R35, R36) -/

theorem SliceEntry.Moves.refl (e : SliceEntry) : e.Moves e := .inl (.refl e)

theorem SliceEntry.take_moves (id : JobId) (e : SliceEntry) : e.Moves (e.take id) := by cases e <;> simp [Moves, Keeps, take]

theorem SliceEntry.takeBooked_moves (id : JobId) (e : SliceEntry) : e.Moves (e.takeBooked id) := by
  cases e <;> simp [Moves, Keeps, takeBooked]

theorem SliceEntry.block_moves (e : SliceEntry) : e.Moves e.block := by cases e <;> simp [Moves, Keeps, block]

theorem SliceEntry.unblock_moves (e : SliceEntry) : e.Moves e.unblock := by cases e <;> simp [Moves, Keeps, unblock]

theorem SliceEntry.restore_moves (id : JobId) (e : SliceEntry) : e.Moves (e.restore id) := by cases e <;> simp [Moves, Keeps, restore]

theorem SliceEntry.endRestore_moves (e : SliceEntry) : e.Moves e.endRestore := by cases e <;> simp [Moves, Keeps, endRestore]

theorem SliceEntry.take_take (id : JobId) (e : SliceEntry) : (e.take id).take id = e.take id := by cases e <;> rfl

theorem SliceEntry.takeBooked_takeBooked (id : JobId) (e : SliceEntry) : (e.takeBooked id).takeBooked id = e.takeBooked id := by
  cases e <;> rfl

theorem SliceEntry.restore_restore (id : JobId) (e : SliceEntry) : (e.restore id).restore id = e.restore id := by cases e <;> rfl

theorem SliceEntry.endRestore_eq_ite (e : SliceEntry) : e.endRestore = if e = .unknown then .free else e := by cases e <;> rfl

/-- No row of the table of 2.2 leads to UNKNOWN (R36). -/
theorem SliceEntry.Moves.eq_unknown {e : SliceEntry} (h : e.Moves .unknown) : e = .unknown := by
  cases e <;> simp [Moves, Keeps] at h ⊢

/-! ### Acts that only keep entries -/

/-- Between the two states every entry went as the acts of a job may take it. -/
abbrev MapKeeps (s t : State) : Prop := s.map.Follows SliceEntry.Keeps t.map

/-- Between the two states every entry went as one command may take it. -/
abbrev MapMoves (s t : State) : Prop := s.map.Follows SliceEntry.Moves t.map

variable {s t u : State}

theorem MapKeeps.of_eq (h : t.map = s.map) : MapKeeps s t := by
  rw [MapKeeps, h]
  exact .refl .refl s.map

theorem MapKeeps.moves (h : MapKeeps s t) : MapMoves s t := h.imp fun _ _ => .inl

theorem MapMoves.of_eq (h : t.map = s.map) : MapMoves s t := (MapKeeps.of_eq h).moves

theorem Edit.mapKeeps {g : Nat} (h : Edit g s t) : MapKeeps s t := by
  cases h with
  | entries f first count runs _ keeps => exact SpectrumMap.changeRuns_follows .refl .trans keeps first count runs s.map
  | _ => exact .of_eq rfl

theorem Edits.mapKeeps {g : Nat} (h : Edits g s t) : MapKeeps s t := by
  induction h with
  | refl => exact .of_eq rfl
  | tail _ e ih => exact ih.trans .trans e.mapKeeps

theorem MapKeeps.edits (h : MapKeeps s t) (e : Edits 2 t u) : MapKeeps s u := h.trans .trans e.mapKeeps

/-! ### Requests that take no entry -/

theorem answered_mapKeeps {p : Port} {tag : Byte} {r : Reply} : MapKeeps s (reply p tag r s) := .of_eq rfl

theorem doSetNode_mapKeeps (p : Port) (tag : Byte) (f : NodeFields) (s : State) : MapKeeps s (doSetNode p tag f s) := by
  unfold doSetNode
  split <;> exact .of_eq rfl

theorem MapKeeps.arbiterChanged {d : Degree} {before after : DegreeParams} (h : MapKeeps s t) :
    MapKeeps s (arbiterChanged d before after t) := by
  have reheld : MapKeeps s (if before.holdAll = after.holdAll then t else modArb d (Arbiter.rehold after.holdAll) t) := by
    split <;> exact h
  unfold Machine.arbiterChanged
  simp only []
  split
  · exact reheld
  · exact reheld.edits Edits.none.requeue

theorem MapKeeps.enabledChanged {d : Degree} {before after : Bool} (h : MapKeeps s t) :
    MapKeeps s (enabledChanged d before after t) := by
  unfold Machine.enabledChanged
  split
  · exact h
  · split
    · exact h
    · have disabled : MapKeeps s (modLink d Link.disable t) := h
      unfold disableLink
      simp only []
      split
      · exact disabled.edits Edits.none.linkDown
      · exact disabled

theorem takeSetDegree_mapKeeps (p : Port) (tag : Byte) (d : Degree) (f : DegreeFields) (s : State) :
    MapKeeps s (takeSetDegree p tag d f s) := by
  have stored {items : List Item} {x : DegreeParams} : MapKeeps s (replyDone p tag items (storeDegree d x s)) := .of_eq rfl
  unfold takeSetDegree
  exact .edits (.enabledChanged (.arbiterChanged stored)) Edits.none.settleDegree

theorem doSetDegree_mapKeeps (p : Port) (tag : Byte) (n : Int) (f : DegreeFields) (s : State) :
    MapKeeps s (doSetDegree p tag n f s) := by
  unfold doSetDegree
  split
  · split
    · exact answered_mapKeeps
    · split
      · exact answered_mapKeeps
      · exact takeSetDegree_mapKeeps p tag _ f s
  · exact answered_mapKeeps

theorem doAbort_mapKeeps (p : Port) (tag : Byte) (j : JobId) (s : State) : MapKeeps s (doAbort p tag j s) := by
  unfold doAbort
  split
  · exact answered_mapKeeps
  · split
    · unfold abortOwned
      split
      · exact answered_mapKeeps
      · split
        · exact answered_mapKeeps.edits Edits.none.failLocally.settleAct
        · exact answered_mapKeeps
    · exact answered_mapKeeps

theorem doClose_mapKeeps (p : Port) (tag : Byte) (j : JobId) (s : State) : MapKeeps s (doClose p tag j s) := by
  unfold doClose
  split
  · exact answered_mapKeeps
  · split
    · split
      · exact answered_mapKeeps.edits Edits.none.closeLive.settleAct
      · exact answered_mapKeeps
    · exact answered_mapKeeps

theorem doAdopt_mapKeeps (p : Port) (tag : Byte) (j : JobId) (s : State) : MapKeeps s (doAdopt p tag j s) := by
  unfold doAdopt
  split
  · exact answered_mapKeeps
  · split
    · exact answered_mapKeeps
    · split
      · exact answered_mapKeeps
      · split
        · exact answered_mapKeeps
        · exact answered_mapKeeps.edits (Edits.queryLock (.ctx .none))

theorem doLockReport_mapKeeps (p : Port) (tag : Byte) (j : JobId) (r : Int) (s : State) :
    MapKeeps s (doLockReport p tag j r s) := by
  unfold doLockReport
  split
  · split
    · exact answered_mapKeeps
    · split
      · split
        · exact answered_mapKeeps.edits Edits.none.takeLockReport
        · exact answered_mapKeeps
      · exact answered_mapKeeps
  · exact answered_mapKeeps

theorem doQueryJob_mapKeeps (p : Port) (tag : Byte) (j : Option JobId) (s : State) : MapKeeps s (doQueryJob p tag j s) := by
  unfold doQueryJob
  split
  · exact answered_mapKeeps
  · split <;> exact answered_mapKeeps

theorem doQueryMap_mapKeeps (p : Port) (tag : Byte) (r : RangeFields) (s : State) : MapKeeps s (doQueryMap p tag r s) := by
  unfold doQueryMap
  split <;> exact answered_mapKeeps

theorem doQueryDegree_mapKeeps (p : Port) (tag : Byte) (d : Int) (s : State) : MapKeeps s (doQueryDegree p tag d s) := by
  unfold doQueryDegree
  split <;> exact answered_mapKeeps

theorem doClearFault_mapKeeps (p : Port) (tag : Byte) (d : Int) (s : State) : MapKeeps s (doClearFault p tag d s) := by
  unfold doClearFault
  split
  · exact answered_mapKeeps
  · split
    · exact answered_mapKeeps.edits (Edits.settleDegree (.announce (.act .none)))
    · exact answered_mapKeeps

theorem doClearFaultMonitor_mapKeeps (p : Port) (tag : Byte) (s : State) : MapKeeps s (doClearFaultMonitor p tag s) := by
  unfold doClearFaultMonitor
  split
  · exact answered_mapKeeps.edits Edits.none.issueProbe
  · exact answered_mapKeeps

theorem doReadLog_mapKeeps (p : Port) (tag : Byte) (a n : Int) (s : State) : MapKeeps s (doReadLog p tag a n s) := by
  unfold doReadLog
  split <;> exact answered_mapKeeps

theorem doReadCounts_mapKeeps (p : Port) (tag : Byte) (c : Int) (s : State) : MapKeeps s (doReadCounts p tag c s) := by
  unfold doReadCounts
  simp only []
  split_ifs <;> exact .of_eq rfl

/-! ### Requests that take, block, free or restore entries -/

theorem changeFor_mapMoves (c : Context) (runs : List (Degree × MapDir)) {f : SliceEntry → SliceEntry} (s : State)
    (changes : ∀ e, SliceEntry.Moves e (f e)) (once : ∀ e, f (f e) = f e) : MapMoves s (changeFor c runs f s) :=
  SpectrumMap.changeRuns_follows_of_idempotent .refl changes once c.first c.count runs s.map

theorem takeOpen_map (f : OpenFields) (c : Context) (s : State) :
    (takeOpen f c s).map = (changeFor c c.entrySet (SliceEntry.take c.id) s).map := by
  unfold takeOpen sendOn
  split <;> rfl

theorem doOpen_mapMoves (p : Port) (tag : Byte) (f : OpenFields) (s : State) : MapMoves s (doOpen p tag f s) := by
  unfold doOpen
  split
  · exact answered_mapKeeps.moves
  · rw [MapMoves, takeOpen_map]
    exact changeFor_mapMoves _ _ _ (SliceEntry.take_moves _) (SliceEntry.take_take _)

theorem changeByRequest_mapMoves (p : Port) (tag : Byte) (r : RangeFields) {f : SliceEntry → SliceEntry} (s : State)
    (changes : ∀ e, SliceEntry.Moves e (f e)) : MapMoves s (changeByRequest p tag r f s) := by
  unfold changeByRequest
  split
  · exact answered_mapKeeps.moves
  · exact SpectrumMap.change_follows .refl changes _ _ s.map _

theorem doRestoreLive_mapMoves (p : Port) (tag : Byte) (f : RestoreFields) (s : State) : MapMoves s (doRestoreLive p tag f s) := by
  unfold doRestoreLive
  split
  · split
    · exact answered_mapKeeps.moves
    · exact changeFor_mapMoves _ _ s (SliceEntry.restore_moves _) (SliceEntry.restore_restore _)
  · exact answered_mapKeeps.moves

theorem doEndRestore_mapMoves (p : Port) (tag : Byte) (s : State) : MapMoves s (doEndRestore p tag s) := by
  unfold doEndRestore
  split
  · exact answered_mapKeeps.moves
  · exact SpectrumMap.mapAll_follows SliceEntry.endRestore_moves s.map

theorem runRequest_mapMoves (p : Port) (tag : Byte) (r : Request) (s : State) : MapMoves s (runRequest p tag r s) := by
  cases r with
  | nop => exact answered_mapKeeps.moves
  | queryNode => exact answered_mapKeeps.moves
  | setNode f => exact (doSetNode_mapKeeps p tag f s).moves
  | setDegree d f => exact (doSetDegree_mapKeeps p tag d f s).moves
  | openJob f => exact doOpen_mapMoves p tag f s
  | abortJob j => exact (doAbort_mapKeeps p tag j s).moves
  | closeJob j => exact (doClose_mapKeeps p tag j s).moves
  | adoptJob j => exact (doAdopt_mapKeeps p tag j s).moves
  | lockReport j r => exact (doLockReport_mapKeeps p tag j r s).moves
  | queryJob j => exact (doQueryJob_mapKeeps p tag j s).moves
  | queryMap r => exact (doQueryMap_mapKeeps p tag r s).moves
  | block r => exact changeByRequest_mapMoves p tag r s SliceEntry.block_moves
  | unblock r => exact changeByRequest_mapMoves p tag r s SliceEntry.unblock_moves
  | queryDegree d => exact (doQueryDegree_mapKeeps p tag d s).moves
  | clearFault d => exact (doClearFault_mapKeeps p tag d s).moves
  | clearFaultMonitor => exact (doClearFaultMonitor_mapKeeps p tag s).moves
  | readLog a n => exact (doReadLog_mapKeeps p tag a n s).moves
  | readCounts c => exact (doReadCounts_mapKeeps p tag c s).moves
  | restoreLive f => exact doRestoreLive_mapMoves p tag f s
  | endRestore => exact doEndRestore_mapMoves p tag s

/-! ### Frames -/

theorem takeRequest_mapMoves (p : Port) {act : State → State} (acts : ∀ s, MapMoves s (act s)) (s : State) :
    MapMoves s (takeRequest p act s) := by
  unfold takeRequest
  split
  · exact acts (raisePort p s)
  · exact .of_eq rfl

theorem goodFrame_mapMoves (p : Port) (tag kind : Byte) (body : List Byte) (s : State) :
    MapMoves s (goodFrame p tag kind body s) := by
  refine takeRequest_mapMoves p (fun s => ?_) s
  unfold doFrame
  split
  · exact runRequest_mapMoves p tag _ s
  · exact answered_mapKeeps.moves

theorem byteReceived_mapMoves (p : Port) (b : Byte) (s : State) : MapMoves s (byteReceived p b s) := by
  unfold byteReceived
  split
  · split <;> exact .of_eq rfl
  · unfold partialByte
    split
    · exact .of_eq rfl
    · split
      · exact .of_eq rfl
      · split
        · exact goodFrame_mapMoves p _ _ _ s
        · exact .of_eq rfl

/-! ### Supervisory links and path messages -/

theorem onEnabled_mapMoves (d : Degree) {act : State → State} (acts : ∀ s, MapMoves s (act s)) (s : State) :
    MapMoves s (onEnabled d act s) := by
  unfold onEnabled
  split
  · exact acts s
  · exact .of_eq rfl

theorem withHeader_mapMoves (d : Degree) (h : Header) {act : State → State} (acts : ∀ s, MapMoves s (act s)) (s : State) :
    MapMoves s (withHeader d h act s) :=
  onEnabled_mapMoves d (fun s => acts (modLink d (Link.noteHeader h) s)) s

theorem receivePath_mapMoves (d : Degree) (h : Header) {act : State → State} (acts : ∀ s, MapMoves s (act s)) (s : State) :
    MapMoves s (receivePath d h act s) := by
  refine withHeader_mapMoves d h (fun s => ?_) s
  split
  · exact acts (restartTimeout d s)
  · exact .of_eq rfl

theorem takeHello_mapKeeps (d : Degree) (node degree : Nat) (flags : ErrorFlags) (s : State) :
    MapKeeps s (takeHello d node degree flags s) := by
  unfold takeHello
  split
  · split
    · split
      · exact .of_eq rfl
      · have lost : MapKeeps s (linkDown d s) := (Edits.none (g := 2)).linkDown.mapKeeps
        have renewed : MapKeeps s (linkUp d node degree flags (linkDown d s)) := lost
        exact renewed.edits Edits.none.settleAct
    · exact .of_eq rfl
  · exact .of_eq rfl

theorem takeReserve_mapMoves (d : Degree) (f : ReserveFields) (place : Place) (hop : RawHop) (s : State) :
    MapMoves s (takeReserve d f place hop s) := by
  cases place with
  | tail u => exact changeFor_mapMoves _ _ s (SliceEntry.takeBooked_moves _) (SliceEntry.takeBooked_takeBooked _)
  | transit u e => exact changeFor_mapMoves _ _ s (SliceEntry.take_moves _) (SliceEntry.take_take _)
  | head e => exact .of_eq rfl

theorem reserveAt_mapMoves (d : Degree) (f : ReserveFields) (s : State) : MapMoves s (reserveAt d f s) := by
  unfold reserveAt
  simp only []
  split
  · exact .of_eq rfl
  · split
    · exact .of_eq rfl
    · split
      · exact .of_eq rfl
      · split
        · exact .of_eq rfl
        · split
          · exact .of_eq rfl
          · exact takeReserve_mapMoves d f _ _ s

/-! ### Every command (R22) -/

/-- What one command other than RESET does to the map: each entry moves by the table of 2.2 or stays. -/
theorem exec_mapMoves {c : Instr} (notReset : c ≠ .reset) (h : exec c s = .next t) : MapMoves s t := by
  have edited {u : State} (e : Edits 2 s u) : MapMoves s u := e.mapKeeps.moves
  have request (p : Port) (tag : Byte) (r : Request) : MapMoves s (takeRequest p (runRequest p tag r) s) :=
    takeRequest_mapMoves p (runRequest_mapMoves p tag r) s
  have path (d : Degree) (hd : Header) {act : State → State} (acts : ∀ u, Edits 2 u (act u)) : MapMoves s (receivePath d hd act s) :=
    receivePath_mapMoves d hd (fun u => (acts u).mapKeeps.moves) s
  cases c <;> obtain rfl := Host.Outcome.next.inj h
  case reset => exact absurd rfl notReset
  case nop p tag => exact request p tag .nop
  case queryNode p tag => exact request p tag .queryNode
  case setNode p tag f => exact request p tag (.setNode f)
  case setDegree p tag d f => exact request p tag (.setDegree d f)
  case openJob p tag f => exact request p tag (.openJob f)
  case abortJob p tag j => exact request p tag (.abortJob j)
  case closeJob p tag j => exact request p tag (.closeJob j)
  case adoptJob p tag j => exact request p tag (.adoptJob j)
  case lockReport p tag j r => exact request p tag (.lockReport j r)
  case queryJob p tag j => exact request p tag (.queryJob j)
  case queryMap p tag r => exact request p tag (.queryMap r)
  case block p tag r => exact request p tag (.block r)
  case unblock p tag r => exact request p tag (.unblock r)
  case queryDegree p tag d => exact request p tag (.queryDegree d)
  case clearFault p tag d => exact request p tag (.clearFault d)
  case clearFaultMonitor p tag => exact request p tag .clearFaultMonitor
  case readLog p tag a n => exact request p tag (.readLog a n)
  case readCounts p tag n => exact request p tag (.readCounts n)
  case restoreLive p tag f => exact request p tag (.restoreLive f)
  case endRestore p tag => exact request p tag .endRestore
  case badRequest p tag kind body => exact goodFrame_mapMoves p tag kind body s
  case requestOverrun p tag kind body => exact goodFrame_mapMoves p tag kind body s
  case byteReceived p b => exact byteReceived_mapMoves p b s
  case frameCrcBad p => exact .of_eq rfl
  case frameGapExpiry p => unfold frameGapExpiry; split <;> exact .of_eq rfl
  case portSilenceExpiry p => unfold portSilenceExpiry; split <;> exact .of_eq rfl
  case transmitFrameDone p => exact .of_eq rfl
  case helloTimerExpiry d => unfold helloTimerExpiry; split <;> exact .of_eq rfl
  case framerSendRequest d => unfold framerSendRequest; split <;> exact .of_eq rfl
  case headerUncorrectable d => exact onEnabled_mapMoves d (fun u => .of_eq (modLink_map d Link.noteUncorrectable u)) s
  case unknownKind d hd => exact withHeader_mapMoves d hd (fun u => .of_eq (modLink_map d Link.noteUnknownKind u)) s
  case bodyBad d hd => exact withHeader_mapMoves d hd (fun u => .of_eq (modLink_map d Link.noteBodyBad u)) s
  case hello d hd n k f => exact withHeader_mapMoves d hd (fun u => (takeHello_mapKeeps d n k f u).moves) s
  case linkTimeoutExpiry d =>
    unfold linkTimeoutExpiry
    split
    · exact edited Edits.none.linkDown.settleAct
    · exact .of_eq rfl
  case reserve d hd f => exact receivePath_mapMoves d hd (reserveAt_mapMoves d f) s
  case reserveOk d hd j => exact path d hd fun _ => Edits.none.takeReserveOk
  case refuse d hd j cause n => exact path d hd fun _ => Edits.none.takeRefuse
  case release d hd j => exact path d hd fun _ => Edits.none.releaseAt
  case rampTurn d hd j dir => exact path d hd fun _ => Edits.none.takeRampTurn
  case pathUp d hd j => exact path d hd fun _ => Edits.none.onCtx fun _ e => e.acceptPathUp
  case fail d hd j cause v o => exact path d hd fun _ => Edits.none.takeFail
  case drop d hd j => exact path d hd fun _ => Edits.none.onCtx fun _ e => e.takeDrop
  case downTurn d hd j => exact path d hd fun _ => Edits.none.onCtx fun _ e => e.takeDownTurn
  case holdTimerExpiry j => exact edited (Edits.none.onCtx fun _ e => e.holdExpiry)
  case pathTimerExpiry j => exact edited (Edits.none.onCtx fun _ e => e.pathExpiry)
  case lockTimerExpiry j => exact edited (Edits.none.onCtx fun _ e => e.lockExpiry)
  case teardownTimerExpiry j => exact edited (Edits.none.onCtx fun _ e => e.teardownExpiry)
  case settleTimerExpiry j dir => exact edited (Edits.none.onLeg fun _ e => e.settleExpiry)
  case scanSpacingExpiry j dir => exact edited (Edits.none.onLeg fun _ e => e.spacingExpiry)
  case retryTimerExpiry j dir => exact edited (Edits.none.onLeg fun _ e => e.retryExpiry)
  case darkTimerExpiry j dir => exact edited (Edits.none.onLeg fun _ e => e.darkExpiry)
  case headroomTimerExpiry j dir => exact edited (Edits.none.onLeg fun _ e => e.headroomExpiry)
  case scanResult n x => exact edited Edits.none.scanResult
  case scanTimeout => exact edited Edits.none.scanTimeout
  case probeTimerExpiry => exact edited Edits.none.probeTimerExpiry
  case watchIntervalExpiry d => exact edited Edits.none.watchIntervalExpiry
  case actuatorCompletion d n x => exact edited Edits.none.actuatorCompletion
  case actuatorTimeout d => exact edited Edits.none.actuatorTimeout

/-- No command but RESET makes an entry UNKNOWN again (R36). -/
theorem exec_entry_ne_unknown {c : Instr} (notReset : c ≠ .reset) (h : exec c s = .next t) {d : Degree} {dir : MapDir} {k : Nat}
    {e : SliceEntry} (he : s.entry d dir k = some e) (known : e ≠ .unknown) : t.entry d dir k ≠ some .unknown := by
  obtain ⟨e', he', moves⟩ := exec_mapMoves notReset h d dir k e he
  intro again
  obtain rfl : e' = .unknown := Option.some.inj (he'.symm.trans again)
  exact known moves.eq_unknown

/-! ### END_RESTORE (R36, R178) -/

theorem takeRequest_of_hasRoom {p : Port} (room : HasRoom p s) (act : State → State) : takeRequest p act s = act (raisePort p s) :=
  if_pos room

theorem reply_raisePort (p : Port) (tag : Byte) (r : Reply) (s : State) : reply p tag r (raisePort p s) = Answered p tag r s := by
  simp [reply, raisePort, modPort, Answered, State.withPort, State.port, SlotLink.raise]

theorem exec_endRestore_running {p : Port} (tag : Byte) (room : HasRoom p s) (running : s.running = true) :
    exec (.endRestore p tag) s = .next (Answered p tag (.refused .wrongPhase) s) := by
  have refused : doEndRestore p tag (raisePort p s) = reply p tag (.refused .wrongPhase) (raisePort p s) := if_pos running
  calc exec (.endRestore p tag) s
      = .next (takeRequest p (doEndRestore p tag) s) := rfl
    _ = .next (Answered p tag (.refused .wrongPhase) s) := by rw [takeRequest_of_hasRoom room, refused, reply_raisePort]

theorem exec_endRestore_starting {p : Port} (tag : Byte) (room : HasRoom p s) (starting : s.running = false) :
    exec (.endRestore p tag) s = .next { Answered p tag (.done [⟨1, s.jobs.length⟩]) s with
      map := s.map.mapAll SliceEntry.endRestore, running := true } := by
  have started : doEndRestore p tag (raisePort p s) = { reply p tag (.done [⟨1, s.jobs.length⟩]) (raisePort p s) with
      map := s.map.mapAll SliceEntry.endRestore, running := true } := if_neg (by simp [starting])
  calc exec (.endRestore p tag) s
      = .next (takeRequest p (doEndRestore p tag) s) := rfl
    _ = _ := by rw [takeRequest_of_hasRoom room, started, reply_raisePort]

/-- Settles O29: the act of R36 over every table, and the table of 2.2, no row of which leads back to UNKNOWN. -/
theorem endRestoreStartsTheNode : Obligations.EndRestoreStartsTheNode := by
  refine ⟨fun p tag s room => ⟨exec_endRestore_running tag room, fun starting =>
    ⟨s.map.mapAll SliceEntry.endRestore, fun d dir => ?_, exec_endRestore_starting tag room starting⟩⟩,
    fun c s t notReset h d dir k e => exec_entry_ne_unknown notReset h⟩
  rw [SpectrumMap.table_mapAll, funext SliceEntry.endRestore_eq_ite]

end Sys2Proof.Machine
end

section
/-! PROOFS. The job requests: ADOPT (R55). -/

namespace Sys2Proof.Machine

variable {s : State} {p q : Port} {id : JobId} {c : Context}

/-! ### The checks of ADOPT in their order (R55) -/

theorem doAdopt_of_not_found (tag : Byte) (missing : s.ctx? id = none) :
    doAdopt p tag id s = reply p tag (.refused .notFound) s := by
  simp only [doAdopt, missing, replyRefused]

theorem doAdopt_of_unowned (tag : Byte) (found : s.ctx? id = some c) (unowned : c.owner = none) :
    doAdopt p tag id s = reply p tag (.refused .notOwner) s := by
  simp only [doAdopt, found, unowned, replyRefused]

theorem doAdopt_of_owned (tag : Byte) (found : s.ctx? id = some c) (owned : c.owner = some p) :
    doAdopt p tag id s = reply p tag (.done []) s := by
  simp only [doAdopt, found, owned, replyDone, if_true]

theorem doAdopt_of_owner_up (tag : Byte) (found : s.ctx? id = some c) (owned : c.owner = some q) (other : q ≠ p)
    (up : (s.port q).up = true) : doAdopt p tag id s = reply p tag (.refused .ownerAlive) s := by
  simp only [doAdopt, found, owned, other, up, replyRefused, if_true, if_false]

theorem doAdopt_of_owner_down (tag : Byte) (found : s.ctx? id = some c) (owned : c.owner = some q) (other : q ≠ p)
    (down : (s.port q).up = false) : doAdopt p tag id s = takeOwner p c (reply p tag (.done []) s) := by
  simp only [doAdopt, found, owned, other, down, replyDone, if_false, Bool.false_eq_true]

/-! ### The change of owner (R55 check 5) -/

/-- LOCK_QUERY goes out in the two phases that await lock, and in no other. -/
theorem queryLock_of_owned (owned : c.owner = some p) (s : State) :
    queryLock c s = if c.phase = .awaitLockFwd then notify p (.lockQuery c.id .fwd) s
      else if c.phase = .awaitLockRev then notify p (.lockQuery c.id .rev) s else s := by
  unfold queryLock
  split
  next fwd => rw [if_pos fwd, owned]; rfl
  next rev => rw [if_neg (by simp [rev]), if_pos rev, owned]; rfl
  next notFwd notRev => rw [if_neg notFwd, if_neg notRev]

theorem takeOwner_eq (p : Port) (c : Context) (s : State) :
    let owned : State := { s with jobs := setJob c.id (fun b => { b with owner := some p }) s.jobs }
    takeOwner p c s = if c.phase = .awaitLockFwd then notify p (.lockQuery c.id .fwd) owned
      else if c.phase = .awaitLockRev then notify p (.lockQuery c.id .rev) owned else owned :=
  queryLock_of_owned (c := { c with owner := some p }) rfl _

/-! ### The request -/

theorem exec_adoptJob_of_hasRoom (tag : Byte) (id : JobId) (room : HasRoom p s) :
    exec (.adoptJob p tag id) s = .next (doAdopt p tag id (raisePort p s)) :=
  congrArg _ (takeRequest_of_hasRoom room _)

/-- The frame that brings a request makes no port UP but its own. -/
theorem raisePort_port_ne (other : q ≠ p) (s : State) : (raisePort p s).port q = s.port q :=
  PerPort.get_set_ne _ _ other

/-- Settles O24: the checks of R55 in order, each on the state in which the request's frame has been taken. -/
theorem adoptMovesTheOwner : Obligations.AdoptMovesTheOwner := by
  intro p tag id s room
  rw [exec_adoptJob_of_hasRoom tag id room, ← raisePort_ctx p s id]
  have taken : ∀ r, reply p tag r (raisePort p s) = Answered p tag r s := fun r => reply_raisePort p tag r s
  refine ⟨fun missing => ?notFound, fun c found => ⟨fun unowned => ?notOwner, fun owned => ?own, fun q owned other =>
    ⟨fun up => ?ownerAlive, fun down => ?moved⟩⟩⟩
  case notFound => rw [doAdopt_of_not_found tag missing, taken]
  case notOwner => rw [doAdopt_of_unowned tag found unowned, taken]
  case own => rw [doAdopt_of_owned tag found owned, taken]
  case ownerAlive =>
    rw [← raisePort_port_ne other] at up
    rw [doAdopt_of_owner_up tag found owned other up, taken]
  case moved =>
    rw [← raisePort_port_ne other] at down
    obtain rfl : c.id = id := ctx?_id found
    rw [doAdopt_of_owner_down tag found owned other down, taken, takeOwner_eq]
    rfl

end Sys2Proof.Machine
end

section
/-! PROOFS. The form of a route, the map's reservation check, the link toward the next hop, and the refusals of OPEN that rest on them
(R24, R58, R60, R61). -/

namespace Sys2Proof.Machine

variable {s : State} {p : Port} {f : OpenFields}

/-! ### The form of a request (R1, R5, R58, R185) -/

theorem bitOk_iff (v : Int) : bitOk v = true ↔ v = 0 ∨ v = 1 := by simp [bitOk]

theorem channelRunOk_iff (first count : Int) : channelRunOk first count = true ↔ ChannelRun first count := decide_eq_true_iff

theorem densityOk_iff (v : Int) : densityOk v = true ↔ -2000 ≤ v ∧ v ≤ 500 := decide_eq_true_iff

theorem degree_ofInt_isSome_iff (n : Nat) : (Degree.ofInt n).isSome = true ↔ 1 ≤ n ∧ n ≤ 4 := by
  unfold Degree.ofInt
  split_ifs <;> simp <;> omega

theorem port_ofInt_isSome_iff (n : Nat) : (Port.ofInt n).isSome = true ↔ 1 ≤ n ∧ n ≤ 8 := by
  unfold Port.ofInt
  split_ifs <;> simp <;> omega

theorem hopMidOk_iff (h : RawHop) :
    hopMidOk h = true ↔ (1 ≤ h.node ∧ h.node ≤ 65534) ∧ 1 ≤ h.egress ∧ h.egress ≤ 4 ∧ h.drop = 0 := by
  simp [hopMidOk, nodeIdOk, hopDegree, degree_ofInt_isSome_iff, and_assoc]

theorem hopLastOk_iff (h : RawHop) :
    hopLastOk h = true ↔ (1 ≤ h.node ∧ h.node ≤ 65534) ∧ h.egress = 0 ∧ 1 ≤ h.drop ∧ h.drop ≤ 8 := by
  simp [hopLastOk, nodeIdOk, port_ofInt_isSome_iff, and_assoc]

/-- The walk over a route, hop by hop: the last hop is checked as a last hop, every other as a mid hop. -/
theorem hopsOk_iff {hops : List RawHop} (some_hop : hops ≠ []) :
    hopsOk hops = true ↔ ∀ (i : Nat) h, hops[i]? = some h →
      (i + 1 < hops.length → hopMidOk h = true) ∧ (i + 1 = hops.length → hopLastOk h = true) := by
  induction hops with
  | nil => exact absurd rfl some_hop
  | cons h hs ih =>
    cases hs with
    | nil =>
      simp only [hopsOk]
      constructor
      · rintro last (_ | i) h' at_i <;> simp_all
      · exact fun hops => (hops 0 h rfl).2 rfl
    | cons h' hs =>
      have walk : hopsOk (h :: h' :: hs) = (hopMidOk h && hopsOk (h' :: hs)) := rfl
      rw [walk, Bool.and_eq_true, ih (List.cons_ne_nil _ _)]
      constructor
      · rintro ⟨mid, rest⟩ (_ | i) x at_i
        · simp_all
        · simpa using rest i x at_i
      · intro hops
        exact ⟨(hops 0 h rfl).1 (by simp), fun i x at_i => by simpa using hops (i + 1) x at_i⟩

/-- The form check of R58 hop by hop. -/
theorem routeOk_iff (route : List RawHop) : routeOk route = true ↔ RouteFits route := by
  by_cases some_hop : route = []
  · simp [some_hop, routeOk, RouteFits]
  · have hop_iff : ∀ (i : Nat) (h : RawHop), i < route.length →
        (((i + 1 < route.length → hopMidOk h = true) ∧ (i + 1 = route.length → hopLastOk h = true)) ↔
          1 ≤ h.node ∧ h.node ≤ 65534 ∧ (i + 1 < route.length → 1 ≤ h.egress ∧ h.egress ≤ 4 ∧ h.drop = 0) ∧
            (i + 1 = route.length → h.egress = 0 ∧ 1 ≤ h.drop ∧ h.drop ≤ 8)) := fun i h inside => by
      rw [hopMidOk_iff, hopLastOk_iff]
      omega
    rw [routeOk, Bool.and_eq_true, Bool.and_eq_true, decide_eq_true_iff, decide_eq_true_iff, hopsOk_iff some_hop]
    unfold RouteFits
    rw [and_assoc, and_assoc]
    refine and_congr_right' (and_congr_right' (and_congr_right' (forall₃_congr fun i h at_i => hop_iff i h ?_)))
    exact (List.getElem?_eq_some_iff.mp at_i).1

/-! ### The map's reservation check (R23, R24) -/

section
variable {entries : List SliceEntry}

theorem not_all_free_of_mem {e : SliceEntry} (e_mem : e ∈ entries) (taken : e ≠ .free) :
    ¬ entries.all (· == .free) = true := fun free =>
  taken (by simpa using List.all_eq_true.mp free e e_mem)

theorem reservationCause_of_conflict (named : ∃ e, e ∈ entries ∧ e.job?.isSome = true) :
    reservationCause entries = some .conflict := by
  obtain ⟨e, e_mem, job⟩ := named
  have taken : e ≠ .free := by rintro rfl; cases job
  rw [reservationCause, if_neg (not_all_free_of_mem e_mem taken), if_pos (List.any_eq_true.mpr ⟨e, e_mem, job⟩)]

theorem reservationCause_of_blocked (unnamed : ∀ e, e ∈ entries → e.job? = none)
    (blocked : ∃ e, e ∈ entries ∧ e.isBlocked = true) : reservationCause entries = some .blocked := by
  have no_job : ¬ entries.any (fun e => e.job?.isSome) = true := by simpa using unnamed
  obtain ⟨e, e_mem, e_blocked⟩ := blocked
  have taken : e ≠ .free := by rintro rfl; cases e_blocked
  rw [reservationCause, if_neg (not_all_free_of_mem e_mem taken), if_neg no_job, if_pos (List.any_eq_true.mpr ⟨e, e_mem, e_blocked⟩)]

theorem reservationCause_of_unknown (clear : ∀ e, e ∈ entries → e.job? = none ∧ e.isBlocked = false)
    (unknown : .unknown ∈ entries) : reservationCause entries = some .nodeStarting := by
  have no_job : ¬ entries.any (fun e => e.job?.isSome) = true := by simpa using fun e e_mem => (clear e e_mem).1
  have no_block : ¬ entries.any SliceEntry.isBlocked = true := by simpa using fun e e_mem => (clear e e_mem).2
  rw [reservationCause, if_neg (not_all_free_of_mem unknown nofun), if_neg no_job, if_neg no_block]

end

/-! ### The link toward the next hop (R61 checks 4 and 5) -/

section
variable {d : Degree} {n : Nat}

theorem linkCause_of_down (down : (s.link d).up = false) : linkCause d n s = some .linkDown :=
  if_neg (by simp [down])

theorem linkCause_of_other_node (up : (s.link d).up = true) (other : ∀ k, (s.link d).neighbour ≠ some (n, k)) :
    linkCause d n s = some .badRoute := by
  rw [linkCause, if_pos up, if_neg]
  simpa [Option.any_eq_true] using other

theorem linkCause_of_neighbour {k : Nat} (up : (s.link d).up = true) (next : (s.link d).neighbour = some (n, k)) :
    linkCause d n s = none := by
  simp [linkCause, up, next]

end

/-! ### The checks of hop 0 in their order (R61 checks 1 to 7) -/

theorem levelsOk_head (d : Degree) (bidir : Bool) (t : Int) (params : PerDegree DegreeParams) :
    levelsOk (.head d) bidir t params = true ↔ (params.get d).levelFloor ≤ t := by
  simp [levelsOk, lineEgress]

section
variable {h0 h1 : RawHop} {hops : List RawHop} {d : Degree}

theorem openPlace_of_starting (two : 2 ≤ f.route.length) (starting : s.running = false) : openPlace f s = .error .nodeStarting := by
  match route : f.route, two with
  | h0 :: h1 :: hops, _ => simp [openPlace, route, starting]

variable (route : f.route = h0 :: h1 :: hops) (running : s.running = true)
include route running

theorem openPlace_of_other_node (other : h0.node ≠ s.node.nodeId) : openPlace f s = .error .badRoute := by
  simp [openPlace, route, running, other]

variable (own : h0.node = s.node.nodeId) (named : Degree.ofInt h0.egress = some d)
include own named

theorem openPlace_of_disabled (disabled : (s.deg d).enabled = false) : openPlace f s = .error .badRoute := by
  simp [openPlace, route, running, own, hopDegree, named, disabled]

theorem openPlace_of_down (enabled : (s.deg d).enabled = true) (down : (s.link d).up = false) :
    openPlace f s = .error .linkDown := by
  simp [openPlace, route, running, own, hopDegree, named, enabled, linkCause_of_down down]

theorem openPlace_of_other_neighbour (hears : Hears d s) (other : ∀ k, (s.link d).neighbour ≠ some (h1.node, k)) :
    openPlace f s = .error .badRoute := by
  simp [openPlace, route, running, own, hopDegree, named, hears.1, linkCause_of_other_node hears.2 other]

variable {k : Nat} (hears : Hears d s) (next : (s.link d).neighbour = some (h1.node, k))
include hears next

theorem openPlace_of_full (full : 64 ≤ s.jobs.length) : openPlace f s = .error .noContext := by
  simp [openPlace, route, running, own, hopDegree, named, hears.1, linkCause_of_neighbour hears.2 next, Config.maxContexts, full]

variable (free : s.jobs.length < 64)
include free

theorem openPlace_of_low_level (low : f.density + widthTerm f.count.toNat < (s.deg d).levelFloor) :
    openPlace f s = .error .badLevel := by
  have level : levelsOk (.head d) (f.bidir == 1) (targetLevel f.density f.count.toNat) s.degrees = false :=
    Bool.eq_false_iff.mpr (mt (levelsOk_head ..).mp (Int.not_le.mpr low))
  simp [openPlace, route, running, own, hopDegree, named, hears.1, linkCause_of_neighbour hears.2 next, Config.maxContexts,
    Nat.not_le.mpr free, level]

theorem openPlace_of_level (high : (s.deg d).levelFloor ≤ f.density + widthTerm f.count.toNat) : openPlace f s = .ok d := by
  have level : levelsOk (.head d) (f.bidir == 1) (targetLevel f.density f.count.toNat) s.degrees = true :=
    (levelsOk_head ..).mpr high
  simp [openPlace, route, running, own, hopDegree, named, hears.1, linkCause_of_neighbour hears.2 next, Config.maxContexts,
    Nat.not_le.mpr free, level]

end

/-! ### The checks of OPEN in their order (R60, R61) -/

/-- The entry set at a head (R20): the run leaving on the egress degree, and for a bidirectional job the one coming back. -/
theorem openContext_entrySet (p : Port) (f : OpenFields) (d : Degree) (seq : Nat) (s : State) :
    (openContext p f d seq s).entrySet = (d, .outgoing) :: if f.bidir = 1 then [(d, .incoming)] else [] := by
  by_cases both : f.bidir = 1 <;>
    simp [openContext, newContext, Context.entrySet, Context.legs, forwardLeg, reverseLeg, newLineLeg, Leg.runs, both]

theorem openCheck_of_bad_bit (bit : ¬ (f.bidir = 0 ∨ f.bidir = 1)) : openCheck p f s = .error .badRequest := by
  simp [openCheck, mt (bitOk_iff _).mp bit]

section
variable (bit : f.bidir = 0 ∨ f.bidir = 1)
include bit

theorem openCheck_of_bad_range (bad : ¬ (ChannelRun f.first f.count ∧ -2000 ≤ f.density ∧ f.density ≤ 500)) :
    openCheck p f s = .error .badRange := by
  rw [← channelRunOk_iff, ← densityOk_iff, ← Bool.and_eq_true] at bad
  rw [openCheck, (bitOk_iff _).mpr bit, Bool.eq_false_iff.mpr bad]
  rfl

variable (ranges : ChannelRun f.first f.count ∧ -2000 ≤ f.density ∧ f.density ≤ 500)
include ranges

theorem openCheck_of_bad_route (bad : ¬ RouteFits f.route) : openCheck p f s = .error .badRoute := by
  simp [openCheck, (bitOk_iff _).mpr bit, (channelRunOk_iff _ _).mpr ranges.1, (densityOk_iff _).mpr ranges.2,
    mt (routeOk_iff _).mp bad]

variable (fits : RouteFits f.route)
include fits

theorem openCheck_of_openPlace_error {r : Reason} (refused : openPlace f s = .error r) : openCheck p f s = .error r := by
  simp [openCheck, (bitOk_iff _).mpr bit, (channelRunOk_iff _ _).mpr ranges.1, (densityOk_iff _).mpr ranges.2,
    (routeOk_iff _).mpr fits, refused]

theorem openCheck_of_reservationCause {d : Degree} {cause : Cause} (placed : openPlace f s = .ok d)
    (taken : reservationCause (s.map.readRuns f.first.toNat f.count.toNat
      ((d, .outgoing) :: if f.bidir = 1 then [(d, .incoming)] else [])) = some cause) :
    openCheck p f s = .error (reasonOfCause cause) := by
  have entries (seq : Nat) : entrySetOf s (openContext p f d seq s) = s.map.readRuns f.first.toNat f.count.toNat
      ((d, .outgoing) :: if f.bidir = 1 then [(d, .incoming)] else []) :=
    congrArg (s.map.readRuns f.first.toNat f.count.toNat) (openContext_entrySet p f d seq s)
  simp [openCheck, (bitOk_iff _).mpr bit, (channelRunOk_iff _ _).mpr ranges.1, (densityOk_iff _).mpr ranges.2,
    (routeOk_iff _).mpr fits, placed, entries, taken]

end

/-! ### The request -/

theorem freeSequence_raisePort (p : Port) (s : State) (k v : Nat) : freeSequence (raisePort p s) k v = freeSequence s k v := by
  induction k generalizing v with
  | zero => rfl
  | succ k ih => simp only [freeSequence, raisePort_ctx, raisePort_node, ih]

/-- The frame that brings an OPEN bears on none of its checks. -/
theorem openCheck_raisePort (p q : Port) (f : OpenFields) (s : State) : openCheck q f (raisePort p s) = openCheck q f s := by
  have place : openPlace f (raisePort p s) = openPlace f s := rfl
  have context (d : Degree) (seq : Nat) : openContext q f d seq (raisePort p s) = openContext q f d seq s := rfl
  simp only [openCheck, place, context, entrySetOf, freeSequence_raisePort, raisePort_seqCounter, raisePort_map]

/-- An OPEN refused changes nothing but its port's unit: no entry, no context, no sequence number (R60, R61). -/
theorem exec_openJob_of_error {r : Reason} (tag : Byte) (room : HasRoom p s) (refused : openCheck p f s = .error r) :
    exec (.openJob p tag f) s = .next (Answered p tag (.refused r) s) := by
  have answered : doOpen p tag f (raisePort p s) = reply p tag (.refused r) (raisePort p s) := by
    simp only [doOpen, openCheck_raisePort, refused, replyRefused]
  calc exec (.openJob p tag f) s
      = .next (takeRequest p (doOpen p tag f) s) := rfl
    _ = .next (Answered p tag (.refused r) s) := by rw [takeRequest_of_hasRoom room, answered, reply_raisePort]

/-- Settles O20: the form checks of R60, then the checks of R61 at hop 0, each taken with every earlier one passed. -/
theorem openIsRefusedForItsFirstFault : Obligations.OpenIsRefusedForItsFirstFault := by
  intro p tag f s room
  have refuse {r : Reason} : openCheck p f s = .error r → exec (.openJob p tag f) s = .next (Answered p tag (.refused r) s) :=
    exec_openJob_of_error tag room
  refine ⟨fun bad => refuse (openCheck_of_bad_bit bad), fun bit bad => refuse (openCheck_of_bad_range bit bad),
    fun bit ranges bad => refuse (openCheck_of_bad_route bit ranges bad),
    fun bit ranges fits starting => refuse (openCheck_of_openPlace_error bit ranges fits (openPlace_of_starting fits.1 starting)),
    fun h0 h1 hops bit ranges fits running route => ?_⟩
  have refusePlace {r : Reason} (fails : openPlace f s = .error r) := refuse (openCheck_of_openPlace_error bit ranges fits fails)
  refine ⟨fun other => refusePlace (openPlace_of_other_node route running other), fun d own named =>
    ⟨fun disabled => refusePlace (openPlace_of_disabled route running own named disabled),
      fun enabled down => refusePlace (openPlace_of_down route running own named enabled down),
      fun hears other => refusePlace (openPlace_of_other_neighbour route running own named hears other),
      fun k hears next => ⟨fun full => refusePlace (openPlace_of_full route running own named hears next full),
        fun free low => refusePlace (openPlace_of_low_level route running own named hears next free low),
        fun free high => ?_⟩⟩⟩
  have refuseTake {cause : Cause} := fun taken => refuse (openCheck_of_reservationCause (cause := cause) bit ranges fits
    (openPlace_of_level route running own named hears next free high) taken)
  exact ⟨fun conflict => refuseTake (reservationCause_of_conflict conflict),
    fun unnamed blocked => refuseTake (reservationCause_of_blocked unnamed blocked),
    fun clear unknown => refuseTake (reservationCause_of_unknown clear unknown)⟩

end Sys2Proof.Machine
end

section
/-! PROOFS. The parameter requests: SET_NODE and SET_DEGREE store within their ranges, or answer BUSY and store nothing (R165 to R167). -/

namespace Sys2Proof.Machine

/-! ### One field over its range (R167) -/

section
variable {r : Config.Range}

theorem clampTo_of_lt {v : Int} (below : v < r.lo) : clampTo r v = r.lo := by
  unfold clampTo
  omega

theorem clampTo_of_gt {v : Int} (ordered : r.lo ≤ r.hi) (above : r.hi < v) : clampTo r v = r.hi := by
  unfold clampTo
  omega

theorem clampTo_of_mem {v : Int} (least : r.lo ≤ v) (most : v ≤ r.hi) : clampTo r v = v := by
  unfold clampTo
  omega

theorem stores_storeInt (field : Option Int) (stored : Int) (ordered : r.lo ≤ r.hi := by decide) :
    Stores r.lo r.hi field stored (storeInt r field stored) := by
  cases field with
  | none => exact ⟨fun _ => rfl, nofun⟩
  | some v =>
    refine ⟨nofun, ?_⟩
    rintro _ ⟨⟩
    exact ⟨clampTo_of_lt, clampTo_of_gt ordered, clampTo_of_mem⟩

/-- A parameter that is never negative loses nothing by its type: its range starts at 0 or above. -/
theorem coe_storeNat (field : Option Int) (stored : Nat) (nonneg : 0 ≤ r.lo) :
    (storeNat r field stored : Int) = storeInt r field stored := by
  cases field with
  | none => rfl
  | some v => exact Int.toNat_of_nonneg (nonneg.trans (le_max_left ..))

theorem stores_storeNat (field : Option Int) (stored : Nat) (nonneg : 0 ≤ r.lo := by decide)
    (ordered : r.lo ≤ r.hi := by decide) : Stores r.lo r.hi field stored (storeNat r field stored) := by
  rw [coe_storeNat field stored nonneg]
  exact stores_storeInt field stored ordered

end

variable {s t u : State} {p : Port}

/-! ### SET_NODE (R165) -/

section
variable {f : NodeFields}

theorem nodeIdBusy_iff :
    nodeIdBusy f s = true ↔ s.jobs ≠ [] ∧ (NodeParams.apply f s.node).nodeId ≠ s.node.nodeId := by
  have stands (absent : f.nodeId = none) : (NodeParams.apply f s.node).nodeId = s.node.nodeId := by
    simp only [NodeParams.apply, absent, storeNat]
  cases present : f.nodeId with
  | none => simp [nodeIdBusy, stands present]
  | some v => simp [nodeIdBusy, present, and_comm]

theorem exec_setNode_busy (tag : Byte) (room : HasRoom p s) (busy : nodeIdBusy f s = true) :
    exec (.setNode p tag f) s = .next (Answered p tag (.refused .busy) s) := by
  have refused : doSetNode p tag f (raisePort p s) = reply p tag (.refused .busy) (raisePort p s) := if_pos busy
  calc exec (.setNode p tag f) s
      = .next (takeRequest p (doSetNode p tag f) s) := rfl
    _ = .next (Answered p tag (.refused .busy) s) := by rw [takeRequest_of_hasRoom room, refused, reply_raisePort]

theorem exec_setNode_stores (tag : Byte) (room : HasRoom p s) (free : ¬ nodeIdBusy f s = true) :
    exec (.setNode p tag f) s =
      .next (storeNode (NodeParams.apply f s.node)
        (Answered p tag (.done (itemsFrom 1 (NodeParams.apply f s.node).fields)) s)) := by
  have stored : doSetNode p tag f (raisePort p s) = storeNode (NodeParams.apply f s.node)
      (reply p tag (.done (itemsFrom 1 (NodeParams.apply f s.node).fields)) (raisePort p s)) := if_neg free
  calc exec (.setNode p tag f) s
      = .next (takeRequest p (doSetNode p tag f) s) := rfl
    _ = _ := by rw [takeRequest_of_hasRoom room, stored, reply_raisePort]

end

/-! ### Acts that take no frame from a queue and change no parameter -/

/-- Between the two states frames have only been placed last on the transmit queues, and no parameter has changed. -/
structure OnlyAddsFrames (s t : State) : Prop where
  frames : ∀ p, (s.port p).tx <+: (t.port p).tx
  params : SameParams s t

theorem OnlyAddsFrames.of_eq (ports : t.ports = s.ports) (params : SameParams s t) : OnlyAddsFrames s t :=
  ⟨fun p => by rw [State.port, State.port, ports], params⟩

theorem OnlyAddsFrames.trans (h : OnlyAddsFrames s t) (g : OnlyAddsFrames t u) : OnlyAddsFrames s u where
  frames p := (h.frames p).trans (g.frames p)
  params := by
    obtain ⟨node, degrees, running, time, seq, pending⟩ := h.params
    obtain ⟨node', degrees', running', time', seq', pending'⟩ := g.params
    exact ⟨node'.trans node, degrees'.trans degrees, running'.trans running, time'.trans time, seq'.trans seq,
      pending'.trans pending⟩

/-- The only base changes that reach a transmit queue are notices, and those are placed last (R161, R168). -/
theorem Edit.onlyAddsFrames {g : Nat} (h : Edit g s t) : OnlyAddsFrames s t := by
  refine ⟨fun p => ?_, h.params⟩
  cases h with
  | notice q n =>
    rw [notify, modPort_port]
    split
    next same => exact same ▸ (takeNotice_adds n _).2
    next => exact List.prefix_rfl
  | announce k d code =>
    rw [announce_port]
    exact (takeNotice_adds _ _).2
  | _ => exact List.prefix_rfl

theorem Edits.onlyAddsFrames {g : Nat} (h : Edits g s t) : OnlyAddsFrames s t := by
  induction h with
  | refl => exact .of_eq rfl ⟨rfl, rfl, rfl, rfl, rfl, rfl⟩
  | tail _ e ih => exact ih.trans e.onlyAddsFrames

theorem modArb_onlyAddsFrames (d : Degree) (f : Arbiter → Arbiter) (s : State) : OnlyAddsFrames s (modArb d f s) :=
  .of_eq rfl ⟨rfl, rfl, rfl, rfl, rfl, rfl⟩

theorem modLink_onlyAddsFrames (d : Degree) (f : Link → Link) (s : State) : OnlyAddsFrames s (modLink d f s) :=
  .of_eq rfl ⟨rfl, rfl, rfl, rfl, rfl, rfl⟩

/-! ### SET_DEGREE (R166) -/

theorem arbiterChanged_onlyAddsFrames (d : Degree) (before after : DegreeParams) (s : State) :
    OnlyAddsFrames s (arbiterChanged d before after s) := by
  have reheld : OnlyAddsFrames s (if before.holdAll = after.holdAll then s else modArb d (Arbiter.rehold after.holdAll) s) := by
    split
    next => exact (Edits.none (g := 0)).onlyAddsFrames
    next => exact modArb_onlyAddsFrames ..
  unfold arbiterChanged
  dsimp only
  split
  next => exact reheld
  next => exact reheld.trans (Edits.none (g := 0)).requeue.onlyAddsFrames

theorem disableLink_onlyAddsFrames (d : Degree) (s : State) : OnlyAddsFrames s (disableLink d s) := by
  have disabled := modLink_onlyAddsFrames d Link.disable s
  unfold disableLink
  dsimp only
  split
  next => exact disabled.trans (Edits.none (g := 2)).linkDown.onlyAddsFrames
  next => exact disabled

theorem enabledChanged_onlyAddsFrames (d : Degree) (before after : Bool) (s : State) :
    OnlyAddsFrames s (enabledChanged d before after s) := by
  unfold enabledChanged
  split
  next => exact (Edits.none (g := 0)).onlyAddsFrames
  next =>
    split
    next => exact modLink_onlyAddsFrames ..
    next => exact disableLink_onlyAddsFrames ..

/-- What SET_DEGREE does after it has stored and answered takes back neither. -/
theorem takeSetDegree_onlyAddsFrames (p : Port) (tag : Byte) (d : Degree) (f : DegreeFields) (s : State) :
    OnlyAddsFrames (replyDone p tag (⟨1, d.toNat⟩ :: itemsFrom 2 (DegreeParams.apply f (s.deg d)).fields)
      (storeDegree d (DegreeParams.apply f (s.deg d)) s)) (takeSetDegree p tag d f s) :=
  ((arbiterChanged_onlyAddsFrames ..).trans (enabledChanged_onlyAddsFrames ..)).trans
    (Edits.none (g := 0)).settleDegree.onlyAddsFrames

section
variable {f : DegreeFields} {d : Degree}

theorem degreeCodesOk_iff :
    degreeCodesOk f = true ↔ (∀ x, f.enabled = some x → x = 0 ∨ x = 1) ∧ ∀ x, f.holdPolicy = some x → x = 0 ∨ x = 1 := by
  simp [degreeCodesOk, Option.all_eq_true, bitOk_iff]

theorem disableBusy_iff :
    disableBusy d f s = true ↔ f.enabled = some 0 ∧ (s.deg d).enabled = true ∧ ∃ c, c ∈ s.jobs ∧ c.uses d = true := by
  simp [disableBusy, State.degreeUsed, and_assoc]

variable {v : Int} (tag : Byte) (room : HasRoom p s) (named : Degree.ofInt v = some d) (coded : degreeCodesOk f = true)
include room named coded

theorem exec_setDegree_busy (busy : disableBusy d f s = true) :
    exec (.setDegree p tag v f) s = .next (Answered p tag (.refused .busy) s) := by
  have refused : doSetDegree p tag v f (raisePort p s) = reply p tag (.refused .busy) (raisePort p s) := by
    rw [doSetDegree, if_pos coded, named]
    exact if_pos busy
  calc exec (.setDegree p tag v f) s
      = .next (takeRequest p (doSetDegree p tag v f) s) := rfl
    _ = .next (Answered p tag (.refused .busy) s) := by rw [takeRequest_of_hasRoom room, refused, reply_raisePort]

theorem exec_setDegree_takes (free : ¬ disableBusy d f s = true) :
    exec (.setDegree p tag v f) s = .next (takeSetDegree p tag d f (raisePort p s)) := by
  have taken : doSetDegree p tag v f (raisePort p s) = takeSetDegree p tag d f (raisePort p s) := by
    rw [doSetDegree, if_pos coded, named]
    exact if_neg free
  calc exec (.setDegree p tag v f) s
      = .next (takeRequest p (doSetDegree p tag v f) s) := rfl
    _ = _ := by rw [takeRequest_of_hasRoom room, taken]

end

/-- The state in which SET_DEGREE has stored and answered, and what the rest of the act leaves of it. -/
theorem takeSetDegree_raisePort (p : Port) (tag : Byte) (d : Degree) (f : DegreeFields) (s : State) :
    OnlyAddsFrames (storeDegree d (DegreeParams.apply f (s.deg d))
        (Answered p tag (.done (⟨1, d.toNat⟩ :: itemsFrom 2 (DegreeParams.apply f (s.deg d)).fields)) s))
      (takeSetDegree p tag d f (raisePort p s)) := by
  rw [← reply_raisePort]
  exact takeSetDegree_onlyAddsFrames p tag d f (raisePort p s)

theorem answered_tx (p : Port) (tag : Byte) (r : Reply) (s : State) :
    ((Answered p tag r s).port p).tx = (s.port p).tx ++ [.reply tag r] := by
  simp [Answered, State.withPort, State.port]

/-! ### Both requests -/

/-- Settles O17: each stored field is `storeInt` or `storeNat` over its range, and after the store and the reply the act of SET_DEGREE
adds frames and changes no parameter. -/
theorem numericFieldsAreClamped : Obligations.NumericFieldsAreClamped := by
  refine ⟨fun p tag f s room => ?setNode, fun p tag v d f s room named enabled policy => ?setDegree⟩
  case setNode =>
    refine ⟨NodeParams.apply f s.node, stores_storeNat _ _, stores_storeNat _ _, stores_storeNat _ _, stores_storeNat _ _,
      stores_storeNat _ _, stores_storeNat _ _, stores_storeNat _ _, stores_storeNat _ _, stores_storeNat _ _, ?_⟩
    split
    next busy => exact exec_setNode_busy tag room (nodeIdBusy_iff.mpr busy)
    next free => exact exec_setNode_stores tag room (mt nodeIdBusy_iff.mp free)
  case setDegree =>
    have coded := degreeCodesOk_iff.mpr ⟨enabled, policy⟩
    refine ⟨fun busy => exec_setDegree_busy tag room named coded (disableBusy_iff.mpr busy), fun free => ?_⟩
    obtain ⟨frames, node, degrees, running, time, seq, pending⟩ := takeSetDegree_raisePort p tag d f s
    have placed := answered_tx p tag (.done (⟨1, d.toNat⟩ :: itemsFrom 2 (DegreeParams.apply f (s.deg d)).fields)) s ▸ frames p
    exact ⟨DegreeParams.apply f (s.deg d), _, exec_setDegree_takes tag room named coded (mt disableBusy_iff.mp free), degrees,
      rfl, rfl, stores_storeInt _ _, stores_storeInt _ _, stores_storeInt _ _, stores_storeInt _ _, stores_storeInt _ _,
      stores_storeInt _ _, stores_storeInt _ _, stores_storeInt _ _, stores_storeNat _ _, stores_storeNat _ _,
      stores_storeNat _ _, stores_storeInt _ _, stores_storeInt _ _, stores_storeNat _ _, stores_storeNat _ _,
      stores_storeNat _ _, stores_storeNat _ _, stores_storeNat _ _, stores_storeInt _ _, stores_storeNat _ _,
      stores_storeNat _ _, stores_storeNat _ _, placed, node, running, time, seq, pending⟩

end Sys2Proof.Machine
end

section
/-! PROOFS. The layouts of chapter 12: the CRC as R182 words it, and its place in frames and supervisory messages. -/

namespace Sys2Proof.Machine

/-! ### The register (R182) -/

/-- A shift whose bit shifted out, bit 15, is 1 combines 0x1021. -/
theorem crcShift_eq (r : BitVec 16) : crcShift r = if r.getLsbD 15 then (r <<< 1) ^^^ 0x1021#16 else r <<< 1 := by
  rw [crcShift, BitVec.msb_eq_getLsbD_last]

theorem crcByte_eq_iterate (r : BitVec 16) (b : Byte) : crcByte r b = crcShift^[8] (r ^^^ (b.setWidth 16 <<< 8)) := rfl

theorem crc16_concat (bs : List Byte) (b : Byte) : crc16 (bs ++ [b]) = crcByte (crc16 bs) b :=
  List.foldl_concat crcByte 0xFFFF#16 b bs

/-! ### Bytes, low byte first (R179) -/

@[simp] theorem length_bytesOfNat (k n : Nat) : (bytesOfNat k n).length = k := by
  induction k generalizing n with
  | zero => rfl
  | succ k ih => rw [bytesOfNat, List.length_cons, ih]

/-- The two bytes of a register, low byte first. -/
theorem bytesOfNat_two_toNat (r : BitVec 16) : bytesOfNat 2 r.toNat = [r.setWidth 8, (r >>> 8).setWidth 8] := by
  have low : BitVec.ofNat 8 r.toNat = r.setWidth 8 := rfl
  have high : BitVec.ofNat 8 (r.toNat / 256) = (r >>> 8).setWidth 8 := by
    apply BitVec.eq_of_toNat_eq
    simp [Nat.shiftRight_eq_div_pow]
  rw [bytesOfNat, bytesOfNat, bytesOfNat, low, high]

/-! ### What carries the CRC (R179, R183) -/

/-- A header of four bytes, then a body with its CRC (R183). -/
def CarriesBodyCrc (bytes : List Byte) : Prop :=
  ∃ header body : List Byte, header.length = 4 ∧ bytes = header ++ body ++ crcBytes body

theorem messageBytes_carriesBodyCrc (kind cls : Nat) (body : List Byte) : CarriesBodyCrc (messageBytes kind cls body) :=
  ⟨_, body, by rw [List.length_append, length_bytesOfNat]; rfl, rfl⟩

theorem message_bytes_carriesBodyCrc (m : Message) : CarriesBodyCrc m.bytes := by
  cases m <;> exact messageBytes_carriesBodyCrc ..

/-! ### The CRC -/

/-- Settles O58: a byte's eight written-out shifts are the iterate of R182's shift, and every message is a `messageBytes`. -/
theorem crcIsTheOneDefined : Obligations.CrcIsTheOneDefined := by
  unfold Obligations.CrcIsTheOneDefined
  intro shift
  have shift_eq : crcShift = shift := funext crcShift_eq
  refine ⟨rfl, fun bs b => ?byte, fun bs => bytesOfNat_two_toNat (crc16 bs), ?digits, fun kind tag body => ⟨_, rfl, rfl⟩,
    message_bytes_carriesBodyCrc, fun node degree flags => messageBytes_carriesBodyCrc ..⟩
  case byte => rw [← shift_eq, crc16_concat, crcByte_eq_iterate]
  case digits => decide +kernel

end Sys2Proof.Machine
end

section
/-! PROOFS. What every command keeps. One reading of `exec` for all commands (`CommandActs`); what each act keeps of parameters and
contexts (`Undisturbed`); and from them the soundness of every step, the fixed fields of contexts, the moves of entries, and who may
change what belongs to the node. -/

namespace Sys2Proof.Machine

-- One declaration at a time, as in Laws/Edits.lean: the case splits below share what they generate.
set_option Elab.async false

variable {s t u : State}

/-! ### Acts that change no parameter and put no context in use -/

/-- Every context in use afterwards was in use before, with the same fixed fields (R38). -/
def JobsKeep (s t : State) : Prop := ∀ b, b ∈ t.jobs → ∃ a, a ∈ s.jobs ∧ a.fixed = b.fixed

/-- Between the two states no parameter has changed and no context has been put in use. -/
structure Undisturbed (s t : State) : Prop where
  params : SameParams s t
  jobs   : JobsKeep s t

theorem SameParams.refl (s : State) : SameParams s s := ⟨rfl, rfl, rfl, rfl, rfl, rfl⟩

theorem SameParams.trans (h : SameParams s t) (g : SameParams t u) : SameParams s u := by
  obtain ⟨node, degrees, running, time, seq, pending⟩ := h
  obtain ⟨node', degrees', running', time', seq', pending'⟩ := g
  exact ⟨node'.trans node, degrees'.trans degrees, running'.trans running, time'.trans time, seq'.trans seq, pending'.trans pending⟩

theorem JobsKeep.of_eq (h : t.jobs = s.jobs) : JobsKeep s t := fun b hb => ⟨b, h ▸ hb, rfl⟩

theorem JobsKeep.trans (h : JobsKeep s t) (g : JobsKeep t u) : JobsKeep s u := fun c hc => by
  obtain ⟨b, hb, hbc⟩ := g c hc
  obtain ⟨a, ha, hab⟩ := h b hb
  exact ⟨a, ha, hab.trans hbc⟩

theorem Undisturbed.of_eq (params : SameParams s t) (jobs : t.jobs = s.jobs) : Undisturbed s t := ⟨params, .of_eq jobs⟩

theorem Undisturbed.trans (h : Undisturbed s t) (g : Undisturbed t u) : Undisturbed s u :=
  ⟨h.params.trans g.params, h.jobs.trans g.jobs⟩

theorem Edits.undisturbed {g : Nat} (h : Edits g s t) : Undisturbed s t := ⟨h.params, fun _ hb => h.fixed hb⟩

theorem modPort_undisturbed (p : Port) (f : SlotLink → SlotLink) (s : State) : Undisturbed s (modPort p f s) :=
  .of_eq (.refl s) rfl

theorem modLink_undisturbed (d : Degree) (f : Link → Link) (s : State) : Undisturbed s (modLink d f s) :=
  .of_eq (.refl s) rfl

theorem answered_undisturbed (p : Port) (tag : Byte) (r : Reply) (s : State) : Undisturbed s (reply p tag r s) :=
  modPort_undisturbed ..

/-- An answer, and then the acts of the engines. -/
theorem answered_edits_undisturbed {p : Port} {tag : Byte} {r : Reply} (h : Edits 2 (reply p tag r s) t) : Undisturbed s t :=
  (answered_undisturbed p tag r s).trans h.undisturbed

/-! ### Requests -/

theorem doAbort_undisturbed (p : Port) (tag : Byte) (j : JobId) (s : State) : Undisturbed s (doAbort p tag j s) := by
  unfold doAbort
  split
  · exact answered_undisturbed ..
  · split
    · unfold abortOwned
      split
      · exact answered_undisturbed ..
      · split
        · exact answered_edits_undisturbed Edits.none.failLocally.settleAct
        · exact answered_undisturbed ..
    · exact answered_undisturbed ..

theorem doClose_undisturbed (p : Port) (tag : Byte) (j : JobId) (s : State) : Undisturbed s (doClose p tag j s) := by
  unfold doClose
  split
  · exact answered_undisturbed ..
  · split
    · split
      · exact answered_edits_undisturbed Edits.none.closeLive.settleAct
      · exact answered_undisturbed ..
    · exact answered_undisturbed ..

theorem doAdopt_undisturbed (p : Port) (tag : Byte) (j : JobId) (s : State) : Undisturbed s (doAdopt p tag j s) := by
  unfold doAdopt
  split
  · exact answered_undisturbed ..
  · split
    · exact answered_undisturbed ..
    · split
      · exact answered_undisturbed ..
      · split
        · exact answered_undisturbed ..
        · exact answered_edits_undisturbed (Edits.queryLock (.ctx .none))

theorem doLockReport_undisturbed (p : Port) (tag : Byte) (j : JobId) (r : Int) (s : State) :
    Undisturbed s (doLockReport p tag j r s) := by
  unfold doLockReport
  split
  · split
    · exact answered_undisturbed ..
    · split
      · split
        · exact answered_edits_undisturbed Edits.none.takeLockReport
        · exact answered_undisturbed ..
      · exact answered_undisturbed ..
  · exact answered_undisturbed ..

theorem doQueryJob_undisturbed (p : Port) (tag : Byte) (j : Option JobId) (s : State) : Undisturbed s (doQueryJob p tag j s) := by
  unfold doQueryJob
  split
  · exact answered_undisturbed ..
  · split <;> exact answered_undisturbed ..

theorem doQueryMap_undisturbed (p : Port) (tag : Byte) (r : RangeFields) (s : State) : Undisturbed s (doQueryMap p tag r s) := by
  unfold doQueryMap
  split <;> exact answered_undisturbed ..

theorem changeByRequest_undisturbed (p : Port) (tag : Byte) (r : RangeFields) (f : SliceEntry → SliceEntry) (s : State) :
    Undisturbed s (changeByRequest p tag r f s) := by
  unfold changeByRequest
  split <;> exact .of_eq (.refl s) rfl

theorem doQueryDegree_undisturbed (p : Port) (tag : Byte) (d : Int) (s : State) : Undisturbed s (doQueryDegree p tag d s) := by
  unfold doQueryDegree
  split <;> exact answered_undisturbed ..

theorem doClearFault_undisturbed (p : Port) (tag : Byte) (d : Int) (s : State) : Undisturbed s (doClearFault p tag d s) := by
  unfold doClearFault
  split
  · exact answered_undisturbed ..
  · split
    · exact answered_edits_undisturbed (Edits.settleDegree (.announce (.act .none)))
    · exact answered_undisturbed ..

theorem doClearFaultMonitor_undisturbed (p : Port) (tag : Byte) (s : State) : Undisturbed s (doClearFaultMonitor p tag s) := by
  unfold doClearFaultMonitor
  split
  · exact answered_edits_undisturbed Edits.none.issueProbe
  · exact answered_undisturbed ..

theorem doReadLog_undisturbed (p : Port) (tag : Byte) (a n : Int) (s : State) : Undisturbed s (doReadLog p tag a n s) := by
  unfold doReadLog
  split <;> exact answered_undisturbed ..

theorem doReadCounts_undisturbed (p : Port) (tag : Byte) (c : Int) (s : State) : Undisturbed s (doReadCounts p tag c s) := by
  unfold doReadCounts
  simp only []
  split_ifs <;> exact .of_eq (.refl s) rfl

/-! ### Requests that store parameters -/

theorem doSetNode_jobs (p : Port) (tag : Byte) (f : NodeFields) (s : State) : (doSetNode p tag f s).jobs = s.jobs := by
  unfold doSetNode
  split <;> rfl

theorem doEndRestore_jobs (p : Port) (tag : Byte) (s : State) : (doEndRestore p tag s).jobs = s.jobs := by
  unfold doEndRestore
  split <;> rfl

theorem requeue_jobsKeep (d : Degree) (s : State) : JobsKeep s (requeue d s) := (Edits.none (g := 0)).requeue.undisturbed.jobs

theorem arbiterChanged_jobsKeep (d : Degree) (before after : DegreeParams) (s : State) :
    JobsKeep s (arbiterChanged d before after s) := by
  have reheld : JobsKeep s (if before.holdAll = after.holdAll then s else modArb d (Arbiter.rehold after.holdAll) s) := by
    split <;> exact .of_eq rfl
  unfold arbiterChanged
  simp only []
  split
  · exact reheld
  · exact reheld.trans (requeue_jobsKeep d _)

theorem enabledChanged_jobsKeep (d : Degree) (before after : Bool) (s : State) : JobsKeep s (enabledChanged d before after s) := by
  unfold enabledChanged
  split
  · exact .of_eq rfl
  · split
    · exact .of_eq rfl
    · unfold disableLink
      simp only []
      split
      · exact JobsKeep.trans (.of_eq rfl) (Edits.none (g := 2)).linkDown.undisturbed.jobs
      · exact .of_eq rfl

theorem doSetDegree_jobsKeep (p : Port) (tag : Byte) (v : Int) (f : DegreeFields) (s : State) :
    JobsKeep s (doSetDegree p tag v f s) := by
  unfold doSetDegree
  split
  · split
    · exact .of_eq rfl
    · split
      · exact .of_eq rfl
      · unfold takeSetDegree
        refine JobsKeep.trans (JobsKeep.trans (JobsKeep.trans (t := replyDone p tag _ _) (.of_eq ?_) (arbiterChanged_jobsKeep _ _ _ _))
          (enabledChanged_jobsKeep _ _ _ _)) (Edits.none (g := 0)).settleDegree.undisturbed.jobs
        rfl
  · exact .of_eq rfl

/-! ### What belongs to the node, request by request (R39, R165, R166, R178) -/

/-- What a request that makes `r` may change of what belongs to the node. -/
structure NodeKept (r : Request) (s t : State) : Prop where
  pending : t.pending = s.pending
  time    : t.time = s.time
  running : r = .endRestore ∨ t.running = s.running
  seq     : (∃ f, r = .openJob f) ∨ t.seqCounter = s.seqCounter
  node    : (∃ f, r = .setNode f) ∨ t.node = s.node
  degrees : (∃ d f, r = .setDegree d f) ∨ t.degrees = s.degrees

theorem SameParams.nodeKept {r : Request} (h : SameParams s t) : NodeKept r s t := by
  obtain ⟨node, degrees, running, time, seq, pending⟩ := h
  exact ⟨pending, time, .inr running, .inr seq, .inr node, .inr degrees⟩

theorem doSetNode_nodeKept (p : Port) (tag : Byte) (f : NodeFields) (s : State) :
    NodeKept (.setNode f) s (doSetNode p tag f s) := by
  unfold doSetNode
  split <;> exact ⟨rfl, rfl, .inr rfl, .inr rfl, .inl ⟨f, rfl⟩, .inr rfl⟩

theorem doSetDegree_nodeKept (p : Port) (tag : Byte) (v : Int) (f : DegreeFields) (s : State) :
    NodeKept (.setDegree v f) s (doSetDegree p tag v f s) := by
  unfold doSetDegree
  split
  · split
    · exact (answered_undisturbed ..).params.nodeKept
    · split
      · exact (answered_undisturbed ..).params.nodeKept
      · next d _ _ =>
        obtain ⟨node, -, running, time, seq, pending⟩ := (takeSetDegree_onlyAddsFrames p tag d f s).params
        exact ⟨pending, time, .inr running, .inr seq, .inr node, .inl ⟨v, f, rfl⟩⟩
  · exact (answered_undisturbed ..).params.nodeKept

theorem doOpen_nodeKept (p : Port) (tag : Byte) (f : OpenFields) (s : State) : NodeKept (.openJob f) s (doOpen p tag f s) := by
  unfold doOpen
  split
  · exact (answered_undisturbed ..).params.nodeKept
  · next c _ =>
    unfold takeOpen
    obtain ⟨node, degrees, running, time, -, pending⟩ :=
      (Edits.none (g := 1) (s := _)).sendOn (d := c.place.down?) (m := openReserve f c.id) |>.params
    exact ⟨pending, time, .inr running, .inl ⟨f, rfl⟩, .inr node, .inr degrees⟩

theorem doRestoreLive_nodeKept (p : Port) (tag : Byte) (f : RestoreFields) (s : State) :
    NodeKept (.restoreLive f) s (doRestoreLive p tag f s) := by
  unfold doRestoreLive
  split
  · split
    · exact (answered_undisturbed ..).params.nodeKept
    · exact SameParams.nodeKept (.refl s)
  · exact (answered_undisturbed ..).params.nodeKept

theorem doEndRestore_nodeKept (p : Port) (tag : Byte) (s : State) : NodeKept .endRestore s (doEndRestore p tag s) := by
  unfold doEndRestore
  split <;> exact ⟨rfl, rfl, .inl rfl, .inr rfl, .inr rfl, .inr rfl⟩

theorem runRequest_nodeKept (p : Port) (tag : Byte) (r : Request) (s : State) : NodeKept r s (runRequest p tag r s) := by
  cases r with
  | nop => exact (answered_undisturbed ..).params.nodeKept
  | queryNode => exact (answered_undisturbed ..).params.nodeKept
  | setNode f => exact doSetNode_nodeKept p tag f s
  | setDegree d f => exact doSetDegree_nodeKept p tag d f s
  | openJob f => exact doOpen_nodeKept p tag f s
  | abortJob j => exact (doAbort_undisturbed p tag j s).params.nodeKept
  | closeJob j => exact (doClose_undisturbed p tag j s).params.nodeKept
  | adoptJob j => exact (doAdopt_undisturbed p tag j s).params.nodeKept
  | lockReport j r => exact (doLockReport_undisturbed p tag j r s).params.nodeKept
  | queryJob j => exact (doQueryJob_undisturbed p tag j s).params.nodeKept
  | queryMap r => exact (doQueryMap_undisturbed p tag r s).params.nodeKept
  | block r => exact (changeByRequest_undisturbed p tag r _ s).params.nodeKept
  | unblock r => exact (changeByRequest_undisturbed p tag r _ s).params.nodeKept
  | queryDegree d => exact (doQueryDegree_undisturbed p tag d s).params.nodeKept
  | clearFault d => exact (doClearFault_undisturbed p tag d s).params.nodeKept
  | clearFaultMonitor => exact (doClearFaultMonitor_undisturbed p tag s).params.nodeKept
  | readLog a n => exact (doReadLog_undisturbed p tag a n s).params.nodeKept
  | readCounts c => exact (doReadCounts_undisturbed p tag c s).params.nodeKept
  | restoreLive f => exact doRestoreLive_nodeKept p tag f s
  | endRestore => exact doEndRestore_nodeKept p tag s

/-! ### Contexts put in use carry a fresh job id (R39, R63, R176) -/

/-- Every context in use afterwards was in use before with the same fixed fields, or carries a job id that none carried. -/
def JobsFixed (s t : State) : Prop :=
  ∀ b, b ∈ t.jobs → (∃ a, a ∈ s.jobs ∧ a.fixed = b.fixed) ∨ ∀ a, a ∈ s.jobs → a.id ≠ b.id

theorem JobsKeep.fixed (h : JobsKeep s t) : JobsFixed s t := fun b hb => .inl (h b hb)

theorem mem_insertCtx {b c : Context} {jobs : List Context} : b ∈ insertCtx c jobs ↔ b = c ∨ b ∈ jobs := by
  induction jobs with
  | nil => simp [insertCtx]
  | cons a as ih =>
    unfold insertCtx
    split
    · simp
    · simp [ih, or_left_comm]

theorem ctx?_eq_none_iff {id : JobId} : s.ctx? id = none ↔ ∀ c, c ∈ s.jobs → c.id ≠ id := by
  simp [State.ctx?, List.find?_eq_none]

/-- One context put in use under a free job id. -/
theorem jobsFixed_of_insert {c : Context} (jobs : t.jobs = insertCtx c s.jobs) (free : s.ctx? c.id = none) : JobsFixed s t := by
  intro b hb
  rw [jobs, mem_insertCtx] at hb
  rcases hb with rfl | hb
  · exact .inr (ctx?_eq_none_iff.mp free)
  · exact .inl ⟨b, hb, rfl⟩

theorem sendOn_jobs (d : Option Degree) (m : Message) (s : State) : (sendOn d m s).jobs = s.jobs := by cases d <;> rfl

theorem doOpen_jobsFixed (p : Port) (tag : Byte) (f : OpenFields) (s : State) : JobsFixed s (doOpen p tag f s) := by
  unfold doOpen
  split
  · exact (answered_undisturbed ..).jobs.fixed
  · next c hc =>
    obtain ⟨d, placed, rfl⟩ := openCheck_ok hc
    exact jobsFixed_of_insert (sendOn_jobs ..) (freeSequence_free (s := s) (Nat.le_of_lt (openPlace_ok placed)) s.seqCounter)

/-- A RESTORE_LIVE that is taken finds no context with its job id (R176). -/
theorem restoreCheck_ok {f : RestoreFields} {c : Context} (h : restoreCheck f s = .ok c) : s.ctx? c.id = none := by
  unfold restoreCheck at h
  split at h
  · cases h
  · split at h
    · cases h
    · split at h
      · cases h
      · split_ifs at h with _ _ used _
        obtain rfl := Except.ok.inj h
        simpa [restoreContext, newContext] using used

theorem doRestoreLive_jobsFixed (p : Port) (tag : Byte) (f : RestoreFields) (s : State) : JobsFixed s (doRestoreLive p tag f s) := by
  unfold doRestoreLive
  split
  · split
    · exact (answered_undisturbed ..).jobs.fixed
    · next c hc => exact jobsFixed_of_insert rfl (restoreCheck_ok hc)
  · exact (answered_undisturbed ..).jobs.fixed

theorem runRequest_jobsFixed (p : Port) (tag : Byte) (r : Request) (s : State) : JobsFixed s (runRequest p tag r s) := by
  cases r with
  | nop => exact (answered_undisturbed ..).jobs.fixed
  | queryNode => exact (answered_undisturbed ..).jobs.fixed
  | setNode f => exact (JobsKeep.of_eq (doSetNode_jobs p tag f s)).fixed
  | setDegree d f => exact (doSetDegree_jobsKeep p tag d f s).fixed
  | openJob f => exact doOpen_jobsFixed p tag f s
  | abortJob j => exact (doAbort_undisturbed p tag j s).jobs.fixed
  | closeJob j => exact (doClose_undisturbed p tag j s).jobs.fixed
  | adoptJob j => exact (doAdopt_undisturbed p tag j s).jobs.fixed
  | lockReport j r => exact (doLockReport_undisturbed p tag j r s).jobs.fixed
  | queryJob j => exact (doQueryJob_undisturbed p tag j s).jobs.fixed
  | queryMap r => exact (doQueryMap_undisturbed p tag r s).jobs.fixed
  | block r => exact (changeByRequest_undisturbed p tag r _ s).jobs.fixed
  | unblock r => exact (changeByRequest_undisturbed p tag r _ s).jobs.fixed
  | queryDegree d => exact (doQueryDegree_undisturbed p tag d s).jobs.fixed
  | clearFault d => exact (doClearFault_undisturbed p tag d s).jobs.fixed
  | clearFaultMonitor => exact (doClearFaultMonitor_undisturbed p tag s).jobs.fixed
  | readLog a n => exact (doReadLog_undisturbed p tag a n s).jobs.fixed
  | readCounts c => exact (doReadCounts_undisturbed p tag c s).jobs.fixed
  | restoreLive f => exact doRestoreLive_jobsFixed p tag f s
  | endRestore => exact (JobsKeep.of_eq (doEndRestore_jobs p tag s)).fixed

theorem takeReserve_jobsFixed {d : Degree} {f : ReserveFields} {place : Place} {hop : RawHop}
    (passes : reserveCause f place hop s = none) : JobsFixed s (takeReserve d f place hop s) := by
  obtain ⟨-, free⟩ := reserveCause_none passes
  unfold takeReserve
  simp only []
  split
  · exact jobsFixed_of_insert (sendOn_jobs (some d) _ _) free
  · next e => exact jobsFixed_of_insert (sendOn_jobs (some e) _ _) free
  · exact (JobsKeep.of_eq rfl).fixed

theorem takeReserve_params (d : Degree) (f : ReserveFields) (place : Place) (hop : RawHop) (s : State) :
    SameParams s (takeReserve d f place hop s) := by
  unfold takeReserve
  simp only []
  split <;> exact .refl s

theorem reserveAt_keeps (d : Degree) (f : ReserveFields) (s : State) :
    SameParams s (reserveAt d f s) ∧ JobsFixed s (reserveAt d f s) := by
  have refused (c : Cause) : SameParams s (send d (.refuse f.job c s.node.nodeId) s)
      ∧ JobsFixed s (send d (.refuse f.job c s.node.nodeId) s) := ⟨.refl s, (JobsKeep.of_eq rfl).fixed⟩
  unfold reserveAt
  simp only []
  split
  · exact refused _
  · split
    · exact refused _
    · split
      · exact refused _
      · split
        · exact refused _
        · split
          · exact refused _
          · next passes => exact ⟨takeReserve_params .., takeReserve_jobsFixed passes⟩

/-! ### The frame a byte completes (R158, R162) -/

/-- A complete good frame is the layout of what it carries. -/
theorem completeFrame_good {bytes : List Byte} {f : RawFrame} (complete : completeFrame bytes = some f) (good : f.good = true) :
    marker :: bytes = frameBytes f.kind f.tag f.body := by
  unfold completeFrame at complete
  split at complete
  · next len kind tag rest =>
    split at complete
    · next full =>
      obtain rfl := Option.some.inj complete
      have body : (rest.take len.toNat).length = len.toNat := by rw [List.length_take]; omega
      have crc := eq_of_beq good
      simp only [frameBytes, body, BitVec.ofNat_toNat, BitVec.setWidth_eq, List.cons_append, ← crc, List.take_append_drop]
    · cases complete
  · cases complete

/-! ### Every command -/

/-- How a command that is not RESET reaches the state after it: it is taken as a request; its frame makes none and is refused; it is a
RESERVE; or it is an act that changes no parameter and puts no context in use. -/
inductive Reaches (c : Instr) (s : State) : State → Prop
  | request (p : Port) (tag : Byte) (r : Request) (carried : Carries c s r) : Reaches c s (takeRequest p (runRequest p tag r) s)
  | noRequest (p : Port) (tag : Byte) : Reaches c s (takeRequest p (replyRefused p tag .badRequest) s)
  | reserve (d : Degree) (h : Header) (f : ReserveFields) : Reaches c s (receivePath d h (reserveAt d f) s)
  | act {t : State} (changes : Changes s t) (undisturbed : Undisturbed s t) : Reaches c s t

section
variable {c : Instr}

theorem Reaches.edits (h : Edits 2 s t) : Reaches c s t := .act h.changes h.undisturbed

theorem Reaches.same (h : t = s) : Reaches c s t := h ▸ .edits .none

theorem Reaches.port {p : Port} {f : SlotLink → SlotLink} (h : (s.port p).Sound → (f (s.port p)).Sound) :
    Reaches c s (modPort p f s) := .act (.port h) (modPort_undisturbed ..)

/-- A frame that makes its request, or none. -/
theorem Reaches.frame {p : Port} {tag kind : Byte} {body : List Byte}
    (carried : ∀ r, decodeRequest kind body = some r → Carries c s r) : Reaches c s (goodFrame p tag kind body s) := by
  unfold goodFrame
  cases decoded : decodeRequest kind body with
  | some r =>
    have : doFrame p tag kind body = runRequest p tag r := by funext u; simp only [doFrame, decoded]
    rw [this]
    exact .request p tag r (carried r decoded)
  | none =>
    have : doFrame p tag kind body = replyRefused p tag .badRequest := by funext u; simp only [doFrame, decoded]
    rw [this]
    exact .noRequest p tag

theorem onEnabled_undisturbed {d : Degree} {act : State → State} (acts : ∀ u, Undisturbed u (act u)) (s : State) :
    Undisturbed s (onEnabled d act s) := by
  unfold onEnabled
  split
  · exact acts s
  · exact .of_eq (.refl s) rfl

theorem withHeader_undisturbed {d : Degree} {h : Header} {act : State → State} (acts : ∀ u, Undisturbed u (act u)) (s : State) :
    Undisturbed s (withHeader d h act s) := onEnabled_undisturbed (fun _ => (modLink_undisturbed ..).trans (acts _)) s

theorem receivePath_undisturbed {d : Degree} {h : Header} {act : State → State} (acts : ∀ u, Undisturbed u (act u)) (s : State) :
    Undisturbed s (receivePath d h act s) := by
  refine withHeader_undisturbed (fun u => ?_) s
  split
  · exact (modLink_undisturbed ..).trans (acts _)
  · exact .of_eq (.refl u) rfl

/-- A path message but RESERVE. -/
theorem Reaches.path {d : Degree} {h : Header} {act : State → State} (acts : ∀ u, Edits 2 u (act u)) :
    Reaches c s (receivePath d h act s) :=
  .act (receivePath_changes (fun u => (acts u).changes) s) (receivePath_undisturbed (fun u => (acts u).undisturbed) s)

end

theorem linkUp_undisturbed (d : Degree) (n k : Nat) (f : ErrorFlags) (s : State) : Undisturbed s (linkUp d n k f s) :=
  .of_eq (.refl s) rfl

theorem takeHello_undisturbed (d : Degree) (n k : Nat) (f : ErrorFlags) (s : State) : Undisturbed s (takeHello d n k f s) := by
  unfold takeHello
  split
  · split
    · split
      · exact modLink_undisturbed ..
      · exact ((Edits.none (g := 2)).linkDown.undisturbed.trans (linkUp_undisturbed d n k f _)).trans
          (Edits.none (g := 2)).settleAct.undisturbed
    · exact linkUp_undisturbed d n k f s
  · exact modLink_undisturbed ..

theorem byteReceived_reaches (p : Port) (b : Byte) (s : State) : Reaches (.byteReceived p b) s (byteReceived p b s) := by
  unfold byteReceived
  split
  · split
    · exact .port (SlotLink.keep_sound _ _)
    · exact .same rfl
  · next bytes received =>
    unfold partialByte
    split
    · exact .port SlotLink.discard_sound
    · split
      · exact .port (SlotLink.keep_sound _ _)
      · next f complete =>
        split
        · next good =>
          exact .frame fun r decoded => ⟨p, f.tag, .inr ⟨f.kind, f.body, decoded, .inr (.inr ⟨b, bytes, rfl, received,
            completeFrame_good complete good⟩)⟩⟩
        · exact .port SlotLink.discard_sound

/-- The one case split over the commands: what each of them is. -/
theorem exec_reaches {c : Instr} (notReset : c ≠ .reset) (h : exec c s = .next t) : Reaches c s t := by
  have carried (p : Port) (tag : Byte) (r : Request) : Carries (r.command p tag) s r := ⟨p, tag, .inl rfl⟩
  have request (p : Port) (tag : Byte) (r : Request) : Reaches (r.command p tag) s (takeRequest p (runRequest p tag r) s) :=
    .request p tag r (carried p tag r)
  cases c <;> obtain rfl := Host.Outcome.next.inj h
  case reset => exact absurd rfl notReset
  case nop p tag => exact request p tag .nop
  case queryNode p tag => exact request p tag .queryNode
  case setNode p tag f => exact request p tag (.setNode f)
  case setDegree p tag d f => exact request p tag (.setDegree d f)
  case openJob p tag f => exact request p tag (.openJob f)
  case abortJob p tag j => exact request p tag (.abortJob j)
  case closeJob p tag j => exact request p tag (.closeJob j)
  case adoptJob p tag j => exact request p tag (.adoptJob j)
  case lockReport p tag j r => exact request p tag (.lockReport j r)
  case queryJob p tag j => exact request p tag (.queryJob j)
  case queryMap p tag r => exact request p tag (.queryMap r)
  case block p tag r => exact request p tag (.block r)
  case unblock p tag r => exact request p tag (.unblock r)
  case queryDegree p tag d => exact request p tag (.queryDegree d)
  case clearFault p tag d => exact request p tag (.clearFault d)
  case clearFaultMonitor p tag => exact request p tag .clearFaultMonitor
  case readLog p tag a n => exact request p tag (.readLog a n)
  case readCounts p tag n => exact request p tag (.readCounts n)
  case restoreLive p tag f => exact request p tag (.restoreLive f)
  case endRestore p tag => exact request p tag .endRestore
  case badRequest p tag kind body => exact .frame fun r decoded => ⟨p, tag, .inr ⟨kind, body, decoded, .inl rfl⟩⟩
  case requestOverrun p tag kind body => exact .frame fun r decoded => ⟨p, tag, .inr ⟨kind, body, decoded, .inr (.inl rfl)⟩⟩
  case byteReceived p b => exact byteReceived_reaches p b s
  case frameCrcBad p => exact .port SlotLink.discard_sound
  case frameGapExpiry p =>
    exact .act (frameGapExpiry_changes p s) (by unfold frameGapExpiry; split <;> exact .of_eq (.refl s) rfl)
  case portSilenceExpiry p =>
    exact .act (portSilenceExpiry_changes p s) (by unfold portSilenceExpiry; split <;> exact .of_eq (.refl s) rfl)
  case transmitFrameDone p => exact .port SlotLink.frameDone_sound
  case helloTimerExpiry d =>
    exact .act (helloTimerExpiry_changes d s) (by unfold helloTimerExpiry; split <;> exact .of_eq (.refl s) rfl)
  case framerSendRequest d =>
    exact .act (framerSendRequest_changes d s) (by unfold framerSendRequest; split <;> exact .of_eq (.refl s) rfl)
  case headerUncorrectable d =>
    exact .act (onEnabled_changes (fun _ _ => .link Link.noteUncorrectable_sound) s)
      (onEnabled_undisturbed (fun _ => modLink_undisturbed ..) s)
  case unknownKind d hd =>
    exact .act (withHeader_changes (fun _ _ => .link Link.noteUnknownKind_sound) s)
      (withHeader_undisturbed (fun _ => modLink_undisturbed ..) s)
  case bodyBad d hd =>
    exact .act (withHeader_changes (fun _ _ => .link Link.noteBodyBad_sound) s)
      (withHeader_undisturbed (fun _ => modLink_undisturbed ..) s)
  case hello d hd n k f =>
    exact .act (withHeader_changes (fun u => takeHello_changes u) s) (withHeader_undisturbed (takeHello_undisturbed d n k f) s)
  case linkTimeoutExpiry d =>
    refine .act (linkTimeoutExpiry_changes d s) ?_
    unfold linkTimeoutExpiry
    split
    · exact (Edits.none (g := 2)).linkDown.settleAct.undisturbed
    · exact .of_eq (.refl s) rfl
  case reserve d hd f => exact .reserve d hd f
  case reserveOk d hd j => exact .path fun _ => Edits.none.takeReserveOk
  case refuse d hd j cause n => exact .path fun _ => Edits.none.takeRefuse
  case release d hd j => exact .path fun _ => Edits.none.releaseAt
  case rampTurn d hd j dir => exact .path fun _ => Edits.none.takeRampTurn
  case pathUp d hd j => exact .path fun _ => Edits.none.onCtx fun _ e => e.acceptPathUp
  case fail d hd j cause v o => exact .path fun _ => Edits.none.takeFail
  case drop d hd j => exact .path fun _ => Edits.none.onCtx fun _ e => e.takeDrop
  case downTurn d hd j => exact .path fun _ => Edits.none.onCtx fun _ e => e.takeDownTurn
  case holdTimerExpiry j => exact .edits (Edits.none.onCtx fun _ e => e.holdExpiry)
  case pathTimerExpiry j => exact .edits (Edits.none.onCtx fun _ e => e.pathExpiry)
  case lockTimerExpiry j => exact .edits (Edits.none.onCtx fun _ e => e.lockExpiry)
  case teardownTimerExpiry j => exact .edits (Edits.none.onCtx fun _ e => e.teardownExpiry)
  case settleTimerExpiry j dir => exact .edits (Edits.none.onLeg fun _ e => e.settleExpiry)
  case scanSpacingExpiry j dir => exact .edits (Edits.none.onLeg fun _ e => e.spacingExpiry)
  case retryTimerExpiry j dir => exact .edits (Edits.none.onLeg fun _ e => e.retryExpiry)
  case darkTimerExpiry j dir => exact .edits (Edits.none.onLeg fun _ e => e.darkExpiry)
  case headroomTimerExpiry j dir => exact .edits (Edits.none.onLeg fun _ e => e.headroomExpiry)
  case scanResult n x => exact .edits Edits.none.scanResult
  case scanTimeout => exact .edits Edits.none.scanTimeout
  case probeTimerExpiry => exact .edits Edits.none.probeTimerExpiry
  case watchIntervalExpiry d => exact .edits Edits.none.watchIntervalExpiry
  case actuatorCompletion d n x => exact .edits Edits.none.actuatorCompletion
  case actuatorTimeout d => exact .edits Edits.none.actuatorTimeout

/-! ### Fixed fields, entries, and what belongs to the node -/

theorem takeRequest_jobsFixed (p : Port) {act : State → State} (acts : ∀ s, JobsFixed s (act s)) (s : State) :
    JobsFixed s (takeRequest p act s) := by
  unfold takeRequest
  split
  · exact acts (raisePort p s)
  · exact (JobsKeep.of_eq rfl).fixed

theorem takeRequest_nodeKept (p : Port) {r : Request} {act : State → State} (acts : ∀ s, NodeKept r s (act s)) (s : State) :
    NodeKept r s (takeRequest p act s) := by
  unfold takeRequest
  split
  · obtain ⟨pending, time, running, seq, node, degrees⟩ := acts (raisePort p s)
    exact ⟨pending, time, running, seq, node, degrees⟩
  · exact SameParams.nodeKept (.refl s)

theorem takeRequest_params (p : Port) {act : State → State} (acts : ∀ s, SameParams s (act s)) (s : State) :
    SameParams s (takeRequest p act s) := by
  unfold takeRequest
  split
  · exact acts (raisePort p s)
  · exact .refl s

theorem receivePath_reserve_keeps (d : Degree) (h : Header) (f : ReserveFields) (s : State) :
    SameParams s (receivePath d h (reserveAt d f) s) ∧ JobsFixed s (receivePath d h (reserveAt d f) s) := by
  have unheard {u : State} (params : SameParams s u) (jobs : u.jobs = s.jobs) : SameParams s u ∧ JobsFixed s u :=
    ⟨params, (JobsKeep.of_eq jobs).fixed⟩
  unfold receivePath withHeader onEnabled
  split
  · dsimp only
    split
    · exact reserveAt_keeps d f (restartTimeout d (modLink d (Link.noteHeader h) s))
    · exact unheard (.refl s) rfl
  · exact unheard (.refl s) rfl

/-! ### Soundness -/

/-- A context put in use under a free job id keeps the table in ascending order (R37). -/
theorem insertCtx_pairwise {c : Context} {jobs : List Context} (h : jobs.Pairwise (fun a b => a.id.before b.id))
    (free : ∀ a, a ∈ jobs → a.id ≠ c.id) : (insertCtx c jobs).Pairwise (fun a b => a.id.before b.id) := by
  induction jobs with
  | nil => simp [insertCtx]
  | cons b bs ih =>
    obtain ⟨first, rest⟩ := List.pairwise_cons.mp h
    unfold insertCtx
    split
    · next before =>
      refine List.pairwise_cons.mpr ⟨fun a ha => ?_, h⟩
      rcases List.mem_cons.mp ha with rfl | ha
      · exact before
      · have := first a ha
        simp only [JobId.before] at *
        omega
    · next notBefore =>
      refine List.pairwise_cons.mpr ⟨fun a ha => ?_, ih rest fun a ha => free a (List.mem_cons_of_mem b ha)⟩
      rcases mem_insertCtx.mp ha with rfl | ha
      · have other : ¬ (b.id.head = a.id.head ∧ b.id.seq = a.id.seq) := fun ⟨head, seq⟩ =>
          free b (List.mem_cons_self ..) (by cases h : b.id; cases g : a.id; simp_all)
        simp only [JobId.before] at *
        omega
      · exact first a ha

theorem length_insertCtx (c : Context) (jobs : List Context) : (insertCtx c jobs).length = jobs.length + 1 := by
  induction jobs with
  | nil => rfl
  | cons b bs ih =>
    unfold insertCtx
    split
    · rfl
    · simp [ih]

theorem addCtx_jobInv {c : Context} (room : s.jobs.length < Config.maxContexts) (free : s.ctx? c.id = none) (hs : JobInv s) :
    JobInv (addCtx c s) :=
  ⟨by simpa only [addCtx, length_insertCtx] using Nat.succ_le_of_lt room, insertCtx_pairwise hs.2 (ctx?_eq_none_iff.mp free)⟩

theorem addCtx_legInv {c : Context} (bounded : c.Bounded) (hs : LegInv s) : LegInv (addCtx c s) := by
  intro b hb
  rcases mem_insertCtx.mp hb with rfl | hb
  · exact bounded
  · exact hs b hb

theorem SameParams.paramInv (h : SameParams s t) (hs : ParamInv s) : ParamInv t := by
  obtain ⟨node, degrees, -⟩ := h
  simpa only [ParamInv, State.deg, node, degrees] using hs

theorem SameParams.seqInv (h : SameParams s t) (hs : SeqInv s) : SeqInv t := by
  obtain ⟨-, -, -, -, seq, -⟩ := h
  simpa only [SeqInv, seq] using hs

theorem Edits.sound {g : Nat} (h : Edits g s t) (hs : Sound s) : Sound t where
  map := h.mapInv hs.map
  jobs := h.jobInv hs.jobs
  legs := h.legInv hs.legs
  ports := h.portInv hs.ports
  links := h.linkInv hs.links
  arbiters := h.arbiterInv hs.arbiters
  devices := h.deviceInv hs.devices
  results := h.resultInv hs.results
  params := h.undisturbed.params.paramInv hs.params
  seq := h.undisturbed.params.seqInv hs.seq

/-! ### Stored parameters stay in range (R165 to R167) -/

theorem clampTo_within {r : Config.Range} (ordered : r.lo ≤ r.hi) (v : Int) : Within r (clampTo r v) := by
  unfold Within clampTo; omega

theorem storeInt_within {r : Config.Range} {stored : Int} (field : Option Int) (h : Within r stored) :
    Within r (storeInt r field stored) := by
  cases field
  · exact h
  · exact clampTo_within (le_trans h.1 h.2) _

theorem storeNat_within {r : Config.Range} {stored : Nat} (field : Option Int) (h : Within r stored)
    (nonneg : 0 ≤ r.lo := by decide) : Within r (storeNat r field stored) := by
  rw [coe_storeNat field stored nonneg]
  exact storeInt_within field h

theorem NodeParams.apply_inRange (f : NodeFields) {n : NodeParams} (h : n.InRange) : (n.apply f).InRange := by
  obtain ⟨h1, h2, h3, h4, h5, h6, h7, h8, h9⟩ := h
  exact ⟨storeNat_within _ h1, storeNat_within _ h2, storeNat_within _ h3, storeNat_within _ h4, storeNat_within _ h5,
    storeNat_within _ h6, storeNat_within _ h7, storeNat_within _ h8, storeNat_within _ h9⟩

theorem DegreeParams.apply_inRange (f : DegreeFields) {p : DegreeParams} (h : p.InRange) : (p.apply f).InRange := by
  obtain ⟨h1, h2, h3, h4, h5, h6, h7, h8, h9, h10, h11, h12, h13, h14, h15, h16, h17, h18, h19, h20, h21, h22⟩ := h
  exact ⟨storeInt_within _ h1, storeInt_within _ h2, storeInt_within _ h3, storeInt_within _ h4, storeInt_within _ h5,
    storeInt_within _ h6, storeInt_within _ h7, storeInt_within _ h8, storeNat_within _ h9, storeNat_within _ h10,
    storeNat_within _ h11, storeInt_within _ h12, storeInt_within _ h13, storeNat_within _ h14, storeNat_within _ h15,
    storeNat_within _ h16, storeNat_within _ h17, storeNat_within _ h18, storeInt_within _ h19, storeNat_within _ h20,
    storeNat_within _ h21, storeNat_within _ h22⟩

/-! ### SET_DEGREE between its store and its grant pass (R113, R147) -/

theorem requeue_edits (d : Degree) (s : State) : Edits 0 s (requeue d s) := Edits.none.requeue

/-- The state in which the degree's parameters are stored and its arbiter has acted is sound but for the link unit, which still stands as
the stored `enabled` had it. -/
theorem arbiterChanged_arbiterInv (d : Degree) (after : DegreeParams) (hs : ArbiterInv s) :
    ArbiterInv (arbiterChanged d (s.deg d) after (storeDegree d after s)) := by
  have reheld : ArbiterInv (if (s.deg d).holdAll = after.holdAll then storeDegree d after s
      else modArb d (Arbiter.rehold after.holdAll) (storeDegree d after s)) := by
    intro e
    split
    · next same =>
      rw [storeDegree_deg, storeDegree_arb]
      split
      · next own => subst own; rw [← same]; exact hs e
      · exact hs e
    · rw [modArb_deg, storeDegree_deg, modArb_arb]
      split
      · rfl
      · exact hs e
  unfold arbiterChanged
  simp only []
  split
  · exact reheld
  · exact (requeue_edits d _).arbiterInv reheld

/-- Of everything else the arbiter's part of a SET_DEGREE changes leg states alone. -/
theorem arbiterChanged_keeps (d : Degree) (before after : DegreeParams) (hs : MapInv s ∧ JobInv s ∧ LegInv s ∧ PortInv s ∧ DeviceInv s ∧ ResultInv s) :
    let t := arbiterChanged d before after s
    (MapInv t ∧ JobInv t ∧ LegInv t ∧ PortInv t ∧ DeviceInv t ∧ ResultInv t) ∧ t.links = s.links ∧ SameParams s t := by
  obtain ⟨map, jobs, legs, ports, devices, results⟩ := hs
  unfold arbiterChanged
  simp only []
  split_ifs
  · exact ⟨⟨map, jobs, legs, ports, devices, results⟩, rfl, .refl s⟩
  · exact ⟨⟨map, jobs, legs, ports, devices, results⟩, rfl, .refl s⟩
  · have e := requeue_edits d s
    exact ⟨⟨e.mapInv map, e.jobInv jobs, e.legInv legs, e.portInv ports, e.deviceInv devices, e.resultInv results⟩, e.quiet.2.1, e.params⟩
  · have e := requeue_edits d (modArb d (Arbiter.rehold after.holdAll) s)
    exact ⟨⟨e.mapInv map, e.jobInv jobs, e.legInv legs, e.portInv ports, e.deviceInv devices, e.resultInv results⟩, e.quiet.2.1, e.params⟩

theorem Link.enable_sound {l : Link} (h : l.Sound false) : l.enable.Sound true := by
  obtain ⟨queue, -, neighbour, timeout, -, -⟩ := h
  exact ⟨queue, ⟨Nat.zero_le _, Nat.zero_le _, Nat.zero_le _, Nat.zero_le _, Nat.zero_le _⟩, neighbour, timeout, rfl, by simp⟩

/-- A link unit whose degree has been disabled, its link still UP or not. -/
def Link.Quiet (l : Link) : Prop :=
  l.counts.Bounded ∧ l.neighbour.isSome = l.up ∧ l.timeout.isSome = l.up ∧ l.helloTimer = none ∧ l.pendingHello = false ∧ l.queue = []

theorem Link.disable_quiet {b : Bool} {l : Link} (h : l.Sound b) : l.disable.Quiet := by
  obtain ⟨-, counts, neighbour, timeout, -, -⟩ := h
  exact ⟨counts, neighbour, timeout, rfl, rfl, rfl⟩

theorem Link.Quiet.sound {l : Link} (h : l.Quiet) (down : l.up = false) : l.Sound false := by
  obtain ⟨counts, neighbour, timeout, hello, pending, queue⟩ := h
  exact ⟨by simp [queue], counts, neighbour, timeout, by simp [hello], fun _ => ⟨down, pending, queue⟩⟩

theorem Link.Quiet.lose_sound {l : Link} (h : l.Quiet) : l.lose.Sound false := by
  obtain ⟨counts, -, -, hello, pending, -⟩ := h
  exact ⟨Nat.zero_le _, counts, rfl, rfl, by simp [Link.lose, hello], fun _ => ⟨rfl, pending, rfl⟩⟩

/-- What is left to the link unit of a degree whose `enabled` was `before` and is `after` now: all invariants but its own stand. -/
structure SoundButLink (d : Degree) (before : Bool) (s : State) : Prop where
  rest  : MapInv s ∧ JobInv s ∧ LegInv s ∧ PortInv s ∧ ArbiterInv s ∧ DeviceInv s ∧ ResultInv s ∧ ParamInv s ∧ SeqInv s
  own   : (s.link d).Sound before
  links : ∀ e, e ≠ d → (s.link e).Sound (s.deg e).enabled

theorem SoundButLink.setLink {d : Degree} {before : Bool} (h : SoundButLink d before s) (f : Link → Link)
    (hf : (f (s.link d)).Sound (s.deg d).enabled) : Sound (modLink d f s) := by
  obtain ⟨map, jobs, legs, ports, arbiters, devices, results, params, seq⟩ := h.rest
  refine ⟨map, jobs, legs, ports, fun e => ?_, arbiters, devices, results, params, seq⟩
  rw [modLink_link, modLink_deg]
  split
  · next own => subst own; exact hf
  · next other => exact h.links e other

theorem modLink_modLink (d : Degree) (f g : Link → Link) (s : State) : modLink d f (modLink d g s) = modLink d (f ∘ g) s := by
  simp [modLink]

theorem SoundButLink.enabledChanged {d : Degree} {before after : Bool} (h : SoundButLink d before s)
    (stored : (s.deg d).enabled = after) : Sound (enabledChanged d before after s) := by
  unfold Machine.enabledChanged
  split
  · next same =>
    have whole := h.setLink id (by rw [stored, ← same]; exact h.own)
    simpa [modLink] using whole
  · split
    · next off on =>
      obtain rfl : before = false := by cases before <;> simp_all
      exact h.setLink _ (by rw [stored, on]; exact Link.enable_sound h.own)
    · next changed off =>
      have quiet := Link.disable_quiet h.own
      have disabled : (s.deg d).enabled = false := by rw [stored]; simpa using off
      unfold disableLink
      simp only []
      split
      · refine Edits.sound (g := 2) ((Edits.none (g := 2)).linkLoss.announce) ?_
        rw [modLink_modLink]
        exact h.setLink _ (by rw [disabled]; exact quiet.lose_sound)
      · next down => exact h.setLink _ (by rw [disabled]; exact quiet.sound (by simpa using down))

theorem degreeChange_sound (d : Degree) (f : DegreeFields) (hs : Sound s) :
    Sound (enabledChanged d (s.deg d).enabled (DegreeParams.apply f (s.deg d)).enabled
      (arbiterChanged d (s.deg d) (DegreeParams.apply f (s.deg d)) (storeDegree d (DegreeParams.apply f (s.deg d)) s))) := by
  generalize stored : DegreeParams.apply f (s.deg d) = after
  obtain ⟨⟨map, jobs, legs, ports, devices, results⟩, links, params⟩ :=
    arbiterChanged_keeps (s := storeDegree d after s) d (s.deg d) after ⟨hs.map, hs.jobs, hs.legs, hs.ports, hs.devices, hs.results⟩
  have deg (e : Degree) : (arbiterChanged d (s.deg d) after (storeDegree d after s)).deg e = if e = d then after else s.deg e := by
    rw [← storeDegree_deg]
    exact congrArg (PerDegree.get · e) params.2.1
  have inRange : ParamInv (storeDegree d after s) := by
    refine ⟨hs.params.1, fun e => ?_⟩
    rw [storeDegree_deg]
    split
    · rw [← stored]; exact DegreeParams.apply_inRange f (hs.params.2 d)
    · exact hs.params.2 e
  refine SoundButLink.enabledChanged ⟨⟨map, jobs, legs, ports, arbiterChanged_arbiterInv d after hs.arbiters, devices, results,
    params.paramInv inRange, params.seqInv hs.seq⟩, ?_, fun e other => ?_⟩ (by rw [deg, if_pos rfl])
  · rw [State.link, links]; exact hs.links d
  · rw [State.link, links, deg, if_neg other]; exact hs.links e

/-! ### Every change keeps soundness -/

theorem Change.sound (h : Change s t) (hs : Sound s) : Sound t := by
  cases h with
  | edits e => exact e.sound hs
  | port p f _ hf => exact { hs with ports := modPort_portInv p f hf hs.ports }
  | link d f _ hf => exact { hs with links := modLink_linkInv d f (fun _ => hf (hs.links d)) hs.links }
  | node f => exact { hs with params := ⟨NodeParams.apply_inRange f hs.params.1, hs.params.2⟩ }
  | add c _ room free bounded => exact { hs with jobs := addCtx_jobInv room free hs.jobs, legs := addCtx_legInv bounded hs.legs }
  | seq v _ range => exact { hs with seq := range hs.seq }
  | map f _ shaped => exact { hs with map := shaped _ hs.map }
  | results f _ hf => exact { hs with results := hf _ hs.results }
  | running => exact { hs with }
  | degree d f => exact degreeChange_sound d f hs

theorem Changes.sound (h : Changes s t) (hs : Sound s) : Sound t := h.keep Change.sound hs

theorem Reaches.changes {c : Instr} (h : Reaches c s t) : Changes s t := by
  cases h with
  | request p tag r => exact takeRequest_changes p _ (runRequest_changes p tag r) s
  | noRequest p tag => exact takeRequest_changes p _ (fun _ room => reply_changes room) s
  | reserve d hd f => exact receivePath_changes (reserveAt_changes d f) s
  | act changes => exact changes

/-! ### Reset and a millisecond -/

theorem initial_shaped : SpectrumMap.initial.Shaped := by
  intro d
  cases d <;> exact ⟨List.length_replicate .., List.length_replicate ..⟩

theorem SlotLink.initial_sound : SlotLink.initial.Sound :=
  ⟨Nat.zero_le _, Nat.zero_le _, Nat.zero_le _, Nat.zero_le _, rfl, rfl⟩

theorem Link.initial_sound : Link.initial.Sound false :=
  ⟨Nat.zero_le _, ⟨Nat.zero_le _, Nat.zero_le _, Nat.zero_le _, Nat.zero_le _, Nat.zero_le _⟩, rfl, rfl, rfl, fun _ => ⟨rfl, rfl, rfl⟩⟩

theorem reset_watch (d : Degree) : State.reset.watch d = .initial (if d = .d1 then .inFlight else .queued) := by cases d <;> rfl

theorem NodeParams.initial_inRange : NodeParams.initial.InRange := by
  simp only [NodeParams.InRange, Within, NodeParams.initial]
  decide

theorem DegreeParams.initial_inRange : DegreeParams.initial.InRange := by
  simp only [DegreeParams.InRange, Within, DegreeParams.initial]
  decide

theorem reset_sound : Sound State.reset where
  map := initial_shaped
  jobs := ⟨Nat.zero_le _, .nil⟩
  legs := by simp [LegInv, State.reset]
  ports p := by
    have : State.reset.port p = SlotLink.initial := PerPort.get_const ..
    exact this ▸ SlotLink.initial_sound
  links d := by
    have unit : State.reset.link d = Link.initial := PerDegree.get_const ..
    have params : State.reset.deg d = DegreeParams.initial := PerDegree.get_const ..
    rw [unit, params]
    exact Link.initial_sound
  arbiters d := by cases d <;> rfl
  devices := by
    refine ⟨show 1 < 256 by decide, fun d => ⟨?_, ?_⟩⟩
    · rw [reset_watch]
      exact ⟨Nat.zero_le _, by simp only [Watch.initial]; split <;> simp⟩
    · have : State.reset.act d = Actuator.initial := PerDegree.get_const ..
      exact this ▸ show 0 < 256 by decide
  results := Results.initial_sound
  params := ⟨NodeParams.initial_inRange, fun d => by
    have : State.reset.deg d = DegreeParams.initial := PerDegree.get_const ..
    exact this ▸ DegreeParams.initial_inRange⟩
  seq := ⟨Nat.le_refl 1, show 1 ≤ 65535 by decide⟩

@[simp] theorem tickTimer_isSome (x : Option Nat) : (tickTimer x).isSome = x.isSome := Option.isSome_map

theorem tick_port (p : Port) (s : State) : (tick s).port p = (s.port p).tick := by cases p <;> rfl

theorem tick_link (d : Degree) (s : State) : (tick s).link d = (s.link d).tick := by cases d <;> rfl

theorem tick_watch (d : Degree) (s : State) : (tick s).watch d = (s.watch d).tick := by cases d <;> rfl

theorem tick_act (d : Degree) (s : State) : (tick s).act d = (s.act d).tick := by cases d <;> rfl

theorem Context.tick_bounded {c : Context} (h : c.Bounded) : c.tick.Bounded := by
  refine ⟨Leg.mapLine_bounded LineLeg.tick (fun _ h => h) _ h.1, fun l hl => ?_⟩
  obtain ⟨x, hx, rfl⟩ := Option.map_eq_some_iff.mp hl
  exact Leg.mapLine_bounded LineLeg.tick (fun _ h => h) _ (h.2 x hx)

theorem tick_sound (hs : Sound s) : Sound (tick s) where
  map := hs.map
  jobs := map_jobTable (f := Context.tick) (fun _ => rfl) hs.jobs
  legs := by
    intro c hc
    obtain ⟨b, hb, rfl⟩ := List.mem_map.mp hc
    exact Context.tick_bounded (hs.legs b hb)
  ports p := by
    obtain ⟨tx, discarded, overrun, dropped, silence, gap⟩ := hs.ports p
    rw [tick_port]
    exact ⟨tx, discarded, overrun, dropped, by simpa [SlotLink.tick] using silence, by simpa [SlotLink.tick] using gap⟩
  links d := by
    obtain ⟨queue, counts, neighbour, timeout, hello, disabled⟩ := hs.links d
    rw [tick_link]
    exact ⟨queue, counts, neighbour, by simpa [Link.tick] using timeout, (tickTimer_isSome _).trans hello, disabled⟩
  arbiters := hs.arbiters
  devices := by
    refine ⟨hs.devices.1, fun d => ⟨?_, ?_⟩⟩
    · obtain ⟨run, interval⟩ := (hs.devices.2 d).1
      rw [tick_watch]
      exact ⟨run, by simpa [Watch.tick] using interval⟩
    · rw [tick_act]
      exact (hs.devices.2 d).2
  results := hs.results
  params := hs.params
  seq := hs.seq

/-- Settles O5: a step is a millisecond, RESET, or a sequence of changes, each of which keeps soundness. -/
theorem everyStepKeepsSoundness : Obligations.EveryStepKeepsSoundness := by
  unfold Obligations.EveryStepKeepsSoundness
  intro s t hs h
  unfold step at h
  split at h
  · obtain rfl := Host.Outcome.next.inj h
    exact tick_sound hs
  · next c rest _ =>
    have taken : Sound { s with pending := rest } := { hs with }
    by_cases reset : c = .reset
    · subst reset
      obtain rfl := Host.Outcome.next.inj h
      exact { reset_sound with }
    · exact (exec_reaches reset h).changes.sound taken

/-- Settles O7: only OPEN, RESERVE and RESTORE_LIVE put a context in use, each under a job id that no context carries; every base change
keeps the fixed fields. -/
theorem contextsKeepTheirFixedFields : Obligations.ContextsKeepTheirFixedFields := by
  unfold Obligations.ContextsKeepTheirFixedFields
  intro c s t notReset h
  cases exec_reaches notReset h with
  | request p tag r => exact takeRequest_jobsFixed p (runRequest_jobsFixed p tag r) s
  | noRequest p tag => exact takeRequest_jobsFixed p (fun _ => (answered_undisturbed ..).jobs.fixed) s
  | reserve d hd f => exact (receivePath_reserve_keeps d hd f s).2
  | act _ undisturbed => exact undisturbed.jobs.fixed

/-- Settles O8: every command but RESET moves the map by rows of the table of 2.2. -/
theorem entriesMoveOnlyByTheTable : Obligations.EntriesMoveOnlyByTheTable := by
  unfold Obligations.EntriesMoveOnlyByTheTable
  intro c s t notReset h
  exact exec_mapMoves notReset h

/-- Settles O9: RESET aside, a command is a request, each of which keeps all but its own field, or an act that changes no parameter. -/
theorem nodeStateChangesOnlyByItsCommands : Obligations.NodeStateChangesOnlyByItsCommands := by
  unfold Obligations.NodeStateChangesOnlyByItsCommands
  intro c s t h
  by_cases reset : c = .reset
  · subst reset
    obtain rfl := Host.Outcome.next.inj h
    exact ⟨rfl, .inl rfl⟩
  · have unchanged (same : SameParams s t) : t.pending = s.pending ∧ (c = .reset ∨ (t.time = s.time
        ∧ (Carries c s .endRestore ∨ t.running = s.running)
        ∧ ((∃ f, Carries c s (.openJob f)) ∨ t.seqCounter = s.seqCounter)
        ∧ ((∃ f, Carries c s (.setNode f)) ∨ t.node = s.node)
        ∧ ((∃ d f, Carries c s (.setDegree d f)) ∨ t.degrees = s.degrees))) := by
      obtain ⟨node, degrees, running, time, seq, pending⟩ := same
      exact ⟨pending, .inr ⟨time, .inr running, .inr seq, .inr node, .inr degrees⟩⟩
    cases exec_reaches reset h with
    | request p tag r carried =>
      obtain ⟨pending, time, running, seq, node, degrees⟩ := takeRequest_nodeKept p (runRequest_nodeKept p tag r) s
      refine ⟨pending, .inr ⟨time, running.imp_left ?_, seq.imp_left ?_, node.imp_left ?_, degrees.imp_left ?_⟩⟩
      · exact fun own => own ▸ carried
      · exact fun ⟨f, own⟩ => ⟨f, own ▸ carried⟩
      · exact fun ⟨f, own⟩ => ⟨f, own ▸ carried⟩
      · exact fun ⟨d, f, own⟩ => ⟨d, f, own ▸ carried⟩
    | noRequest p tag => exact unchanged (takeRequest_params p (fun _ => (answered_undisturbed ..).params) s)
    | reserve d hd f => exact unchanged (receivePath_reserve_keeps d hd f s).1
    | act _ undisturbed => exact unchanged undisturbed.params

/-! ### The queue, a millisecond, and reset (11.5) -/

/-- Settles O1. -/
theorem stepRunsTheFrontCommand : Obligations.StepRunsTheFrontCommand := by
  unfold Obligations.StepRunsTheFrontCommand
  intro c rest s waiting
  simp only [step, waiting]

/-- Settles O2: the tick of each unit, read back unit by unit. -/
theorem idleStepIsOneMillisecond : Obligations.IdleStepIsOneMillisecond := by
  unfold Obligations.IdleStepIsOneMillisecond
  intro s idle
  have stepped : step s = .next (tick s) := by simp only [step, idle]
  exact ⟨tick s, stepped, rfl, fun p => tick_port p s, fun d => tick_link d s, fun d => tick_watch d s, fun d => tick_act d s, rfl, rfl,
    idle, rfl, rfl, rfl, rfl, rfl, rfl, rfl, rfl⟩

theorem reset_entry (d : Degree) (dir : MapDir) (k : Nat) : State.reset.entry d dir k = if k < 384 then some .unknown else none := by
  have table : State.reset.map.table d dir = List.replicate 384 .unknown := by
    cases dir <;> exact PerDegree.get_const ..
  rw [State.entry, table, List.getElem?_replicate]

/-- Settles O3: each unit's initial value, for every port and degree. -/
theorem resetLeavesTheStartingState : Obligations.ResetLeavesTheStartingState := by
  unfold Obligations.ResetLeavesTheStartingState
  intro s
  refine ⟨_, rfl, rfl, rfl, rfl, rfl, rfl, rfl, fun d dir k hk => ?entries, rfl, fun d => ?params, fun p => ?ports, fun d => ?links,
    fun d => ?arbiters, fun d => ?actuators, fun d => ?watches, rfl, rfl⟩
  case entries => exact (reset_entry d dir k).trans (if_pos hk)
  case params => exact PerDegree.get_const ..
  case ports => exact PerPort.get_const ..
  case links => exact PerDegree.get_const ..
  case arbiters => exact PerDegree.get_const ..
  case actuators => exact PerDegree.get_const ..
  case watches => exact reset_watch d

theorem reset_arbiterAgrees (d : Degree) : ArbiterAgrees State.reset d := by
  have arb : State.reset.arb d = Arbiter.initial := PerDegree.get_const ..
  have act : State.reset.act d = Actuator.initial := PerDegree.get_const ..
  exact {
    names := by simp [arb, act, Arbiter.initial, Actuator.initial]
    flown := by simp [act, Actuator.initial]
    once := by simp [arb, Arbiter.initial]
    faulted := by simp [act, Actuator.initial] }

theorem reset_monitorAgrees : MonitorAgrees State.reset where
  once := by decide
  bound := by decide
  names q hq := by
    simp only [State.reset, Monitor.initial, watchRequest, List.mem_cons, List.not_mem_nil, or_false] at hq
    rcases hq with rfl | rfl | rfl <;> simp
  queued d := by cases d <;> decide
  flying d := by
    have first : State.reset.monitor.flight = some ⟨watchRequest .d1, 0, Config.scanTimeout.init.toNat, false, false⟩ := rfl
    rw [reset_watch, first]
    cases d <;> simp [Watch.initial, watchRequest]
  stopped d := by cases d <;> decide
  flight f hf := by
    obtain rfl := Option.some.inj hf
    simp [State.reset, Monitor.initial, watchRequest]
  idle := by simp [State.reset, Monitor.initial]
  fault := by simp [State.reset, Monitor.initial]
  probe := by simp [State.reset, Monitor.initial]

/-- Settles O4: with no context in use, what is left to agree is the watches with the scan in flight and the queue. -/
theorem resetStateIsSound : Obligations.ResetStateIsSound :=
  have unused (c : Context) : c ∉ State.reset.jobs := List.not_mem_nil
  ⟨reset_sound,
    { shapes := fun c hc => absurd hc (unused c)
      timers := fun c hc => absurd hc (unused c)
      phases := fun c hc => absurd hc (unused c)
      legs := fun c hc => absurd hc (unused c)
      arbiters := reset_arbiterAgrees
      monitor := reset_monitorAgrees
      frozen := ⟨.nil, fun _ hr => absurd hr List.not_mem_nil⟩
      map :=
        { runs := fun c hc => absurd hc (unused c)
          names := fun d dir k e j he hj => by
            rw [reset_entry] at he
            split at he
            · obtain rfl := Option.some.inj he
              cases hj
            · cases he } }⟩

end Sys2Proof.Machine
end

section
/-! PROOFS. The slot links (chapter 10): frames by bytes, the receiver's events, the transmitter, and good frames taken, refused or
counted. -/

namespace Sys2Proof.Machine

variable {s : State} {p : Port}

/-! ### A request's command (R159, R162) -/

theorem exec_command (p : Port) (tag : Byte) (r : Request) (s : State) :
    exec (r.command p tag) s = .next (takeRequest p (runRequest p tag r) s) := by
  cases r <;> rfl

theorem exec_command_of_hasRoom (tag : Byte) (room : HasRoom p s) (r : Request) :
    exec (r.command p tag) s = .next (runRequest p tag r (raisePort p s)) := by
  rw [exec_command, takeRequest_of_hasRoom room]

theorem replyDone_raisePort (p : Port) (tag : Byte) (items : List Item) (s : State) :
    replyDone p tag items (raisePort p s) = Answered p tag (.done items) s := reply_raisePort ..

theorem replyRefused_raisePort (p : Port) (tag : Byte) (r : Reason) (s : State) :
    replyRefused p tag r (raisePort p s) = Answered p tag (.refused r) s := reply_raisePort ..

theorem takeRequest_of_full (full : 32 ≤ (s.port p).tx.length) (act : State → State) : takeRequest p act s = Overrun p s := by
  have : ¬ (s.port p).tx.length < Config.maxFrames := Nat.not_lt.mpr full
  rw [takeRequest, if_neg this]
  simp [modPort, raisePort, Overrun, State.withPort, SlotLink.countOverrun, SlotLink.raise, State.port, bump, Config.countMax]

theorem doFrame_of_request {tag kind : Byte} {body : List Byte} {r : Request} (decoded : decodeRequest kind body = some r) (s : State) :
    doFrame p tag kind body s = runRequest p tag r s := by simp only [doFrame, decoded]

theorem doFrame_of_none {tag kind : Byte} {body : List Byte} (decoded : decodeRequest kind body = none) (s : State) :
    doFrame p tag kind body s = replyRefused p tag .badRequest s := by simp only [doFrame, decoded]

theorem goodFrame_of_request {tag kind : Byte} {body : List Byte} {r : Request} (decoded : decodeRequest kind body = some r) (s : State) :
    .next (goodFrame p tag kind body s) = exec (r.command p tag) s := by
  have same : doFrame p tag kind body = runRequest p tag r := funext (doFrame_of_request decoded)
  rw [exec_command, goodFrame, same]

theorem goodFrame_of_none (p : Port) (tag kind : Byte) (body : List Byte) (s : State) :
    .next (goodFrame p tag kind body s) = exec (.badRequest p tag kind body) s := rfl

/-- Settles O13: the queue's length decides between the two cases, and the frame's request what a taken frame does. -/
theorem framesAreTakenRefusedOrCounted : Obligations.FramesAreTakenRefusedOrCounted := by
  unfold Obligations.FramesAreTakenRefusedOrCounted
  intro p tag s
  refine ⟨fun full => ⟨fun r => ?_, fun kind body => ?_⟩, fun room kind body => ⟨fun none => ?_, fun r decoded => ?_⟩⟩
  · rw [exec_command, takeRequest_of_full full]
  · have overrun : goodFrame p tag kind body s = Overrun p s := takeRequest_of_full full _
    exact ⟨congrArg Host.Outcome.next overrun, congrArg Host.Outcome.next overrun⟩
  · have refused : goodFrame p tag kind body s = Answered p tag (.refused .badRequest) s := by
      rw [goodFrame, takeRequest_of_hasRoom room, doFrame_of_none none, replyRefused_raisePort]
    exact ⟨congrArg Host.Outcome.next refused, congrArg Host.Outcome.next refused⟩
  · exact ⟨goodFrame_of_request decoded s, goodFrame_of_request decoded s⟩

/-! ### The receiver's events (R158 to R160) -/

theorem modPort_eq_withPort (p : Port) (f : SlotLink → SlotLink) (s : State) : modPort p f s = s.withPort p (f (s.port p)) := rfl

theorem ranOut_iff (x : Option Nat) : ranOut x = true ↔ x = some 0 := by simp [ranOut]

theorem frameGapExpiry_eq (p : Port) (s : State) :
    frameGapExpiry p s = if (s.port p).gap = some 0 then modPort p SlotLink.discard s else s := by
  simp only [frameGapExpiry, ranOut_iff]

theorem portSilenceExpiry_eq (p : Port) (s : State) :
    portSilenceExpiry p s = if (s.port p).silence = some 0 then modPort p SlotLink.fallSilent s else s := by
  simp only [portSilenceExpiry, ranOut_iff]

theorem byteReceived_of_hunt (hunts : (s.port p).receive = none) (b : Byte) :
    byteReceived p b s = if b = marker then modPort p (SlotLink.keep [] s.node.gapLimit) s else s := by
  simp only [byteReceived, hunts]

theorem byteReceived_of_partial {bytes : List Byte} (held : (s.port p).receive = some bytes) (b : Byte) :
    byteReceived p b s = partialByte p bytes b s := by
  simp only [byteReceived, held]

/-- A frame is complete at five bytes more than its body, the marker aside, and not before. -/
theorem completeFrame_of_short {len : Byte} {rest : List Byte} (short : rest.length < len.toNat + 4) :
    completeFrame (len :: rest) = none := by
  match rest with
  | [] => rfl
  | [_] => rfl
  | kind :: tag :: rest =>
    have : ¬ rest.length = len.toNat + 2 := by simp only [List.length_cons] at short; omega
    simp [completeFrame, this]

theorem partialByte_of_short {bytes : List Byte} {b len : Byte} {rest : List Byte} (first : bytes ++ [b] = len :: rest)
    (fits : len.toNat ≤ 250) (short : rest.length < len.toNat + 4) (s : State) :
    partialByte p bytes b s = modPort p (SlotLink.keep (bytes ++ [b]) s.node.gapLimit) s := by
  have length_ok : ¬ (bytes = [] ∧ Config.bodyMax < b.toNat) := by
    rintro ⟨rfl, long⟩
    simp only [List.nil_append, List.cons.injEq] at first
    exact absurd long (by rw [first.1]; exact Nat.not_lt.mpr fits)
  simp only [partialByte, if_neg length_ok, first, completeFrame_of_short short]

/-- Settles O11: the receiver's branches, each a change of its port's unit alone. -/
theorem slotLinkEventsComplete : Obligations.SlotLinkEventsComplete := by
  unfold Obligations.SlotLinkEventsComplete
  intro p s
  refine ⟨rfl, ?gap, ?silence, fun hunts b => ?hunt, fun held b long => ?long, fun bytes b len rest held first fits short => ?kept⟩
  case gap => exact congrArg Host.Outcome.next (frameGapExpiry_eq p s)
  case silence => exact congrArg Host.Outcome.next (portSilenceExpiry_eq p s)
  case hunt => exact congrArg Host.Outcome.next (byteReceived_of_hunt hunts b)
  case long =>
    refine congrArg Host.Outcome.next ?_
    have tooLong : ([] : List Byte) = [] ∧ Config.bodyMax < b.toNat := ⟨rfl, long⟩
    rw [byteReceived_of_partial held, partialByte, if_pos tooLong]
    rfl
  case kept =>
    refine congrArg Host.Outcome.next ?_
    rw [byteReceived_of_partial held, partialByte_of_short first fits short]
    rfl

/-! ### A frame byte by byte (R158, R159, R179) -/

/-- The state in which a partial frame is held on the port. -/
def Holding (p : Port) (bytes : List Byte) (s : State) : State := modPort p (SlotLink.keep bytes s.node.gapLimit) s

@[simp] theorem holding_receive (p : Port) (bytes : List Byte) (s : State) : ((Holding p bytes s).port p).receive = some bytes := by
  simp [Holding, SlotLink.keep]

theorem keep_holding (p : Port) (bytes more : List Byte) (s : State) :
    modPort p (SlotLink.keep more (Holding p bytes s).node.gapLimit) (Holding p bytes s) = Holding p more s := by
  simp [Holding, modPort, SlotLink.keep]

theorem raisePort_holding (p : Port) (bytes : List Byte) (s : State) : raisePort p (Holding p bytes s) = raisePort p s := by
  simp [Holding, raisePort, modPort, SlotLink.keep, SlotLink.raise]

theorem discard_holding (p : Port) (bytes : List Byte) (s : State) :
    modPort p SlotLink.discard (Holding p bytes s) = modPort p SlotLink.discard s := by
  simp [Holding, modPort, SlotLink.keep, SlotLink.discard]

/-- What the receiver holds has no bearing on a good frame. -/
theorem takeRequest_holding (p : Port) (bytes : List Byte) (act : State → State) (s : State) :
    takeRequest p act (Holding p bytes s) = takeRequest p act s := by
  have queue : ((Holding p bytes s).port p).tx = (s.port p).tx := by simp [Holding, SlotLink.keep]
  simp only [takeRequest, queue, raisePort_holding]

theorem receiveAll_cons (p : Port) (b : Byte) (bs : List Byte) (s : State) :
    receiveAll p (b :: bs) s = receiveAll p bs (byteReceived p b s) := rfl

theorem receiveAll_marker (hunts : (s.port p).receive = none) (bs : List Byte) :
    receiveAll p (marker :: bs) s = receiveAll p bs (Holding p [] s) := by
  rw [receiveAll_cons, byteReceived_of_hunt hunts, if_pos rfl]
  rfl

/-- Bytes that do not complete the frame are kept one after another. -/
theorem receiveAll_holding {len : Byte} (fits : len.toNat ≤ 250) (bs more held rest : List Byte)
    (first : held ++ bs = len :: rest) (short : rest.length < len.toNat + 4) :
    receiveAll p (bs ++ more) (Holding p held s) = receiveAll p more (Holding p (held ++ bs) s) := by
  induction bs generalizing held with
  | nil => simp
  | cons b bs ih =>
    have step : byteReceived p b (Holding p held s) = Holding p (held ++ [b]) s := by
      obtain ⟨tail, htail, htail_le⟩ : ∃ tail, held ++ [b] = len :: tail ∧ tail.length ≤ rest.length := by
        cases held with
        | nil =>
          simp only [List.nil_append, List.cons.injEq] at first
          exact ⟨[], by simp [first.1], Nat.zero_le _⟩
        | cons x xs =>
          simp only [List.cons_append, List.cons.injEq] at first
          exact ⟨xs ++ [b], by simp [first.1], by rw [← first.2]; simp⟩
      rw [byteReceived_of_partial (holding_receive ..), partialByte_of_short htail fits (Nat.lt_of_le_of_lt htail_le short), keep_holding]
    have grown : held ++ [b] ++ bs = len :: rest := by simpa using first
    rw [List.cons_append, receiveAll_cons, step, ih (held ++ [b]) grown]
    simp

/-- A frame of which all but the last byte has arrived. -/
theorem receiveAll_frame {len kind tag x y : Byte} {body : List Byte} (length : body.length = len.toNat) (fits : len.toNat ≤ 250)
    (hunts : (s.port p).receive = none) :
    receiveAll p (marker :: len :: kind :: tag :: body ++ [x, y]) s =
      .next (if [x, y] = crcBytes (len :: kind :: tag :: body) then goodFrame p tag kind body s else modPort p SlotLink.discard s) := by
  have split : marker :: len :: kind :: tag :: body ++ [x, y] = marker :: ((len :: kind :: tag :: body ++ [x]) ++ [y]) := by simp
  have before := receiveAll_holding (p := p) (s := s) fits (len :: kind :: tag :: body ++ [x]) [y] [] (kind :: tag :: body ++ [x]) rfl
    (by simp; omega)
  have complete : completeFrame (len :: kind :: tag :: body ++ [x] ++ [y])
      = some ⟨kind, tag, body, [x, y] == crcBytes (len :: kind :: tag :: body)⟩ := by
    simp [completeFrame, ← length]
  rw [split, receiveAll_marker hunts, before, receiveAll_cons, List.nil_append, byteReceived_of_partial (holding_receive ..)]
  have started : ¬ (len :: kind :: tag :: body ++ [x] = [] ∧ Config.bodyMax < y.toNat) := by simp
  simp only [partialByte, if_neg started, complete, receiveAll, beq_iff_eq, discard_holding, goodFrame, takeRequest_holding]

theorem crcBytes_eq_pair (bytes : List Byte) : ∃ x y, crcBytes bytes = [x, y] := ⟨_, _, rfl⟩

/-- Settles O10: from HUNT the bytes of a frame are kept until the last, which takes the frame or discards it. -/
theorem frameByBytesIsItsCommand : Obligations.FrameByBytesIsItsCommand := by
  unfold Obligations.FrameByBytesIsItsCommand
  intro p tag kind body s short hunts
  have length : body.length = (BitVec.ofNat 8 body.length).toNat := by rw [BitVec.toNat_ofNat]; omega
  have fits : (BitVec.ofNat 8 body.length).toNat ≤ 250 := length ▸ short
  constructor
  · obtain ⟨x, y, crc⟩ := crcBytes_eq_pair (BitVec.ofNat 8 body.length :: kind :: tag :: body)
    have layout : frameBytes kind tag body = marker :: BitVec.ofNat 8 body.length :: kind :: tag :: body ++ [x, y] := by
      simp only [frameBytes, crc, List.cons_append]
    rw [layout, receiveAll_frame length fits hunts, if_pos crc.symm]
    cases decoded : decodeRequest kind body with
    | none => exact goodFrame_of_none p tag kind body s
    | some r => exact goodFrame_of_request decoded s
  · intro x y bad
    rw [receiveAll_frame length fits hunts, if_neg bad]
    rfl

/-! ### The transmitter (R161, R181) -/

theorem exec_transmitFrameDone (p : Port) (s : State) :
    exec (.transmitFrameDone p) s = .next (s.withPort p (s.port p).frameDone) := rfl

theorem SlotLink.frameDone_of_empty {u : SlotLink} (empty : u.tx = []) : u.frameDone = u := by simp [SlotLink.frameDone, empty]

theorem SlotLink.frameDone_of_cons {u : SlotLink} {f : TxFrame} {rest : List TxFrame} (first : u.tx = f :: rest) :
    u.frameDone = if u.segmentsSent + 1 < f.wire.length then
        { u with segmentsSent := u.segmentsSent + 1, lastSent := f.wire.getD u.segmentsSent [] }
      else { u with tx := rest, segmentsSent := 0, lastSent := f.wire.getD u.segmentsSent [] } := by
  simp only [SlotLink.frameDone, first]

theorem State.withPort_self (s : State) (p : Port) : s.withPort p (s.port p) = s := by
  simp [State.withPort, State.port]

/-- With fuel for every 250 bytes and one segment more, the segments carry the whole body. -/
theorem segments_carry (n : Nat) (tag : Byte) (body : List Byte) (enough : body.length / 250 < n) :
    ∃ (parts : List (List Byte)) (last : List Byte),
      segments n tag body = parts.map (fun b => frameBytes 0x81#8 tag b) ++ [frameBytes 0x80#8 tag last]
        ∧ parts.flatten ++ last = body ∧ (∀ b, b ∈ parts → b.length = 250) ∧ last.length ≤ 250 := by
  induction n generalizing body with
  | zero => omega
  | succ n ih =>
    by_cases short : body.length ≤ 250
    · exact ⟨[], body, by simp [segments, Config.bodyMax, short, kindDone], rfl, by simp, short⟩
    · obtain ⟨parts, last, wire, whole, full, rest⟩ := ih (body.drop 250) (by rw [List.length_drop]; omega)
      refine ⟨body.take 250 :: parts, last, ?_, ?_, ?_, rest⟩
      · simp [segments, Config.bodyMax, short, wire, kindDonePart]
      · simp [whole]
      · simpa using ⟨show 250 ≤ body.length by omega, full⟩

/-- Settles O12: a DONE reply's segments are 250 bytes each until the rest fits one. -/
theorem transmitterSendsTheQueueInOrder : Obligations.TransmitterSendsTheQueueInOrder := by
  unfold Obligations.TransmitterSendsTheQueueInOrder
  refine ⟨fun p s => ⟨fun empty => ?_, fun f rest first => ?_⟩, fun tag items => ?_⟩
  · rw [exec_transmitFrameDone, SlotLink.frameDone_of_empty empty, State.withPort_self]
  · rw [exec_transmitFrameDone, SlotLink.frameDone_of_cons first]
  · exact segments_carry _ tag (bytesOfItems items) (Nat.lt_succ_self _)

end Sys2Proof.Machine
end

section
/-! PROOFS. The replies that read (R34, R56, R114, R164, R173, R174): each of the model's layouts is R180's layout of its fields; the walk
of READ_LOG; the map's runs and the changes of a range. -/

namespace Sys2Proof.Machine

variable {s : State} {p : Port}

/-! ### R180's layout and the model's items -/

theorem laid_nil (n : Nat) : laid n [] = [] := rfl
theorem laid_cons (n : Nat) (f : Sent) (fs : List Sent) : laid n (f :: fs) = f.laid n ++ laid (n + 1) fs := rfl
theorem laid_one (n : Nat) (v : Int) : (Sent.one v).laid n = [⟨n, v⟩] := rfl
theorem laid_absent (n : Nat) : Sent.absent.laid n = [] := rfl

theorem laidMembers_eq (ms : List (List Sent)) : laidMembers ms = (ms.map (laid 1)).flatMap (fun m => ⟨255, 0⟩ :: m ++ [⟨254, 0⟩]) := by
  induction ms with
  | nil => rfl
  | cons m ms ih => simp [laidMembers, ih]

theorem listAt_eq (n : Nat) (ms : List (List Sent)) : listAt n (ms.map (laid 1)) = (Sent.list ms).laid n := by
  simp [listAt, Sent.laid, laidMembers_eq]

theorem listAt_map {α : Type} (n : Nat) (xs : List α) (f : α → List Item) (g : α → List Sent) (same : ∀ x, f x = laid 1 (g x)) :
    listAt n (xs.map f) = (Sent.list (xs.map g)).laid n := by
  rw [← listAt_eq, List.map_map]
  exact congrArg (listAt n) (List.map_congr_left (fun x _ => same x))

theorem listAt_group (n : Nat) (fields : List Sent) : listAt n [laid 1 fields] = (Sent.group fields).laid n := listAt_eq n [fields]

theorem itemsFrom_nil (n : Nat) : itemsFrom n [] = [] := rfl
theorem itemsFrom_cons (n : Nat) (v : Option Int) (vs : List (Option Int)) :
    itemsFrom n (v :: vs) = (Sent.opt v).laid n ++ itemsFrom (n + 1) vs := by
  cases v <;> rfl

theorem opt_some (v : Int) : Sent.opt (some v) = .one v := rfl
theorem opt_nat (n : Nat) : Sent.opt (nat n) = .one n := rfl
theorem opt_bit (b : Bool) : Sent.opt (bit b) = .bit b := by cases b <;> rfl
theorem opt_optNat (v : Option Nat) : Sent.opt (optNat v) = .optNat v := rfl

theorem item_eq_jobValue (j : JobId) : j.item = jobValue j := by
  have low : j.head % 65536 < 2 ^ 16 := Nat.mod_lt _ (by decide)
  have value : (BitVec.ofNat 16 j.seq ++ BitVec.ofNat 16 j.head).toNat = j.head % 65536 + 65536 * (j.seq % 65536) := by
    rw [BitVec.toNat_append, BitVec.toNat_ofNat, BitVec.toNat_ofNat, ← Nat.shiftLeft_add_eq_or_of_lt low, Nat.shiftLeft_eq]
    omega
  rw [JobId.item, jobValue, BitVec.toInt_eq_toNat_cond, value, signedOfNat]
  split <;> split <;> omega

/-! ### The fields of jobs, legs and records -/

theorem legRef_items (r : LegRef) : r.items = laid 1 [.one (jobValue r.job), .one r.dir.code] := by
  simp only [LegRef.items, itemsFrom_cons, itemsFrom_nil, opt_some, opt_nat, laid_cons, laid_nil, item_eq_jobValue]

theorem listAt_leg (n : Nat) (r : LegRef) : listAt n [r.items] = (Sent.leg r).laid n := by
  rw [legRef_items, listAt_group]; rfl

theorem stepRecord_items (x : StepRecord) : x.items = laid 1 (stepRecordFields x) := by
  simp only [StepRecord.items, stepRecordFields, itemsFrom_cons, itemsFrom_nil, opt_some, opt_nat, laid_cons, laid_nil]

theorem legEntry_items (e : LegEntry) : e.items = laid 1 (legEntryFields e) := by
  simp only [LegEntry.items, legEntryFields, itemsFrom_cons, itemsFrom_nil, opt_some, opt_nat, opt_bit, laid_cons, laid_nil]

theorem observed_items (o : Observed) :
    o.items = laid 1 [.one (jobValue o.job), .group [.one o.first, .one o.count], .opt o.baseline] := by
  have run : listAt 2 [itemsFrom 1 [nat o.first, nat o.count]] = (Sent.group [.one o.first, .one o.count]).laid 2 := rfl
  rw [Observed.items, run]
  simp only [itemsFrom_cons, itemsFrom_nil, opt_some, laid_cons, laid_nil, item_eq_jobValue, List.append_nil, List.append_assoc,
    Nat.reduceAdd]

theorem stepState_items (st : StepState) : st.items = laid 1 (stepFields st) := by
  simp only [StepState.items, stepFields, listAt_map 6 st.observed _ _ observed_items, itemsFrom_cons, itemsFrom_nil, opt_some, opt_nat,
    laid_cons, laid_nil, List.append_nil, List.append_assoc, Nat.reduceAdd]

theorem optListAt_none (n : Nat) : optListAt n none = Sent.absent.laid n := rfl
theorem optListAt_some (n : Nat) (m : List Item) : optListAt n (some m) = listAt n [m] := rfl

theorem timers_laid (xs : List (Nat × Option Nat)) :
    xs.filterMap (fun x => x.2.map (fun t => itemsFrom 1 [nat x.1, nat t]))
      = ((xs.map (fun x => ((x.1 : Int), x.2))).filterMap
          (fun (x : Int × Option Nat) => x.2.map (fun t => [Sent.one x.1, .one t]))).map (laid 1) := by
  rw [List.filterMap_map, List.map_filterMap]
  congr 1
  funext x
  obtain ⟨n, t⟩ := x
  cases t <;> rfl

theorem timers_items (n : Nat) (l : LineLeg) :
    listAt n l.timers = (Sent.list ([(0, l.settle), (1, l.spacing), (2, l.retry), (3, l.darkTimer), (4, l.headroom)].filterMap
      (fun (x : Int × Option Nat) => x.2.map (fun t => [Sent.one x.1, .one t])))).laid n := by
  rw [← listAt_eq]
  exact congrArg (listAt n) (timers_laid [(0, l.settle), (1, l.spacing), (2, l.retry), (3, l.darkTimer), (4, l.headroom)])

theorem lineLeg_items (dir : Dir) (l : LineLeg) : l.items dir = laid 1 (lineFields dir l) := by
  cases stepping : l.step with
  | none =>
    simp only [LineLeg.items, lineFields, stepping, Option.map_none, optListAt_none, timers_items,
      listAt_map 19 l.history _ _ stepRecord_items, itemsFrom_cons, itemsFrom_nil, opt_some, opt_nat, opt_bit, laid_cons, laid_nil,
      List.append_nil, List.append_assoc, Nat.reduceAdd]
  | some st =>
    simp only [LineLeg.items, lineFields, stepping, Option.map_some, optListAt_some, stepState_items, listAt_group, timers_items,
      listAt_map 19 l.history _ _ stepRecord_items, itemsFrom_cons, itemsFrom_nil, opt_some, opt_nat, opt_bit, laid_cons, laid_nil,
      List.append_nil, List.append_assoc, Nat.reduceAdd]

theorem leg_items (dir : Dir) (leg : Leg) : legItems (dir, leg) = laid 1 (legFields dir leg) := by
  cases leg with
  | line l => exact lineLeg_items dir l
  | drop d => rfl

theorem failure_items (n : Nat) (f : Option Failure) : failureItems n f = laid n (causeFields f) := by
  cases f with
  | none => rfl
  | some f =>
    have cause : itemsFrom 1 [nat f.cause.code.toNat, f.lastVerdict]
        = laid 1 [.one f.cause.code.toNat, if f.cause = .retriesExhausted then .one f.verdict.toNat else .absent] := by
      by_cases exhausted : f.cause = .retriesExhausted
      · simp only [Failure.lastVerdict, if_pos exhausted]; rfl
      · simp only [Failure.lastVerdict, if_neg exhausted]; rfl
    rw [failureItems, cause, listAt_group]
    rfl

theorem length_causeFields (f : Option Failure) : (causeFields f).length = 2 := by cases f <;> rfl

theorem laid_append (n : Nat) (xs ys : List Sent) : laid n (xs ++ ys) = laid n xs ++ laid (n + xs.length) ys := by
  induction xs generalizing n with
  | nil => rfl
  | cons x xs ih => simp only [List.cons_append, laid_cons, ih, List.append_assoc, List.length_cons, Nat.add_right_comm, Nat.add_assoc]

theorem record_items (r : ResultRecord) : r.items = laid 1 (resultFields r) := by
  have legs : (if r.outcome = .refused then [] else listAt 7 (r.legs.map LegEntry.items))
      = (if r.outcome = .refused then Sent.absent else .list (r.legs.map legEntryFields)).laid 7 := by
    split
    · rfl
    · exact listAt_map 7 r.legs _ _ legEntry_items
  have preceding : (if r.preceding = [] then [] else listAt 9 (r.preceding.map StepRecord.items))
      = (if r.preceding = [] then Sent.absent else .list (r.preceding.map stepRecordFields)).laid 9 := by
    split
    · rfl
    · exact listAt_map 9 r.preceding _ _ stepRecord_items
  simp only [ResultRecord.items, resultFields, legs, preceding, failure_items, laid_append, length_causeFields, List.length_cons, List.length_nil, itemsFrom_cons, itemsFrom_nil, opt_some, opt_nat, laid_cons, laid_nil, item_eq_jobValue, List.append_nil, List.append_assoc,
    Nat.reduceAdd, timeItem]

theorem route_items (n : Nat) (hops : List RawHop) :
    listAt n (hops.map (fun h => (Sent.one h.item).laid 1)) = (Sent.list (hops.map (fun h => [.one h.item]))).laid n :=
  listAt_map n hops _ _ (fun _ => rfl)

theorem context_items (c : Context) : c.items = laid 1 (contextFields c) := by
  unfold Context.items contextFields
  rcases c.route with _ | hops <;> rcases c.rev with _ | leg <;> dsimp only [Option.map_none, Option.map_some, optListAt_some] <;>
    rw [failure_items, leg_items] <;>
    simp only [route_items, optListAt_none, leg_items, listAt_group, laid_append, length_causeFields, List.length_cons, List.length_nil,
      itemsFrom_cons, itemsFrom_nil, opt_some, opt_nat, opt_bit, opt_optNat, laid_cons, laid_nil, laid_absent, item_eq_jobValue,
      List.append_nil, List.nil_append, List.append_assoc, Nat.reduceAdd]

theorem jobList_items (jobs : List Context) : jobListItems jobs = laid 1 (jobListFields jobs) := by
  have row (c : Context) : itemsFrom 1 [some c.id.item, nat c.place.role, nat c.phase.code]
      = laid 1 [.one (jobValue c.id), .one c.place.role, .one c.phase.code] := by
    simp only [itemsFrom_cons, itemsFrom_nil, opt_some, opt_nat, laid_cons, laid_nil, item_eq_jobValue]
  rw [jobListItems, listAt_map 2 jobs _ _ row]
  simp only [jobListFields, itemsFrom_cons, itemsFrom_nil, opt_nat, laid_cons, laid_nil, List.append_nil]

/-! ### The fields of the node and of a degree -/

theorem slotLink_items (u : SlotLink) :
    u.items = laid 1 [.bit u.up, .optNat u.silence, .one u.tx.length, .one u.discarded, .one u.overrun, .one u.noticesDropped] := by
  simp only [SlotLink.items, itemsFrom_cons, itemsFrom_nil, opt_bit, opt_optNat, opt_nat, laid_cons, laid_nil]

/-- The requester's part of QUERY_NODE's reply (R164). -/
def requesterSent (m : Monitor) : Sent :=
  match m.flight with
  | none => .absent
  | some f => match f.request.requester with
    | .leg r => .leg r
    | .watch d => .group [.absent, .absent, .one d.toNat]
    | .probe => .absent

theorem requester_items (n : Nat) (m : Monitor) : optListAt n (requesterItems m) = (requesterSent m).laid n := by
  rcases flying : m.flight with _ | f
  · simp only [requesterItems, requesterSent, flying]; rfl
  · rcases asked : f.request.requester with r | d | _
    · simp only [requesterItems, requesterSent, flying, asked]; exact listAt_leg n r
    · simp only [requesterItems, requesterSent, flying, asked]; rfl
    · simp only [requesterItems, requesterSent, flying, asked]; rfl

theorem node_items (s : State) : nodeItems s = laid 1 (nodeFields s) := by
  have split : nodeFields s = (nodeFields s).take 16 ++ [requesterSent s.monitor, .list (Port.all.map (fun p =>
      [.bit (s.port p).up, .optNat (s.port p).silence, .one (s.port p).tx.length, .one (s.port p).discarded, .one (s.port p).overrun,
        .one (s.port p).noticesDropped]))] := rfl
  rw [nodeItems, listAt_map 18 Port.all _ _ (fun p => slotLink_items (s.port p)), requester_items, split, laid_append]
  simp only [nodeFields, List.take_succ_cons, List.take_zero, NodeParams.fields, List.cons_append, List.nil_append, itemsFrom_cons,
    itemsFrom_nil, opt_some, opt_nat, opt_bit, laid_cons, laid_nil, List.append_nil, List.append_assoc, List.length_cons, List.length_nil,
    Nat.reduceAdd, timeItem]

theorem flag_items (x : ErrorFlags) :
    flagItems x = laid 1 [.bit x.corrected, .bit x.uncorrectable, .bit x.bodyBad, .bit x.unknownKind] := by
  simp only [flagItems, itemsFrom_cons, itemsFrom_nil, opt_bit, laid_cons, laid_nil]

theorem counts_items (n : LinkCounts) :
    n.items = laid 1 [.one n.corrected, .one n.uncorrectable, .one n.bodyBad, .one n.unknownKind, .one n.dropped] := by
  simp only [LinkCounts.items, itemsFrom_cons, itemsFrom_nil, opt_nat, laid_cons, laid_nil]

theorem listAt_check (n : Nat) (h : HeadroomCheck) :
    listAt n [h.items]
      = (Sent.group [.leg h.leg, .one h.requested, .one h.total, .one h.limit, .bit (!h.granted), .one h.time.toInt]).laid n := by
  rw [← listAt_group]
  simp only [HeadroomCheck.items, listAt_leg, itemsFrom_cons, itemsFrom_nil, opt_some, opt_bit, laid_cons, laid_nil, Nat.reduceAdd, timeItem]

theorem token_items (s : State) (t : Option Token) :
    listAt 3 (tokenItems s t) = (Sent.list (t.toList.map (fun t => [.leg t.leg, .one t.cls.code,
      .opt (((s.leg? t.leg).bind (·.step)).map (fun x => (x.kind.code : Int))),
      .opt (((s.leg? t.leg).bind (·.step)).map (fun x => (x.stage.code : Int)))]))).laid 3 := by
  cases t with
  | none => rfl
  | some t =>
    rw [← listAt_eq]
    simp only [tokenItems, listAt_leg, itemsFrom_cons, itemsFrom_nil, opt_nat, laid_cons, laid_nil, Nat.reduceAdd, Option.toList_some,
      List.map_cons, List.map_nil]

theorem dark_code (x : Dark) : Sent.one x.code = .bit (x == .dark) := by cases x <;> rfl

theorem degree_items (d : Degree) (s : State) : degreeItems d s = laid 1 (degreeFields d s) := by
  have up (e : UpEntry) : listAt 1 [e.leg.items] ++ itemsFrom 2 [nat e.kind.code] = laid 1 [.leg e.leg, .one e.kind.code] := by
    rw [listAt_leg]; rfl
  have wait (e : UpEntry) : listAt 1 [e.leg.items] ++ itemsFrom 2 [nat e.kind.code, optNat ((s.leg? e.leg).bind (·.headroom))]
      = laid 1 [.leg e.leg, .one e.kind.code, .optNat ((s.leg? e.leg).bind (·.headroom))] := by
    simp only [listAt_leg, itemsFrom_cons, itemsFrom_nil, opt_nat, opt_optNat, laid_cons, laid_nil, Nat.reduceAdd]
  have backoff (r : LegRef) : listAt 1 [r.items] ++ itemsFrom 2 [optNat ((s.leg? r).bind (·.retry))]
      = laid 1 [.leg r, .optNat ((s.leg? r).bind (·.retry))] := by
    simp only [listAt_leg, itemsFrom_cons, itemsFrom_nil, opt_optNat, laid_cons, laid_nil, Nat.reduceAdd]
  unfold degreeItems degreeFields
  dsimp only
  rw [token_items, listAt_map 4 (s.arb d).down _ _ legRef_items, listAt_map 5 (s.arb d).up _ _ up, listAt_map 6 (s.arb d).wait _ _ wait,
    listAt_map 7 (s.arb d).backoff _ _ backoff, flag_items, flag_items, counts_items, listAt_group,
    listAt_group, listAt_group]
  rcases (s.arb d).lastCheck with _ | h <;>
    simp only [Option.map_none, Option.map_some, optListAt_none, optListAt_some, listAt_check, itemsFrom_cons, itemsFrom_nil, opt_nat, opt_bit,
      opt_optNat, dark_code, laid_cons, laid_nil, List.append_nil, List.append_assoc, Nat.reduceAdd]

/-! ### The walk of READ_LOG (R174) -/

/-- The records that the walk back from a slot finds, each with its slot. -/
def Results.found (x : Results) : Nat → Nat → Nat → List (Nat × ResultRecord)
  | 0, _, _ => []
  | n + 1, slot, room =>
    match x.slots.getD (slot - 1) none with
    | none => []
    | some r =>
      if room < (recordItems slot r).length + 2 then []
      else (slot, r) :: (if slot = x.oldest then [] else x.found n (prevSlot slot) (room - ((recordItems slot r).length + 2)))

theorem Results.found_of_empty {x : Results} {slot : Nat} (empty : x.slots.getD (slot - 1) none = none) (n room : Nat) :
    x.found (n + 1) slot room = [] := by
  simp only [Results.found, empty]

theorem Results.found_of_record {x : Results} {slot : Nat} {r : ResultRecord} (held : x.slots.getD (slot - 1) none = some r) (n room : Nat) :
    x.found (n + 1) slot room =
      if room < (recordItems slot r).length + 2 then []
      else (slot, r) :: (if slot = x.oldest then [] else x.found n (prevSlot slot) (room - ((recordItems slot r).length + 2))) := by
  simp only [Results.found, held]

theorem Results.walk_of_record {x : Results} {slot : Nat} {r : ResultRecord} (held : x.slots.getD (slot - 1) none = some r) (n room : Nat) :
    x.walk (n + 1) slot room =
      if room < (recordItems slot r).length + 2 then []
      else recordItems slot r ::
        (if slot = x.oldest then [] else x.walk n (prevSlot slot) (room - ((recordItems slot r).length + 2))) := by
  simp only [Results.walk, held]

theorem Results.walk_eq_found (x : Results) (n slot room : Nat) :
    x.walk n slot room = (x.found n slot room).map (fun y => recordItems y.1 y.2) := by
  induction n generalizing slot room with
  | zero => rfl
  | succ n ih =>
    rcases held : x.slots.getD (slot - 1) none with _ | r
    · rw [Results.found_of_empty held]
      simp only [Results.walk, held, List.map_nil]
    · rw [Results.found_of_record held, Results.walk_of_record held, ih]
      split
      · rfl
      · split <;> rfl

/-- The items of the members that records make in the list of a READ_LOG reply. -/
def recordsLength (found : List (Nat × ResultRecord)) : Nat := (found.map (fun y => (recordItems y.1 y.2).length + 2)).sum

theorem recordsLength_cons (slot : Nat) (r : ResultRecord) (found : List (Nat × ResultRecord)) :
    recordsLength ((slot, r) :: found) = (recordItems slot r).length + 2 + recordsLength found := by simp [recordsLength]

/-- The slot `i` places before `slot`, one step at a time. -/
theorem slotBack_succ {slot : Nat} (low : 1 ≤ slot) (high : slot ≤ 32) (i : Nat) : slotBack slot (i + 1) = slotBack (prevSlot slot) i := by
  simp only [slotBack, prevSlot, Config.logSlots]
  split <;> omega

theorem slotBack_zero {slot : Nat} (low : 1 ≤ slot) (high : slot ≤ 32) : slotBack slot 0 = slot := by
  simp only [slotBack]; omega

theorem prevSlot_bounds {slot : Nat} (high : slot ≤ 32) : 1 ≤ prevSlot slot ∧ prevSlot slot ≤ 32 := by
  simp only [prevSlot, Config.logSlots]; split <;> omega

/-- A slot before one that holds a record, the oldest aside, holds one. -/
theorem Results.prevSlot_held {x : Results} (sound : x.Sound) {slot : Nat} (low : 1 ≤ slot) (high : slot ≤ 32)
    (held : (x.slots.getD (slot - 1) none).isSome = true) (newer : slot ≠ x.oldest) :
    (x.slots.getD (prevSlot slot - 1) none).isSome = true := by
  obtain ⟨-, index_le, filled, -⟩ := sound
  simp only [Config.logSlots] at index_le
  obtain ⟨before_low, before_high⟩ := prevSlot_bounds high
  rcases filled with ⟨-, all⟩ | upto
  · exact all _ (by simp only [Config.logSlots]; omega)
  · have below : slot - 1 < x.index := (upto _ (by simp only [Config.logSlots]; omega)).mp held
    refine (upto _ (by simp only [Config.logSlots]; omega)).mpr ?_
    by_cases first : slot = 1
    · subst first
      exfalso
      apply newer
      by_cases full : x.index < 32
      · have empty : ¬ (x.slots.getD x.index none).isSome = true := fun h => absurd ((upto x.index full).mp h) (Nat.lt_irrefl _)
        have wraps : nextSlot x.index - 1 = x.index := by simp [nextSlot, Config.logSlots, full]
        rw [Results.oldest, wraps, if_neg empty]
      · simp [Results.oldest, nextSlot, Config.logSlots, full]
    · simp only [prevSlot]; split <;> omega

/-- What the walk back from a slot finds: records slot by slot, none past the oldest, as many as asked, as there are or as fit. -/
structure Results.Walked (x : Results) (n slot room : Nat) (found : List (Nat × ResultRecord)) : Prop where
  asked   : found.length ≤ n
  fits    : recordsLength found ≤ room
  records : ∀ i y, found[i]? = some y → y.1 = slotBack slot i ∧ x.slots[y.1 - 1]? = some (some y.2)
  newer   : ∀ i y, found[i]? = some y → i + 1 < found.length → y.1 ≠ x.oldest
  ends    : found.length < n → (found = [] ∧ x.slots.getD (slot - 1) none = none) ∨ (∃ y, found.getLast? = some y ∧ y.1 = x.oldest)
              ∨ ∃ r, x.slots.getD (slotBack slot found.length - 1) none = some r
                  ∧ room < recordsLength (found ++ [(slotBack slot found.length, r)])

theorem getElem?_of_getD_some {α : Type} {xs : List (Option α)} {i : Nat} {a : α} (h : xs.getD i none = some a) : xs[i]? = some (some a) := by
  rw [List.getD_eq_getElem?_getD] at h
  cases at_i : xs[i]? with
  | none => simp [at_i] at h
  | some y => simpa [at_i] using h

theorem Results.walked_found {x : Results} (sound : x.Sound) (n : Nat) {slot : Nat} (room : Nat) (low : 1 ≤ slot) (high : slot ≤ 32) :
    x.Walked n slot room (x.found n slot room) := by
  induction n generalizing slot room with
  | zero => exact ⟨Nat.le_refl _, Nat.zero_le _, by simp [Results.found], by simp [Results.found], by simp [Results.found]⟩
  | succ n ih =>
    rcases held : x.slots.getD (slot - 1) none with _ | r
    · rw [Results.found_of_empty held]
      exact ⟨Nat.zero_le _, Nat.zero_le _, by simp, by simp, fun _ => .inl ⟨rfl, held⟩⟩
    · rw [Results.found_of_record held]
      have at_slot : x.slots[slot - 1]? = some (some r) := getElem?_of_getD_some held
      have start := slotBack_zero low high
      by_cases large : room < (recordItems slot r).length + 2
      · rw [if_pos large]
        refine ⟨Nat.zero_le _, Nat.zero_le _, by simp, by simp, fun _ => .inr (.inr ⟨r, ?_, ?_⟩)⟩
        · simpa [start] using held
        · simpa [start, recordsLength] using large
      · rw [if_neg large]
        by_cases oldest : slot = x.oldest
        · rw [if_pos oldest]
          refine ⟨by simp, by simp [recordsLength]; omega, fun i y at_i => ?_, by simp, fun _ => .inr (.inl ⟨_, rfl, oldest⟩)⟩
          obtain ⟨rfl, rfl⟩ : i = 0 ∧ (slot, r) = y := by
            cases i <;> simp_all
          exact ⟨start.symm, at_slot⟩
        · rw [if_neg oldest]
          obtain ⟨prev_low, prev_high⟩ := prevSlot_bounds high
          have before := ih (room - ((recordItems slot r).length + 2)) prev_low prev_high
          have prev_held := Results.prevSlot_held sound low high (by rw [held]; rfl) oldest
          generalize x.found n (prevSlot slot) (room - ((recordItems slot r).length + 2)) = rest at before
          refine ⟨?_, ?_, fun i y at_i => ?_, fun i y at_i more => ?_, fun fewer => ?_⟩
          · have := before.asked
            simp only [List.length_cons]; omega
          · have := before.fits
            rw [recordsLength_cons]; omega
          · cases i with
            | zero =>
              simp only [List.getElem?_cons_zero, Option.some.injEq] at at_i
              subst at_i
              exact ⟨start.symm, at_slot⟩
            | succ i =>
              rw [List.getElem?_cons_succ] at at_i
              rw [slotBack_succ low high]
              exact before.records i y at_i
          · cases i with
            | zero =>
              simp only [List.getElem?_cons_zero, Option.some.injEq] at at_i
              subst at_i
              exact oldest
            | succ i =>
              rw [List.getElem?_cons_succ] at at_i
              exact before.newer i y at_i (by simp only [List.length_cons] at more; omega)
          · have fewer_rest : rest.length < n := by simp only [List.length_cons] at fewer; omega
            rcases before.ends fewer_rest with ⟨-, empty⟩ | ⟨y, last, at_oldest⟩ | ⟨q, q_held, q_large⟩
            · rw [empty] at prev_held
              exact absurd prev_held (by simp)
            · exact .inr (.inl ⟨y, by rw [List.getLast?_cons, last]; rfl, at_oldest⟩)
            · refine .inr (.inr ⟨q, ?_, ?_⟩)
              · rw [List.length_cons, slotBack_succ low high]
                exact q_held
              · rw [List.cons_append, recordsLength_cons, List.length_cons, slotBack_succ low high]
                omega

theorem recordItems_eq (slot : Nat) (r : ResultRecord) : recordItems slot r = laid 1 [.group (resultFields r), .one slot] := by
  rw [recordItems, record_items, listAt_group]
  rfl

/-- The reply of READ_LOG with the records given. -/
def logReply (x : Results) (found : List (Nat × ResultRecord)) : List Item :=
  laid 1 [.one x.index, .one found.length, .list (found.map (fun y => [.group (resultFields y.2), .one y.1]))]

theorem length_logReply (x : Results) (found : List (Nat × ResultRecord)) : (logReply x found).length = 3 + recordsLength found := by
  have members (ys : List (Nat × ResultRecord)) :
      (laidMembers (ys.map (fun y => [.group (resultFields y.2), .one (y.1 : Int)]))).length = recordsLength ys := by
    induction ys with
    | nil => rfl
    | cons y ys ih =>
      rw [recordsLength_cons, List.map_cons, laidMembers, recordItems_eq]
      simp only [List.length_cons, List.length_append, ih]
      omega
  simp only [logReply, laid_cons, laid_nil, Sent.laid, List.append_nil, List.length_append, List.length_cons, List.length_nil, members]
  omega

theorem logItems_eq (x : Results) (start count : Nat) :
    logItems x start count
      = logReply x (x.found (if count = 0 then 32 else count) (if start = 0 then x.index else start) 797) := by
  have layout (found : List (Nat × ResultRecord)) :
      itemsFrom 1 [nat x.index, nat found.length] ++ listAt 3 (found.map (fun y => recordItems y.1 y.2)) = logReply x found := by
    rw [listAt_map 3 found _ _ (fun y => recordItems_eq y.1 y.2)]
    simp only [logReply, itemsFrom_cons, itemsFrom_nil, opt_nat, laid_cons, laid_nil, List.append_nil, List.append_assoc, Nat.reduceAdd]
  simp only [logItems, Results.walk_eq_found, List.length_map, layout, Config.logSlots, Config.replyMax]

/-- The walk finds nothing in an empty log. -/
theorem Results.found_of_index_zero {x : Results} (sound : x.Sound) (empty : x.index = 0) (n room : Nat) : x.found n 0 room = [] := by
  obtain ⟨-, -, filled, -⟩ := sound
  cases n with
  | zero => rfl
  | succ n =>
    refine Results.found_of_empty ?_ n room
    rcases filled with ⟨low, -⟩ | upto
    · omega
    · have none_there := (upto 0 (by decide)).not.mpr (by omega)
      simpa using none_there

theorem Results.oldest_eq {x : Results} (sound : x.Sound) :
    x.oldest = if (x.slots.getD (x.index % 32) none).isSome then x.index % 32 + 1 else 1 := by
  obtain ⟨-, index_le, -, -⟩ := sound
  simp only [Config.logSlots] at index_le
  rw [Results.oldest]
  by_cases full : x.index = 32
  · simp [nextSlot, Config.logSlots, full]
  · have below : x.index < 32 := by omega
    simp [nextSlot, Config.logSlots, below, Nat.mod_eq_of_lt below]

/-- The records that READ_LOG's reply carries (R174). -/
theorem logItems_report {x : Results} {start count : Nat} (sound : x.Sound) (start_le : start ≤ 32) :
    let first := if start = 0 then x.index else start
    let wanted := if count = 0 then 32 else count
    ∃ found, logItems x start count = logReply x found ∧ found.length ≤ wanted ∧ (logReply x found).length ≤ 800
      ∧ (∀ i y, found[i]? = some y → 1 ≤ first ∧ y.1 = slotBack first i ∧ x.slots[y.1 - 1]? = some (some y.2))
      ∧ (∀ i y, found[i]? = some y → i + 1 < found.length → y.1 ≠ x.oldest)
      ∧ (found.length < wanted → (found = [] ∧ (first = 0 ∨ x.slots.getD (first - 1) none = none))
          ∨ (∃ y, found.getLast? = some y ∧ y.1 = x.oldest)
          ∨ ∃ r, x.slots.getD (slotBack first found.length - 1) none = some r
              ∧ 800 < (logReply x (found ++ [(slotBack first found.length, r)])).length) := by
  intro first wanted
  refine ⟨x.found wanted first 797, logItems_eq x start count, ?_⟩
  simp only [length_logReply]
  by_cases none_there : first = 0
  · have index_zero : x.index = 0 := by
      simp only [first] at none_there
      split at none_there <;> omega
    rw [none_there, Results.found_of_index_zero sound index_zero]
    exact ⟨Nat.zero_le _, Nat.le_of_ble_eq_true rfl, by simp, by simp, fun _ => .inl ⟨rfl, .inl rfl⟩⟩
  · have low : 1 ≤ first := Nat.pos_of_ne_zero none_there
    have high : first ≤ 32 := by
      have index_le : x.index ≤ 32 := sound.2.1
      simp only [first]
      split <;> omega
    obtain ⟨asked, fits, records, newer, ends⟩ := Results.walked_found sound wanted 797 low high
    refine ⟨asked, by omega, fun i y at_i => ⟨low, records i y at_i⟩, newer, fun fewer => ?_⟩
    rcases ends fewer with ⟨nothing, empty⟩ | last | ⟨r, held, large⟩
    · exact .inl ⟨nothing, .inr empty⟩
    · exact .inr (.inl last)
    · exact .inr (.inr ⟨r, held, by omega⟩)

theorem doReadLog_eq (tag : Byte) (a n : Int) (s : State) :
    doReadLog p tag a n s = if 0 ≤ a ∧ a ≤ 32 ∧ 0 ≤ n ∧ n ≤ 32 then replyDone p tag (logItems s.results a.toNat n.toNat) s
      else replyRefused p tag .badRange s := by
  have both : (logNumberOk a && logNumberOk n) = true ↔ 0 ≤ a ∧ a ≤ 32 ∧ 0 ≤ n ∧ n ≤ 32 := by
    simp [logNumberOk, and_assoc]
  simp only [doReadLog, both]

/-- Settles O14: each reply is the layout of its fields; the walk of READ_LOG goes back slot by slot from its start. -/
theorem readingRequestsReportTheirFields : Obligations.ReadingRequestsReportTheirFields := by
  unfold Obligations.ReadingRequestsReportTheirFields
  refine ⟨fun p tag s room => ⟨?nop, ?node, ?jobs, fun id => ?job, fun n => ?degree, fun a n => ?log⟩, node_items, context_items, jobList_items,
    degree_items, fun x start count sound start_le _ => ?_⟩
  case nop =>
    refine (exec_command_of_hasRoom tag room .nop).trans ?_
    exact congrArg _ (replyDone_raisePort p tag [] s)
  case node =>
    refine (exec_command_of_hasRoom tag room .queryNode).trans ?_
    exact congrArg _ (replyDone_raisePort p tag _ s)
  case jobs =>
    refine (exec_command_of_hasRoom tag room (.queryJob none)).trans ?_
    exact congrArg _ (replyDone_raisePort p tag _ s)
  case job =>
    refine (exec_command_of_hasRoom tag room (.queryJob (some id))).trans (congrArg _ ?_)
    have same : (raisePort p s).ctx? id = s.ctx? id := rfl
    simp only [runRequest, doQueryJob, same]
    cases s.ctx? id with
    | none => exact replyRefused_raisePort p tag _ s
    | some c => exact replyDone_raisePort p tag _ s
  case degree =>
    refine (exec_command_of_hasRoom tag room (.queryDegree n)).trans (congrArg _ ?_)
    simp only [runRequest, doQueryDegree]
    cases Degree.ofInt n with
    | none => exact replyRefused_raisePort p tag _ s
    | some d => exact replyDone_raisePort p tag _ s
  case log =>
    refine (exec_command_of_hasRoom tag room (.readLog a n)).trans (congrArg _ ?_)
    simp only [runRequest, doReadLog_eq]
    split
    · exact replyDone_raisePort p tag _ s
    · exact replyRefused_raisePort p tag _ s
  · have report := logItems_report (count := count) sound start_le
    rw [Results.oldest_eq sound] at report
    exact report

/-! ### Changes of runs of the map (R23 to R33) -/

/-- A change that is the same made twice as made once changes just the entries of its runs. -/
theorem SpectrumMap.changeRuns_runsChange {f : SliceEntry → SliceEntry} (once : ∀ e, f (f e) = f e) (first count : Nat)
    (runs : List (Degree × MapDir)) (m : SpectrumMap) : RunsChange first count runs f m (m.changeRuns f first count runs) := by
  induction runs generalizing m with
  | nil => intro d dir k; simp [SpectrumMap.changeRuns]
  | cons run runs ih =>
    intro d dir k
    have rest := ih (m.change f first count run) d dir k
    rw [SpectrumMap.change_getElem?] at rest
    rw [show m.changeRuns f first count (run :: runs) = (m.change f first count run).changeRuns f first count runs from rfl, rest]
    by_cases within : first ≤ k ∧ k < first + count
    · by_cases named : (d, dir) = run <;> by_cases more : (d, dir) ∈ runs <;> simp [within, named, more, once, Function.comp_def]
    · simp [within]

theorem SpectrumMap.change_runsChange (f : SliceEntry → SliceEntry) (first count : Nat) (d : Degree) (dir : MapDir) (m : SpectrumMap) :
    RunsChange first count [(d, dir)] f m (m.change f first count (d, dir)) := by
  intro e side k
  rw [SpectrumMap.change_getElem?]
  simp only [List.mem_singleton]

theorem SliceEntry.block_eq (e : SliceEntry) : e.block = if e = .free then .blocked .admin else e := by cases e <;> rfl
theorem SliceEntry.unblock_eq (e : SliceEntry) : e.unblock = if e.isBlocked then .free else e := by cases e <;> rfl

/-! ### QUERY_MAP (R34) -/

theorem runItems_eq (x : SliceEntry × Nat) : runItems x = runSent x := by
  obtain ⟨e, n⟩ := x
  rcases e with _ | _ | j | j | j | j | (_ | _) <;>
    simp [runItems, runSent, SliceEntry.code, SliceEntry.job?, itemsFrom, nat, item_eq_jobValue]

theorem sliceRuns_expand (es : List SliceEntry) : (sliceRuns es).flatMap (fun x => List.replicate x.2 x.1) = es := by
  induction es with
  | nil => rfl
  | cons e es ih =>
    rcases runs : sliceRuns es with _ | ⟨⟨f, n⟩, rest⟩ <;> rw [runs] at ih
    · simpa [sliceRuns, runs] using ih
    · by_cases same : e = f
      · subst same
        simpa [sliceRuns, runs, List.replicate_succ] using ih
      · simpa [sliceRuns, runs, same] using ih

theorem sliceRuns_positive (es : List SliceEntry) : ∀ x, x ∈ sliceRuns es → 1 ≤ x.2 := by
  induction es with
  | nil => simp [sliceRuns]
  | cons e es ih =>
    rcases runs : sliceRuns es with _ | ⟨⟨f, n⟩, rest⟩ <;> rw [runs] at ih
    · simp [sliceRuns, runs]
    · by_cases same : e = f
      · simp only [sliceRuns, runs, if_pos same, List.forall_mem_cons] at ih ⊢
        exact ⟨by omega, ih.2⟩
      · simp only [sliceRuns, runs, if_neg same, List.forall_mem_cons] at ih ⊢
        exact ⟨Nat.le_refl _, ih⟩

theorem sliceRuns_chain (es : List SliceEntry) : (sliceRuns es).IsChain (fun x y => x.1 ≠ y.1) := by
  induction es with
  | nil => exact .nil
  | cons e es ih =>
    rcases runs : sliceRuns es with _ | ⟨⟨f, n⟩, rest⟩ <;> rw [runs] at ih
    · simp [sliceRuns, runs]
    · by_cases same : e = f
      · simp only [sliceRuns, runs, if_pos same]
        cases rest with
        | nil => exact .singleton _
        | cons y rest => exact List.isChain_cons_cons.mpr (List.isChain_cons_cons.mp ih)
      · simp only [sliceRuns, runs, if_neg same]
        exact List.isChain_cons_cons.mpr ⟨same, ih⟩

theorem mapItems_eq (r : RangeFields) (entries : List SliceEntry) :
    mapItems r entries = [⟨1, r.degree⟩, ⟨2, r.direction⟩, ⟨3, r.first⟩, ⟨4, r.count⟩] ++ (sliceRuns entries).flatMap runSent := by
  rw [mapItems, funext runItems_eq]
  rfl

/-! ### The field checks of a range (R1, R32) -/

section
variable {ok : Int → Int → Bool} {r : RangeFields} {tag : Byte}

theorem rangeOk_iff (lo hi : Nat) (first count : Int) :
    rangeOk lo hi first count = true ↔ 0 ≤ first ∧ first ≤ 383 ∧ lo ≤ count ∧ count ≤ hi ∧ first + count ≤ 384 := decide_eq_true_iff

theorem rangeOk_eq_false_iff (lo hi : Nat) (first count : Int) :
    rangeOk lo hi first count = false ↔ ¬ (0 ≤ first ∧ first ≤ 383 ∧ lo ≤ count ∧ count ≤ hi ∧ first + count ≤ 384) := decide_eq_false_iff_not

theorem checkRange_of_ok {d : Degree} {dir : MapDir} (direction : MapDir.ofInt r.direction = some dir) (degree : Degree.ofInt r.degree = some d)
    (range : ok r.first r.count = true) : checkRange ok r = .ok (d, dir) := by
  simp only [checkRange, direction, degree, range, if_true]

theorem checkRange_of_noDirection (none_coded : MapDir.ofInt r.direction = none) : checkRange ok r = .error .badRequest := by
  simp only [checkRange, none_coded]

theorem checkRange_of_badRange {dir : MapDir} (direction : MapDir.ofInt r.direction = some dir)
    (bad : Degree.ofInt r.degree = none ∨ ok r.first r.count = false) : checkRange ok r = .error .badRange := by
  rcases degree : Degree.ofInt r.degree with _ | d
  · simp only [checkRange, direction, degree]
  · have outside : ok r.first r.count = false := bad.resolve_left (by simp [degree])
    simp [checkRange, direction, degree, outside]

theorem queryMap_refused (room : HasRoom p s) {e : Reason} (bad : checkRange mapQueryOk r = .error e) :
    exec (.queryMap p tag r) s = .next (Answered p tag (.refused e) s) := by
  refine (exec_command_of_hasRoom tag room (.queryMap r)).trans (congrArg _ ?_)
  simp only [runRequest, doQueryMap, bad, replyRefused_raisePort]

theorem changeByRequest_refused {e : Reason} (bad : checkRange mapChangeOk r = .error e) (f : SliceEntry → SliceEntry) :
    changeByRequest p tag r f (raisePort p s) = Answered p tag (.refused e) s := by
  simp only [changeByRequest, bad, replyRefused_raisePort]

theorem changes_refused (room : HasRoom p s) {e : Reason} (bad : checkRange mapChangeOk r = .error e) :
    exec (.block p tag r) s = .next (Answered p tag (.refused e) s) ∧ exec (.unblock p tag r) s = .next (Answered p tag (.refused e) s) :=
  ⟨(exec_command_of_hasRoom tag room (.block r)).trans (congrArg _ (changeByRequest_refused bad _)),
   (exec_command_of_hasRoom tag room (.unblock r)).trans (congrArg _ (changeByRequest_refused bad _))⟩

theorem changeByRequest_taken {d : Degree} {dir : MapDir} (fields : checkRange mapChangeOk r = .ok (d, dir)) (f : SliceEntry → SliceEntry) :
    changeByRequest p tag r f (raisePort p s) =
      { Answered p tag (.done [⟨1, unchanged f (((s.map.table d dir).drop r.first.toNat).take r.count.toNat)⟩]) s with
        map := s.map.change f r.first.toNat r.count.toNat (d, dir) } := by
  simp only [changeByRequest, fields]
  exact replyDone_raisePort p tag _ (modMap (fun m => m.change f r.first.toNat r.count.toNat (d, dir)) s)

end

/-- Settles O15: the runs are the stretches of equal entries. -/
theorem queryMapReportsTheRange : Obligations.QueryMapReportsTheRange := by
  unfold Obligations.QueryMapReportsTheRange
  intro p tag d dir r s room degree direction first_low first_high count_low count_high inside
  have range : mapQueryOk r.first r.count = true := by
    rw [mapQueryOk, rangeOk_iff]; omega
  refine ⟨sliceRuns (s.map.read d dir r.first.toNat r.count.toNat), ?_, sliceRuns_expand _, sliceRuns_positive _, sliceRuns_chain _⟩
  refine (exec_command_of_hasRoom tag room (.queryMap r)).trans (congrArg _ ?_)
  simp only [runRequest, doQueryMap, checkRange_of_ok direction degree range, mapItems_eq]
  exact replyDone_raisePort p tag _ s

theorem unchanged_block (entries : List SliceEntry) : unchanged SliceEntry.block entries = entries.countP (fun e => e ≠ .free) := by
  refine List.countP_congr (fun e _ => ?_)
  cases e <;> simp [SliceEntry.block]

theorem unchanged_unblock (entries : List SliceEntry) : unchanged SliceEntry.unblock entries = entries.countP (fun e => !e.isBlocked) := by
  refine List.countP_congr (fun e _ => ?_)
  cases e <;> simp [SliceEntry.unblock, SliceEntry.isBlocked]

/-- Settles O16: the range is checked, and then just its entries change. -/
theorem blockAndUnblockChangeTheirRange : Obligations.BlockAndUnblockChangeTheirRange := by
  unfold Obligations.BlockAndUnblockChangeTheirRange
  refine ⟨?taken, fun p tag r s room => ⟨fun none_coded => ?direction, ?range, ?query⟩⟩
  case taken =>
    intro p tag d dir r s room degree direction first_low first_high count_low count_high inside
    have range : mapChangeOk r.first r.count = true := by
      rw [mapChangeOk, rangeOk_iff]; omega
    have fields := checkRange_of_ok direction degree range
    refine ⟨⟨s.map.change SliceEntry.block r.first.toNat r.count.toNat (d, dir), ?_, ?_⟩,
      ⟨s.map.change SliceEntry.unblock r.first.toNat r.count.toNat (d, dir), ?_, ?_⟩⟩
    · rw [← funext SliceEntry.block_eq]
      exact SpectrumMap.change_runsChange _ _ _ d dir s.map
    · refine (exec_command_of_hasRoom tag room (.block r)).trans (congrArg _ ?_)
      rw [← unchanged_block]
      exact changeByRequest_taken fields _
    · rw [← funext SliceEntry.unblock_eq]
      exact SpectrumMap.change_runsChange _ _ _ d dir s.map
    · refine (exec_command_of_hasRoom tag room (.unblock r)).trans (congrArg _ ?_)
      rw [← unchanged_unblock]
      exact changeByRequest_taken fields _
  case direction =>
    exact ⟨queryMap_refused room (checkRange_of_noDirection none_coded), changes_refused room (checkRange_of_noDirection none_coded)⟩
  case range =>
    rintro ⟨dir, direction⟩ bad
    have query : Degree.ofInt r.degree = none ∨ mapQueryOk r.first r.count = false :=
      bad.imp_right (fun outside => by rw [mapQueryOk, rangeOk_eq_false_iff]; omega)
    have change : Degree.ofInt r.degree = none ∨ mapChangeOk r.first r.count = false :=
      bad.imp_right (fun outside => by rw [mapChangeOk, rangeOk_eq_false_iff]; omega)
    exact ⟨queryMap_refused room (checkRange_of_badRange direction query), changes_refused room (checkRange_of_badRange direction change)⟩
  case query =>
    rintro ⟨dir, direction⟩ long
    have range : mapQueryOk r.first r.count = false := by
      rw [mapQueryOk, rangeOk_eq_false_iff]; omega
    exact queryMap_refused room (checkRange_of_badRange direction (.inr range))

end Sys2Proof.Machine
end

section
/-! PROOFS. Rules of jobs, links and arbiters in the form the statements have them, and SET_DEGREE (R113, R147). -/

namespace Sys2Proof.Machine

variable {s t : State} {p : Port} {d : Degree} {id : JobId} {r : LegRef}

/-! ### Contexts and legs changed (R37, R46) -/

theorem modCtx_jobs (id : JobId) (f : Context → Context) (s : State) : (modCtx id f s).jobs = setJob id f s.jobs := rfl
theorem modLeg_jobs (r : LegRef) (f : LineLeg → LineLeg) (s : State) : (modLeg r f s).jobs = setLeg r f s.jobs := rfl

theorem foldl_modLeg {α : Type} (leg : α → LegRef) (f : LineLeg → LineLeg) (xs : List α) (s : State) :
    xs.foldl (fun s e => modLeg (leg e) f s) s = { s with jobs := xs.foldl (fun jobs e => setLeg (leg e) f jobs) s.jobs } := by
  induction xs generalizing s with
  | nil => rfl
  | cons x xs ih => exact ih (modLeg (leg x) f s)

theorem foldl_setLeg_outer {α : Type} (leg : α → LegRef) (f : LineLeg → LineLeg) (xs : List α) (jobs : List Context) :
    (xs.foldl (fun jobs e => setLeg (leg e) f jobs) jobs).map Context.outer = jobs.map Context.outer := by
  induction xs generalizing jobs with
  | nil => rfl
  | cons x xs ih => exact (ih _).trans (modLeg_outer (leg x) f { State.reset with jobs := jobs })

theorem uses_of_outer_eq {b c : Context} (same : b.outer = c.outer) (d : Degree) : b.uses d = c.uses d := by
  have kept (x : Context) : x.outer.uses d = x.uses d := rfl
  rw [← kept b, same, kept]

theorem mem_of_outer_map {js ks : List Context} (same : js.map Context.outer = ks.map Context.outer) {c : Context} (hc : c ∈ js) :
    ∃ b, b ∈ ks ∧ b.outer = c.outer :=
  List.mem_map.mp (same ▸ List.mem_map_of_mem hc)

theorem unused_of_outer_map {js ks : List Context} (same : js.map Context.outer = ks.map Context.outer)
    (unused : ∀ c, c ∈ ks → c.uses d = false) : ∀ c, c ∈ js → c.uses d = false := by
  intro c hc
  obtain ⟨b, hb, outer⟩ := mem_of_outer_map same hc
  exact (uses_of_outer_eq outer d) ▸ unused b hb

/-! ### The arbiter's part of SET_DEGREE (R107, R113) -/

theorem requeue_eq (d : Degree) (s : State) :
    requeue d s = { s with
      jobs := (s.arb d).wait.foldl (fun jobs e => setLeg e.leg LineLeg.requeued jobs) s.jobs
      arbiters := s.arbiters.set d (s.arb d).requeue } := by
  rw [requeue, foldl_modLeg (fun e : UpEntry => e.leg)]
  rfl

/-- The arbiter of a degree after its policy, ceiling or guard has been set (R113). -/
def Arbiter.changed (holdBefore holdAfter moved : Bool) (a : Arbiter) : Arbiter :=
  { a with
    up := if moved then a.up ++ a.wait else a.up
    wait := if moved then [] else a.wait
    held := if holdAfter = holdBefore then a.held else holdAfter && !a.backoff.isEmpty }

theorem arbiterChanged_eq (d : Degree) (before after : DegreeParams) (s : State) :
    let moved := decide (after.outputCeiling ≠ before.outputCeiling ∨ after.guardBand ≠ before.guardBand)
    arbiterChanged d before after s = { s with
      jobs := if moved then (s.arb d).wait.foldl (fun jobs e => setLeg e.leg LineLeg.requeued jobs) s.jobs else s.jobs
      arbiters := s.arbiters.set d ((s.arb d).changed before.holdAll after.holdAll moved) } := by
  intro moved
  by_cases stays : before.outputCeiling = after.outputCeiling ∧ before.guardBand = after.guardBand
  · have unmoved : moved = false := by simp [moved, stays.1, stays.2]
    by_cases policy : before.holdAll = after.holdAll
    · have same : s.arbiters.set d ((s.arb d).changed before.holdAll after.holdAll moved) = s.arbiters := by
        have stays_so : (s.arb d).changed before.holdAll after.holdAll moved = s.arb d := by simp [Arbiter.changed, unmoved, policy]
        rw [stays_so]
        exact PerDegree.set_get ..
      rw [same]
      simp [arbiterChanged, stays.1, stays.2, policy, unmoved]
    · simp [arbiterChanged, stays.1, stays.2, policy, Ne.symm policy, unmoved, Arbiter.changed, Arbiter.rehold, modArb, State.arb]
  · have moves : moved = true := by
      simp only [moved, decide_eq_true_eq]
      by_contra h
      push Not at h
      exact stays ⟨h.1.symm, h.2.symm⟩
    by_cases policy : before.holdAll = after.holdAll
    · simp [arbiterChanged, if_neg stays, policy, moves, Arbiter.changed, Arbiter.requeue, requeue_eq, State.arb]
    · simp [arbiterChanged, if_neg stays, policy, Ne.symm policy, moves, Arbiter.changed, Arbiter.rehold, Arbiter.requeue, requeue_eq,
        modArb, State.arb]

/-! ### The link unit's part (R147, R155) -/

theorem linkLoss_of_unused (unused : ∀ c, c ∈ s.jobs → c.uses d = false) : linkLoss d s = s := by
  have none_uses : s.jobs.filter (fun c => c.uses d) = [] := List.filter_eq_nil_iff.mpr (fun c hc => by simp [unused c hc])
  simp [linkLoss, none_uses]

/-- The unit of a degree that becomes disabled, its link lost where it was UP (R147, R155). -/
def Link.disabled (l : Link) : Link := if l.up then l.disable.lose else l.disable

theorem disableLink_of_unused (unused : ∀ c, c ∈ s.jobs → c.uses d = false) :
    disableLink d s = (if (s.link d).up then announce .link (some d) 0 else fun s => s) (modLink d Link.disabled s) := by
  have up_same : ((modLink d Link.disable s).link d).up = (s.link d).up := by simp [Link.disable]
  by_cases up : (s.link d).up = true
  · have lost : modLink d Link.lose (modLink d Link.disable s) = modLink d Link.disabled s := by
      rw [State.link] at up
      simp [modLink, Link.disabled, up]
    have kept : linkLoss d (modLink d Link.disabled s) = modLink d Link.disabled s := linkLoss_of_unused (by simpa using unused)
    simp only [disableLink, up_same, up, if_true, linkDown, lost, kept]
  · have kept : modLink d Link.disable s = modLink d Link.disabled s := by
      rw [State.link] at up
      simp [modLink, Link.disabled, up]
    have still_down : ((modLink d Link.disabled s).link d).up ≠ true := by rw [← kept, up_same]; exact up
    simp only [disableLink, kept, if_neg still_down, if_neg up]

/-- What the link unit's part of SET_DEGREE leaves: links of other degrees, arbiters, jobs, map, devices and log. -/
structure OnlyLinksAndPorts (s t : State) : Prop where
  degrees     : t.degrees = s.degrees
  jobs        : t.jobs = s.jobs
  arbiters    : t.arbiters = s.arbiters
  map         : t.map = s.map
  monitor     : t.monitor = s.monitor
  watches     : t.watches = s.watches
  actuators   : t.actuators = s.actuators
  results     : t.results = s.results
  frozenOrder : t.frozenOrder = s.frozenOrder

theorem enabledChanged_only {before after : Bool} (unused : before = true → after = false → ∀ c, c ∈ s.jobs → c.uses d = false) :
    OnlyLinksAndPorts s (enabledChanged d before after s) := by
  unfold enabledChanged
  split
  · exact ⟨rfl, rfl, rfl, rfl, rfl, rfl, rfl, rfl, rfl⟩
  · next change =>
    split
    · exact ⟨rfl, rfl, rfl, rfl, rfl, rfl, rfl, rfl, rfl⟩
    · next off =>
      have was_on : before = true := by cases before <;> cases after <;> simp_all
      rw [disableLink_of_unused (unused was_on (by simpa using off))]
      split <;> exact ⟨rfl, rfl, rfl, rfl, rfl, rfl, rfl, rfl, rfl⟩

/-! ### SET_DEGREE taken (R166) -/

/-- The state of a SET_DEGREE before its grant pass. -/
def degreeSet (p : Port) (tag : Byte) (d : Degree) (f : DegreeFields) (s : State) : State :=
  let after := DegreeParams.apply f (s.deg d)
  enabledChanged d (s.deg d).enabled after.enabled (arbiterChanged d (s.deg d) after
    (storeDegree d after (Answered p tag (.done (⟨1, d.toNat⟩ :: itemsFrom 2 after.fields)) s)))

theorem takeSetDegree_eq (p : Port) (tag : Byte) (d : Degree) (f : DegreeFields) (s : State) :
    takeSetDegree p tag d f (raisePort p s) = settleDegree d (degreeSet p tag d f s) := by
  unfold takeSetDegree
  dsimp only
  rw [show replyDone p tag _ (storeDegree d _ (raisePort p s)) = storeDegree d _ (replyDone p tag _ (raisePort p s)) from rfl,
    replyDone_raisePort]
  rfl

theorem exec_setDegree_settles {v : Int} (tag : Byte) {f : DegreeFields} (room : HasRoom p s) (named : Degree.ofInt v = some d)
    (coded : degreeCodesOk f = true) (free : ¬ (f.enabled = some 0 ∧ (s.deg d).enabled = true ∧ ∃ c, c ∈ s.jobs ∧ c.uses d = true)) :
    exec (.setDegree p tag v f) s = .next (settleDegree d (degreeSet p tag d f s)) := by
  rw [exec_setDegree_takes tag room named coded (mt disableBusy_iff.mp free), takeSetDegree_eq]

/-- The state of a SET_DEGREE before the link unit's part. -/
theorem degreeSet_before (p : Port) (tag : Byte) (d : Degree) (f : DegreeFields) (s : State) :
    let x := arbiterChanged d (s.deg d) (DegreeParams.apply f (s.deg d)) (storeDegree d (DegreeParams.apply f (s.deg d))
      (Answered p tag (.done (⟨1, d.toNat⟩ :: itemsFrom 2 (DegreeParams.apply f (s.deg d)).fields)) s))
    x.links = s.links ∧ x.jobs.map Context.outer = s.jobs.map Context.outer := by
  intro x
  have closed := arbiterChanged_eq d (s.deg d) (DegreeParams.apply f (s.deg d)) (storeDegree d (DegreeParams.apply f (s.deg d))
      (Answered p tag (.done (⟨1, d.toNat⟩ :: itemsFrom 2 (DegreeParams.apply f (s.deg d)).fields)) s))
  dsimp only at closed
  constructor
  · simp only [x, closed]; rfl
  · simp only [x, closed]
    split
    · exact foldl_setLeg_outer ..
    · rfl

theorem degreeSet_only (p : Port) (tag : Byte) (d : Degree) {f : DegreeFields} {s : State}
    (free : ¬ (f.enabled = some 0 ∧ (s.deg d).enabled = true ∧ ∃ c, c ∈ s.jobs ∧ c.uses d = true))
    (coded : ∀ x, f.enabled = some x → x = 0 ∨ x = 1) :
    OnlyLinksAndPorts (arbiterChanged d (s.deg d) (DegreeParams.apply f (s.deg d)) (storeDegree d (DegreeParams.apply f (s.deg d))
        (Answered p tag (.done (⟨1, d.toNat⟩ :: itemsFrom 2 (DegreeParams.apply f (s.deg d)).fields)) s)))
      (degreeSet p tag d f s) := by
  refine enabledChanged_only (fun on off => unused_of_outer_map (degreeSet_before p tag d f s).2 (fun c hc => ?_))
  have asked_off : f.enabled = some 0 := by
    simp only [DegreeParams.apply, storeBool] at off
    rcases asked : f.enabled with _ | x
    · simp [asked, on] at off
    · rcases coded x asked with rfl | rfl
      · rfl
      · simp [asked] at off
  by_contra used
  exact free ⟨asked_off, on, c, hc, by simpa using used⟩

/-- SET_DEGREE that enables a disabled degree. -/
theorem degreeSet_enables {f : DegreeFields} (on : f.enabled = some 1) (was_off : (s.deg d).enabled = false) (tag : Byte) :
    (degreeSet p tag d f s).links = s.links.set d (s.link d).enable := by
  have after_on : (DegreeParams.apply f (s.deg d)).enabled = true := by simp [DegreeParams.apply, on, storeBool]
  have links := (degreeSet_before p tag d f s).1
  simp only [degreeSet, enabledChanged, was_off, after_on, Bool.false_eq_true, if_false, if_true]
  simp only [modLink, State.link, links]

/-- SET_DEGREE that disables an enabled degree that no context uses. -/
theorem degreeSet_disables {f : DegreeFields} (off : f.enabled = some 0) (was_on : (s.deg d).enabled = true)
    (unused : ∀ c, c ∈ s.jobs → c.uses d = false) (tag : Byte) :
    (degreeSet p tag d f s).links = s.links.set d (s.link d).disabled := by
  have after_off : (DegreeParams.apply f (s.deg d)).enabled = false := by simp [DegreeParams.apply, off, storeBool]
  obtain ⟨links, outer⟩ := degreeSet_before p tag d f s
  simp only [degreeSet, enabledChanged, was_on, after_off, Bool.false_eq_true, Bool.true_eq_false, if_false]
  rw [disableLink_of_unused (unused_of_outer_map outer unused)]
  have placed (x : State) (same : x.links = s.links) : (modLink d Link.disabled x).links = s.links.set d (s.link d).disabled := by
    simp only [modLink, State.link, same]
  split
  · rw [announce_links, placed _ links]
  · exact placed _ links

theorem degreeSet_keeps_links {f : DegreeFields}
    (kept : f.enabled = none ∨ ∃ b : Bool, f.enabled = some (b.toNat : Int) ∧ (s.deg d).enabled = b) (tag : Byte) :
    (degreeSet p tag d f s).links = s.links := by
  have same : (s.deg d).enabled = (DegreeParams.apply f (s.deg d)).enabled := by
    simp only [DegreeParams.apply, storeBool]
    rcases kept with absent | ⟨b, given, stood⟩
    · simp [absent]
    · cases b <;> simp [given, stood]
  simp only [degreeSet, enabledChanged, if_pos same, (degreeSet_before p tag d f s).1]

theorem degree_ofInt_eq_none {v : Int} (outside : v < 1 ∨ 4 < v) : Degree.ofInt v = none := by
  simp only [Degree.ofInt]
  rw [if_neg (by omega), if_neg (by omega), if_neg (by omega), if_neg (by omega)]

/-- Settles O18: the act is the arbiter's part, the link unit's, and the grant pass, which leaves the links. -/
theorem setDegreeTurnsTheLinkUnit : Obligations.SetDegreeTurnsTheLinkUnit := by
  unfold Obligations.SetDegreeTurnsTheLinkUnit
  refine ⟨fun p tag v f s room => ?codes, fun p tag v d f s room named policy => ⟨?on, ?off, ?same, ?arbiter⟩⟩
  case codes =>
    have codes : degreeCodesOk f = true ↔ (f.enabled = none ∨ f.enabled = some 0 ∨ f.enabled = some 1)
        ∧ (f.holdPolicy = none ∨ f.holdPolicy = some 0 ∨ f.holdPolicy = some 1) := by
      rw [degreeCodesOk_iff]
      cases f.enabled <;> cases f.holdPolicy <;> simp
    constructor
    · intro uncoded
      refine (exec_command_of_hasRoom tag room (.setDegree v f)).trans (congrArg _ ?_)
      simp only [runRequest, doSetDegree, if_neg (mt codes.mp uncoded), replyRefused_raisePort]
    · intro enabled holdPolicy outside
      refine (exec_command_of_hasRoom tag room (.setDegree v f)).trans (congrArg _ ?_)
      simp only [runRequest, doSetDegree, if_pos (codes.mpr ⟨enabled, holdPolicy⟩), degree_ofInt_eq_none outside, replyRefused_raisePort]
  case on =>
    intro on was_off
    have coded : degreeCodesOk f = true := degreeCodesOk_iff.mpr ⟨by simp [on], policy⟩
    refine ⟨_, exec_setDegree_settles tag room named coded (by simp [on]), ?_⟩
    rw [(settleDegree_quiet d _).2.1, degreeSet_enables on was_off]
    rfl
  case off =>
    intro off was_on unused
    have coded : degreeCodesOk f = true := degreeCodesOk_iff.mpr ⟨by simp [off], policy⟩
    have free : ¬ (f.enabled = some 0 ∧ (s.deg d).enabled = true ∧ ∃ c, c ∈ s.jobs ∧ c.uses d = true) := by
      rintro ⟨-, -, c, hc, used⟩
      simp [unused c hc] at used
    refine ⟨_, (s.link d).disabled, exec_setDegree_settles tag room named coded free, ?_, ?_⟩
    · rw [(settleDegree_quiet d _).2.1, degreeSet_disables off was_on unused]
    · by_cases up : (s.link d).up = true <;> simp [Link.disabled, Link.disable, Link.lose, up]
  case same =>
    intro kept
    have coded : degreeCodesOk f = true := degreeCodesOk_iff.mpr ⟨by
      rcases kept with absent | ⟨b, given, -⟩
      · simp [absent]
      · cases b <;> simp [given], policy⟩
    have free : ¬ (f.enabled = some 0 ∧ (s.deg d).enabled = true ∧ ∃ c, c ∈ s.jobs ∧ c.uses d = true) := by
      rintro ⟨off, on, -⟩
      rcases kept with absent | ⟨b, given, stood⟩
      · simp [absent] at off
      · cases b <;> simp_all
    refine ⟨_, exec_setDegree_settles tag room named coded free, ?_⟩
    rw [(settleDegree_quiet d _).2.1, degreeSet_keeps_links kept]
  case arbiter =>
    intro enabled free
    have only := degreeSet_only p tag d free enabled
    have closed := arbiterChanged_eq d (s.deg d) (DegreeParams.apply f (s.deg d)) (storeDegree d (DegreeParams.apply f (s.deg d))
      (Answered p tag (.done (⟨1, d.toNat⟩ :: itemsFrom 2 (DegreeParams.apply f (s.deg d)).fields)) s))
    dsimp only at closed
    rw [closed] at only
    refine ⟨DegreeParams.apply f (s.deg d), degreeSet p tag d f s,
      exec_setDegree_settles tag room named (degreeCodesOk_iff.mpr ⟨enabled, policy⟩) free, only.degrees, stores_storeInt _ _, stores_storeInt _ _,
      rfl, ⟨fun unmoved => ?_, fun moved => ?_, ?_⟩, only.map, only.monitor, only.watches, only.actuators, only.results, only.frozenOrder⟩
    · rw [only.jobs]
      simp only [decide_eq_true_eq, if_neg unmoved]
      rfl
    · rw [only.jobs]
      simp only [decide_eq_true_eq, if_pos moved]
      rfl
    · rw [only.arbiters]
      simp only [Arbiter.changed, decide_eq_true_eq]
      rfl

end Sys2Proof.Machine
end

section
/-! PROOFS. Placing and discarding: READ_COUNTS and the log, device requests, the framer, messages discarded at a link unit. -/

namespace Sys2Proof.Machine

variable {s t : State} {p : Port} {d : Degree} {id : JobId} {r : LegRef} {c : Context}

/-! ### Operations on a job or leg that is there -/

theorem onCtx_of_ctx {k : Context → State → State} (found : s.ctx? id = some c) : onCtx id k s = k c s := by
  simp only [onCtx, found]

theorem onCtx_of_none {k : Context → State → State} (missing : s.ctx? id = none) : onCtx id k s = s := by
  simp only [onCtx, missing]

theorem onLeg_of_leg {k : LineLeg → State → State} {l : LineLeg} (found : s.leg? r = some l) : onLeg r k s = k l s := by
  simp only [onLeg, found]

theorem onLeg_of_none {k : LineLeg → State → State} (missing : s.leg? r = none) : onLeg r k s = s := by
  simp only [onLeg, missing]

/-! ### Units in place -/

theorem modLink_eq_withLink (d : Degree) (f : Link → Link) (s : State) : modLink d f s = s.withLink d (f (s.link d)) := rfl

theorem State.withLink_self (s : State) (d : Degree) : s.withLink d (s.link d) = s := by
  simp [State.withLink, State.link]

theorem modLink_of_fixed {f : Link → Link} (same : f (s.link d) = s.link d) : modLink d f s = s := by
  rw [modLink_eq_withLink, same, State.withLink_self]

theorem modPort_of_fixed {f : SlotLink → SlotLink} (same : f (s.port p) = s.port p) : modPort p f s = s := by
  rw [modPort_eq_withPort, same, State.withPort_self]

/-! ### READ_COUNTS (R173), the log (R169) and the history (R51) -/

theorem countItems_eq (x : Results) : countItems x =
    [⟨1, x.counts.commissioned⟩, ⟨2, x.counts.closed⟩, ⟨3, x.counts.failed⟩, ⟨4, x.counts.aborted⟩, ⟨5, x.counts.refused⟩, ⟨6, x.index⟩] := rfl

theorem exec_readCounts (tag : Byte) (v : Int) (room : HasRoom p s) :
    exec (.readCounts p tag v) s = .next
      (if v = 0 then Answered p tag (.done (countItems s.results)) s
       else if v = 1 then { Answered p tag (.done (countItems s.results)) s with results := s.results.clearCounts }
       else if v = 2 then { Answered p tag (.done (countItems s.results)) s with results := Results.initial }
       else Answered p tag (.refused .badRequest) s) := by
  refine (exec_command_of_hasRoom tag room (.readCounts v)).trans (congrArg _ ?_)
  have same : (raisePort p s).results = s.results := rfl
  simp only [runRequest, doReadCounts, same, replyDone_raisePort, replyRefused_raisePort]
  rfl

/-- The log of the records written so far: the newest 32 in the order written, the index at the newest (R169). -/
structure Results.Holds (x : Results) (rs : List ResultRecord) : Prop where
  index  : x.index = if rs = [] then 0 else (rs.length - 1) % 32 + 1
  length : x.slots.length = 32
  newest : ∀ (k : Nat) r, rs[k]? = some r → rs.length ≤ k + 32 → x.slots[k % 32]? = some (some r)
  empty  : ∀ k, rs.length ≤ k → k < 32 → x.slots[k]? = some none

theorem Results.holds_initial : (⟨List.replicate 32 none, 0, ⟨0, 0, 0, 0, 0⟩⟩ : Results).Holds [] :=
  ⟨rfl, by simp, by simp, fun k _ below => by
    rw [List.getElem?_replicate, if_pos below]⟩

theorem nextSlot_of_holds {x : Results} {rs : List ResultRecord} (held : x.Holds rs) : nextSlot x.index = rs.length % 32 + 1 := by
  have index := held.index
  split at index
  · next none_yet => simp [nextSlot, index, none_yet, Config.logSlots]
  · next some_yet =>
    have : 1 ≤ rs.length := List.length_pos_of_ne_nil some_yet
    simp only [nextSlot, index, Config.logSlots]
    split <;> omega

theorem Results.Holds.write {x : Results} {rs : List ResultRecord} (held : x.Holds rs) (r : ResultRecord) :
    (Results.write r x).Holds (rs ++ [r]) := by
  have slot : nextSlot x.index - 1 = rs.length % 32 := by rw [nextSlot_of_holds held, Nat.add_sub_cancel]
  have written (k : Nat) : (Results.write r x).slots[k]? = if k = rs.length % 32 then some (some r) else x.slots[k]? := by
    simp only [Results.write, slot, List.getElem?_set, held.length]
    split
    · next here => rw [if_pos (by omega), if_pos here.symm]
    · next other => rw [if_neg (Ne.symm other)]
  refine ⟨?_, by simp [Results.write, held.length], fun k q at_k recent => ?_, fun k above below => ?_⟩
  · simp [Results.write, nextSlot_of_holds held]
  · rw [written]
    simp only [List.length_append, List.length_singleton] at recent
    by_cases newest : k = rs.length
    · rw [newest, List.getElem?_concat_length] at at_k
      rw [if_pos (by rw [newest]), at_k]
    · have older : k < rs.length := by
        have := (List.getElem?_eq_some_iff.mp at_k).1
        simp only [List.length_append, List.length_singleton] at this
        omega
      rw [List.getElem?_append_left older] at at_k
      rw [if_neg (by omega)]
      exact held.newest k q at_k (by omega)
  · simp only [List.length_append, List.length_singleton] at above
    rw [written, if_neg (by omega)]
    exact held.empty k (by omega) below

theorem Results.holds_foldl (rs : List ResultRecord) {x : Results} {qs : List ResultRecord} (held : x.Holds qs) :
    (rs.foldl (fun x r => Results.write r x) x).Holds (qs ++ rs) := by
  induction rs generalizing x qs with
  | nil => simpa using held
  | cons r rs ih => simpa using ih (held.write r)

theorem pushRecord_eq {h : List StepRecord} (bounded : h.length ≤ 8) (x : StepRecord) :
    pushRecord h x = if h.length < 8 then h ++ [x] else h.tail ++ [x] := by
  rw [pushRecord, Config.maxHistory]
  split
  · next below => simp [show h.length + 1 - 8 = 0 by omega]
  · next full =>
    have : h.length = 8 := by omega
    cases h with
    | nil => simp at this
    | cons y ys => simp_all

/-- Settles O27: each record written goes into the next slot of the ring. -/
theorem countsLogAndHistoryAreKept : Obligations.CountsLogAndHistoryAreKept := by
  unfold Obligations.CountsLogAndHistoryAreKept
  refine ⟨fun p tag v s room => exec_readCounts tag v room, fun rs => ?_, fun v l st stepping bounded => ?_⟩
  · obtain ⟨index, -, newest, empty⟩ := Results.holds_foldl rs Results.holds_initial
    rw [List.nil_append] at index newest empty
    exact ⟨index, newest, empty⟩
  · simp only [LineLeg.endStep, stepping, pushRecord_eq bounded]
    rfl

/-! ### Device requests (R111, R140, R141, R144) -/

theorem modAct_eq (d : Degree) (f : Actuator → Actuator) (s : State) : modAct d f s = { s with actuators := s.actuators.set d (f (s.act d)) } := rfl

theorem probeTimerExpiry_of_running {s : State} (running : s.monitor.probe ≠ some 0) : probeTimerExpiry s = s := by
  rw [probeTimerExpiry, if_neg]
  rintro ⟨-, out, -⟩
  exact running ((ranOut_iff _).mp out)

theorem watchIntervalExpiry_of_running (running : (s.watch d).interval ≠ some 0) : watchIntervalExpiry d s = s := by
  unfold watchIntervalExpiry
  dsimp only
  rw [if_neg]
  rintro ⟨-, out⟩
  exact running ((ranOut_iff _).mp out)

/-- The state with the watch's scan asked for. -/
def WatchQueued (d : Degree) (s : State) : State :=
  { s with
    monitor := { s.monitor with queue := s.monitor.queue ++ [watchRequest d] }
    watches := s.watches.set d { s.watch d with state := .queued, interval := none } }

/-- A watch interval that has run out queues the watch's scan. -/
theorem watchIntervalExpiry_of_out (waiting : (s.watch d).state = .waiting) (out : (s.watch d).interval = some 0) :
    watchIntervalExpiry d s = issueNext (WatchQueued d s) := by
  unfold watchIntervalExpiry
  dsimp only
  rw [if_pos ⟨waiting, (ranOut_iff _).mpr out⟩]
  rfl

theorem issueNext_of_flight (flying : s.monitor.flight ≠ none) : issueNext s = s := by
  have : s.monitor.flight.isSome = true := Option.isSome_iff_ne_none.mpr flying
  simp [issueNext, this]

theorem issueNext_of_queued {q : ScanRequest} {rest : List ScanRequest} (idle : s.monitor.flight = none) (able : s.monitor.state ≠ .fault)
    (first : s.monitor.queue = q :: rest) :
    issueNext s = markIssued q { s with
      monitor := { s.monitor with queue := rest, flight := some ⟨q, s.monitor.nextIssue, s.node.scanTimeout, false, false⟩,
                                  nextIssue := (s.monitor.nextIssue + 1) % 256 } } := by
  simp only [issueNext, idle, first]
  rw [if_neg (by simpa using able)]
  rfl

/-- Settles O26. -/
theorem faultsClearAndProbesAndWatchesGo : Obligations.FaultsClearAndProbesAndWatchesGo := by
  unfold Obligations.FaultsClearAndProbesAndWatchesGo
  refine ⟨fun p tag n s room => ⟨fun outside => ?outside, fun d named => ⟨fun sound => ?sound, fun faulted => ?faulted⟩⟩,
    fun p tag s => ⟨fun room => ⟨fun n fault running => ?probe, fun other => ?other⟩, fun fault out idle => ?expiry, fun running => ?running⟩,
    fun d s running => congrArg _ (watchIntervalExpiry_of_running running),
    fun d s waiting out => ⟨fun flying => ?queued, fun idle none_queued able => ?issued⟩⟩
  case outside =>
    refine (exec_command_of_hasRoom tag room (.clearFault n)).trans (congrArg _ ?_)
    simp only [runRequest, doClearFault, outside, replyRefused_raisePort]
  case sound =>
    refine (exec_command_of_hasRoom tag room (.clearFault n)).trans (congrArg _ ?_)
    have same : (raisePort p s).act d = s.act d := rfl
    simp only [runRequest, doClearFault, named, same, sound, Bool.false_eq_true, if_false, replyDone_raisePort]
  case faulted =>
    refine (exec_command_of_hasRoom tag room (.clearFault n)).trans (congrArg _ ?_)
    have same : (raisePort p s).act d = s.act d := rfl
    simp only [runRequest, doClearFault, named, same, faulted, if_true, replyDone_raisePort, clearActuator, modAct_eq]
    rfl
  case probe =>
    refine (exec_command_of_hasRoom tag room .clearFaultMonitor).trans (congrArg _ ?_)
    have same : (raisePort p s).monitor = s.monitor := rfl
    have probing : s.monitor.state = .fault ∧ s.monitor.probe.isSome = true := ⟨fault, by rw [running]; rfl⟩
    simp only [runRequest, doClearFaultMonitor, same, if_pos probing, replyDone_raisePort]
    rfl
  case other =>
    refine (exec_command_of_hasRoom tag room .clearFaultMonitor).trans (congrArg _ ?_)
    have same : (raisePort p s).monitor = s.monitor := rfl
    have not_probing : ¬ (s.monitor.state = .fault ∧ s.monitor.probe.isSome = true) := by
      rintro ⟨fault, running⟩
      rcases other with not_fault | stopped
      · exact not_fault fault
      · simp [stopped] at running
    simp only [runRequest, doClearFaultMonitor, same, if_neg not_probing, replyDone_raisePort]
  case expiry =>
    have probing : s.monitor.state = .fault ∧ ranOut s.monitor.probe = true ∧ s.monitor.flight.isNone = true :=
      ⟨fault, (ranOut_iff _).mpr out, by rw [idle]; rfl⟩
    refine congrArg Host.Outcome.next ?_
    rw [probeTimerExpiry, if_pos probing]
    rfl
  case running => exact congrArg _ (probeTimerExpiry_of_running running)
  case queued =>
    refine congrArg Host.Outcome.next ?_
    rw [watchIntervalExpiry_of_out waiting out, issueNext_of_flight (s := WatchQueued d s) flying]
    rfl
  case issued =>
    refine congrArg Host.Outcome.next ?_
    rw [watchIntervalExpiry_of_out waiting out, issueNext_of_queued (s := WatchQueued d s) (q := watchRequest d) (rest := []) idle able
      (by simp [WatchQueued, none_queued])]
    simp [WatchQueued, markIssued, watchRequest, modWatch, State.watch, Config.slices, none_queued]

/-! ### The framer, messages and notices placed (R148, R149, R161, R168) -/

theorem send_of_hears (hears : Hears d s) (m : Message) :
    send d m s = s.withLink d (if (s.link d).queue.length < 32 then { s.link d with queue := (s.link d).queue ++ [m] }
      else { s.link d with counts := { (s.link d).counts with dropped := min ((s.link d).counts.dropped + 1) 65535 } }) := by
  have both : ((s.deg d).enabled && (s.link d).up) = true := by simp [hears.1, hears.2]
  rw [send, modLink_eq_withLink, takeMessage, if_pos both]
  rfl

theorem send_of_deaf (deaf : ¬ Hears d s) (m : Message) : send d m s = s := by
  have neither : ¬ ((s.deg d).enabled && (s.link d).up) = true := by simpa [Hears] using deaf
  rw [send]
  exact modLink_of_fixed (if_neg neither)

theorem notify_of_up (up : (s.port p).up = true) (n : Notice) :
    notify p n s = s.withPort p (if (s.port p).tx.length < 24 then { s.port p with tx := (s.port p).tx ++ [.notice n] }
      else { s.port p with noticesDropped := min ((s.port p).noticesDropped + 1) 65535 }) := by
  rw [notify, modPort_eq_withPort, takeNotice, if_pos up]
  rfl

theorem notify_of_down (down : (s.port p).up = false) (n : Notice) : notify p n s = s :=
  modPort_of_fixed (if_neg (by simp [down]))

theorem Link.handOver_of_hello {l : Link} (pending : l.pendingHello = true) (node : Nat) (d : Degree) :
    l.handOver node d = { l with pendingHello := false, localFlags := noErrors, handed := helloBytes node d.toNat l.localFlags } := by
  rw [Link.handOver, if_pos pending]

theorem Link.handOver_of_queued {l : Link} {m : Message} {rest : List Message} (none_pending : l.pendingHello = false) (first : l.queue = m :: rest)
    (node : Nat) (d : Degree) : l.handOver node d = { l with queue := rest, handed := m.bytes } := by
  simp only [Link.handOver, none_pending, first, Bool.false_eq_true, if_false]

theorem Link.handOver_of_empty {l : Link} (none_pending : l.pendingHello = false) (empty : l.queue = []) (node : Nat) (d : Degree) :
    l.handOver node d = l := by
  simp only [Link.handOver, none_pending, empty, Bool.false_eq_true, if_false]

theorem exec_framerSendRequest (enabled : (s.deg d).enabled = true) :
    exec (.framerSendRequest d) s = .next (s.withLink d ((s.link d).handOver s.node.nodeId d)) := by
  refine congrArg Host.Outcome.next ?_
  rw [framerSendRequest, if_pos enabled]
  rfl

/-- Settles O30. -/
theorem messagesAndNoticesAreQueuedAndSent : Obligations.MessagesAndNoticesAreQueuedAndSent := by
  unfold Obligations.MessagesAndNoticesAreQueuedAndSent
  refine ⟨fun d s enabled => ⟨?hello, fun pending => ?pending, fun none_pending m rest first => ?queued, fun none_pending empty => ?empty⟩,
    fun d m s => ⟨fun hears room => ?placed, fun hears full => ?dropped, fun deaf => send_of_deaf deaf m⟩,
    fun p n s => ⟨fun up room => ?notice, fun up full => ?missed, fun down => notify_of_down down n, fun k d code => ⟨rfl, ?_, ?_⟩⟩⟩
  case hello =>
    refine congrArg Host.Outcome.next ?_
    simp only [helloTimerExpiry, enabled, ranOut_iff, true_and]
    rfl
  case pending => rw [exec_framerSendRequest enabled, Link.handOver_of_hello pending]; rfl
  case queued => rw [exec_framerSendRequest enabled, Link.handOver_of_queued none_pending first]
  case empty => rw [exec_framerSendRequest enabled, Link.handOver_of_empty none_pending empty, State.withLink_self]
  case placed => rw [send_of_hears hears, if_pos room]
  case dropped => rw [send_of_hears hears, if_neg (Nat.not_lt.mpr full)]
  case notice => rw [notify_of_up up, if_pos room]
  case missed => rw [notify_of_up up, if_neg (Nat.not_lt.mpr full)]
  · rw [announce_port, notify, modPort_port]
    simp
  · exact announce_port k d code s p

/-! ### Messages received (R147, R150 to R153) -/

theorem noteHeader_eq (h : Header) (l : Link) : l.noteHeader h = Noted h l := by cases h <;> rfl

theorem withHeader_of_enabled (enabled : (s.deg d).enabled = true) (h : Header) (act : State → State) :
    withHeader d h act s = act (s.withLink d (Noted h (s.link d))) := by
  rw [withHeader, onEnabled, if_pos enabled, modLink_eq_withLink, noteHeader_eq]

theorem withHeader_of_disabled (disabled : (s.deg d).enabled = false) (h : Header) (act : State → State) : withHeader d h act s = s := by
  simp [withHeader, onEnabled, disabled]

@[simp] theorem withLink_link (s : State) (d : Degree) (l : Link) : (s.withLink d l).link d = l := by simp [State.withLink, State.link]

theorem withLink_withLink (s : State) (d : Degree) (l k : Link) : (s.withLink d l).withLink d k = s.withLink d k := by
  simp [State.withLink]

theorem noted_up (h : Header) (l : Link) : (Noted h l).up = l.up := by cases h <;> rfl

theorem receivePath_of_hears (hears : Hears d s) (h : Header) (act : State → State) : receivePath d h act s = act (Heard d h s) := by
  have up : ((s.withLink d (Noted h (s.link d))).link d).up = true := by rw [withLink_link, noted_up]; exact hears.2
  rw [receivePath, withHeader_of_enabled hears.1, if_pos up, restartTimeout, modLink_eq_withLink, withLink_withLink, withLink_link]
  rfl

theorem receivePath_of_down (enabled : (s.deg d).enabled = true) (down : (s.link d).up = false) (h : Header) (act : State → State) :
    receivePath d h act s = s.withLink d (Noted h (s.link d)) := by
  have still : ¬ ((s.withLink d (Noted h (s.link d))).link d).up = true := by rw [withLink_link, noted_up, down]; exact Bool.false_ne_true
  rw [receivePath, withHeader_of_enabled enabled, if_neg still]

/-- A path message is taken by some act behind the link's checks. -/
theorem exec_pathMessage {h : Header} {i : Instr} (path : PathMessage d h i) : ∃ act, ∀ s, exec i s = .next (receivePath d h act s) := by
  rcases path with ⟨f, rfl⟩ | ⟨j, rfl⟩ | ⟨j, k, n, rfl⟩ | ⟨j, rfl⟩ | ⟨j, n, rfl⟩ | ⟨j, rfl⟩ | ⟨j, k, v, n, rfl⟩ | ⟨j, rfl⟩ | ⟨j, rfl⟩ <;>
    exact ⟨_, fun s => rfl⟩

/-- Settles O33. -/
theorem discardedMessagesAreCounted : Obligations.DiscardedMessagesAreCounted := by
  unfold Obligations.DiscardedMessagesAreCounted
  intro d h s
  refine ⟨fun enabled => ⟨?header, ?kind, ?body, fun down i path => ?path⟩, fun disabled => ⟨?noHeader, ?noKind, ?noBody,
    fun node degree flags => congrArg _ (withHeader_of_disabled disabled h _), fun i path => ?noPath⟩⟩
  case header =>
    refine congrArg Host.Outcome.next ?_
    rw [onEnabled, if_pos enabled]
    rfl
  case kind =>
    refine congrArg Host.Outcome.next ?_
    rw [withHeader_of_enabled enabled, modLink_eq_withLink, withLink_withLink, withLink_link]
    rfl
  case body =>
    refine congrArg Host.Outcome.next ?_
    rw [withHeader_of_enabled enabled, modLink_eq_withLink, withLink_withLink, withLink_link]
    rfl
  case path =>
    obtain ⟨act, runs⟩ := exec_pathMessage path
    rw [runs, receivePath_of_down enabled down]
  case noHeader =>
    refine congrArg Host.Outcome.next ?_
    simp [onEnabled, disabled]
  case noKind => exact congrArg _ (withHeader_of_disabled disabled h _)
  case noBody => exact congrArg _ (withHeader_of_disabled disabled h _)
  case noPath =>
    obtain ⟨act, runs⟩ := exec_pathMessage path
    rw [runs, receivePath, withHeader_of_disabled disabled]

end Sys2Proof.Machine
end

section
/-! PROOFS. Path messages (chapters 4 and 5) up to the lock: what each does to the job it finds, and what is discarded. -/

namespace Sys2Proof.Machine

variable {s t : State} {p : Port} {d : Degree} {id : JobId} {r : LegRef} {c : Context}

/-! ### What the changes of an entry are (R23 to R30) -/

theorem SliceEntry.confirm_eq (id : JobId) (e : SliceEntry) : e.confirm id = confirmed id e := by
  cases e <;> simp only [SliceEntry.confirm, confirmed, reduceCtorEq, if_false, SliceEntry.held.injEq]

theorem light_eq (id : JobId) (e : SliceEntry) : e.light id = lit id e := by
  cases e <;> simp only [SliceEntry.light, lit, reduceCtorEq, if_false, SliceEntry.booked.injEq]

theorem SliceEntry.accept_eq (id : JobId) (e : SliceEntry) : e.accept id = accepted id e := by
  cases e <;> simp only [SliceEntry.accept, accepted, reduceCtorEq, or_self, or_false, false_or, if_false, SliceEntry.booked.injEq,
    SliceEntry.lit.injEq]

theorem SliceEntry.release_eq (id : JobId) (e : SliceEntry) : e.release id = released id e := by
  cases e <;> simp only [SliceEntry.release, released, SliceEntry.job?, reduceCtorEq, if_false, Option.some.injEq]

theorem SliceEntry.take_eq (id : JobId) (e : SliceEntry) : e.take id = if e = .free then .held id else e := by cases e <;> rfl
theorem SliceEntry.takeBooked_eq (id : JobId) (e : SliceEntry) : e.takeBooked id = if e = .free then .booked id else e := by cases e <;> rfl


theorem confirmed_confirmed (id : JobId) (e : SliceEntry) : confirmed id (confirmed id e) = confirmed id e := by
  by_cases held : e = .held id <;> simp [confirmed, held]
theorem lit_lit (id : JobId) (e : SliceEntry) : lit id (lit id e) = lit id e := by
  by_cases booked : e = .booked id <;> simp [lit, booked]
theorem accepted_accepted (id : JobId) (e : SliceEntry) : accepted id (accepted id e) = accepted id e := by
  by_cases mine : e = .booked id ∨ e = .lit id <;> simp [accepted, mine]
theorem released_released (id : JobId) (e : SliceEntry) : released id (released id e) = released id e := by
  have free_unnamed : SliceEntry.free.job? ≠ some id := by simp [SliceEntry.job?]
  by_cases named : e.job? = some id
  · simp only [released, if_pos named, if_neg free_unnamed]
  · simp only [released, if_neg named]

/-- The map after a change of a job's entries over some of its runs. -/
def changedMap (c : Context) (runs : List (Degree × MapDir)) (f : SliceEntry → SliceEntry) (m : SpectrumMap) : SpectrumMap :=
  m.changeRuns f c.first c.count runs

theorem changedMap_runsChange {f : SliceEntry → SliceEntry} (once : ∀ e, f (f e) = f e) (c : Context) (runs : List (Degree × MapDir))
    (m : SpectrumMap) : RunsChange c.first c.count runs f m (changedMap c runs f m) :=
  SpectrumMap.changeRuns_runsChange once c.first c.count runs m

theorem changeFor_eq (c : Context) (runs : List (Degree × MapDir)) (f : SliceEntry → SliceEntry) (s : State) :
    changeFor c runs f s = { s with map := changedMap c runs f s.map } := rfl

theorem changeFor_confirm (c : Context) (s : State) :
    changeFor c c.entrySet (SliceEntry.confirm c.id) s = { s with map := changedMap c c.entrySet (confirmed c.id) s.map } := by
  rw [funext (SliceEntry.confirm_eq c.id), changeFor_eq]

theorem changeFor_light (c : Context) (runs : List (Degree × MapDir)) (s : State) :
    changeFor c runs (SliceEntry.light c.id) s = { s with map := changedMap c runs (lit c.id) s.map } := by
  rw [funext (light_eq c.id), changeFor_eq]

theorem changeFor_accept (c : Context) (s : State) :
    changeFor c c.entrySet (SliceEntry.accept c.id) s = { s with map := changedMap c c.entrySet (accepted c.id) s.map } := by
  rw [funext (SliceEntry.accept_eq c.id), changeFor_eq]

theorem releaseSet_eq (c : Context) (s : State) :
    releaseSet c s = { s with map := changedMap c c.entrySet (released c.id) s.map } := by
  rw [releaseSet, funext (SliceEntry.release_eq c.id), changeFor_eq]

/-- Releasing an entry set again changes nothing. -/
theorem releaseSet_twice_runsChange (c : Context) (m : SpectrumMap) :
    RunsChange c.first c.count c.entrySet (released c.id) m
      (changedMap c c.entrySet (released c.id) (changedMap c c.entrySet (released c.id) m)) := by
  intro d dir k
  rw [changedMap_runsChange (released_released c.id) c c.entrySet _ d dir k, changedMap_runsChange (released_released c.id) c c.entrySet m d dir k]
  split
  · cases (m.table d dir)[k]? <;> simp [released_released]
  · rfl

/-! ### Freeing, recording, notifying (R53, R168, R170) -/

theorem freeContext_eq (c : Context) (s : State) : freeContext c s = Freed c.id s := by
  simp only [freeContext, dropCtx, withdraw, modMonitor, Monitor.withdraw, Freed, List.filter_filter, Option.map_map]
  congr 2
  · refine List.filter_congr (fun q _ => ?_)
    by_cases fwd : q.requester = .leg ⟨c.id, .fwd⟩ <;> by_cases rev : q.requester = .leg ⟨c.id, .rev⟩ <;> simp [fwd, rev]
  · congr 1
    funext f
    by_cases fwd : f.request.requester = .leg ⟨c.id, .fwd⟩ <;> by_cases rev : f.request.requester = .leg ⟨c.id, .rev⟩ <;> simp [fwd, rev]

theorem writeResult_refused (c : Context) (f : Failure) (s : State) :
    writeResult c .refused (some f) s = Recorded ⟨c.id, c.place.role, .refused, some f, s.time, [], none, []⟩ s := by
  simp [writeResult, legEntries, modResults, Recorded]

theorem writeResult_plain (c : Context) {o : JobOutcome} (named : o ≠ .failed) (kept : o ≠ .refused) (s : State) :
    writeResult c o none s = Recorded (plainRecord c o s.time) s := by
  simp [writeResult, named, legEntries, kept, modResults, Recorded, plainRecord, LineLeg.entry]

theorem writeResult_failed_uncopied {c : Context} (uncopied : c.failSteps = []) (f : Failure) (s : State) :
    writeResult c .failed (some f) s = Recorded { plainRecord c .failed s.time with failure := some f } s := by
  simp [writeResult, uncopied, legEntries, modResults, Recorded, plainRecord, LineLeg.entry]

theorem notifyOwner_map (owner : Option Port) (n : Notice) (m : SpectrumMap) (jobs : List Context) (s : State) :
    notifyOwner owner n { s with map := m, jobs := jobs } = { notifyOwner owner n s with map := m, jobs := jobs } := by
  cases owner <;> rfl

theorem setJob_setJob {f g : Context → Context} (keeps : ∀ b, (g b).id = b.id) (id : JobId) (jobs : List Context) :
    setJob id f (setJob id g jobs) = setJob id (fun b => f (g b)) jobs := by
  simp only [setJob, List.map_map]
  refine List.map_congr_left (fun b _ => ?_)
  by_cases mine : b.id = id <;> simp [mine, keeps]

/-! ### Discarded (R70 to R96, R184) -/

theorem acceptPathUp_of_noRow {d : Degree} {c : Context} (none_fits : pathUpRow d c = none ∨ c.allAtTarget = false) (s : State) :
    acceptPathUp d c s = s := by
  rcases row : pathUpRow d c with _ | onward
  · simp only [acceptPathUp, row]
  · have low : ¬ c.allAtTarget = true := by simpa [row] using none_fits
    simp only [acceptPathUp, row, if_neg low]

theorem pathUpRow_eq_none {d : Degree} {c : Context} (none_fits : ¬ ((c.bidir = false ∧ c.phase = .bringupFwd ∧ c.place.down? = some d)
    ∨ (c.bidir = true ∧ c.phase = .bringupRev ∧ c.place.up? = some d))) : pathUpRow d c = none := by
  unfold pathUpRow
  split
  · next u e bidir place phase => rw [if_neg]; rintro rfl; exact none_fits (.inl ⟨bidir, phase, by rw [place]; rfl⟩)
  · next e bidir place phase => rw [if_neg]; rintro rfl; exact none_fits (.inl ⟨bidir, phase, by rw [place]; rfl⟩)
  · next u e bidir place phase => rw [if_neg]; rintro rfl; exact none_fits (.inr ⟨bidir, phase, by rw [place]; rfl⟩)
  · next u bidir place phase => rw [if_neg]; rintro rfl; exact none_fits (.inr ⟨bidir, phase, by rw [place]; rfl⟩)
  · rfl

theorem canFail_iff (c : Context) : c.phase.canFail = true ↔ BeforeLive c := by
  unfold BeforeLive
  cases c.phase <;> simp [Phase.canFail]

theorem forwardAtTarget_iff (c : Context) : c.forwardAtTarget = true ↔ ∃ l, c.fwd = .line l ∧ l.state = .atTarget := by
  cases leg : c.fwd <;> simp [Context.forwardAtTarget, Context.line?, Context.leg?, Leg.line?, leg]

section
variable {h : Header} (hears : Hears d s)
include hears

theorem exec_refuse (cause : Cause) (node : Nat) : exec (.refuse d h id cause node) s = .next (takeRefuse d id cause node (Heard d h s)) :=
  congrArg _ (receivePath_of_hears hears h _)
theorem exec_release : exec (.release d h id) s = .next (releaseAt d id (Heard d h s)) := congrArg _ (receivePath_of_hears hears h _)
theorem exec_reserveOk : exec (.reserveOk d h id) s = .next (takeReserveOk d id (Heard d h s)) := congrArg _ (receivePath_of_hears hears h _)
theorem exec_rampTurn (n : Nat) : exec (.rampTurn d h id n) s = .next (takeRampTurn d id n (Heard d h s)) :=
  congrArg _ (receivePath_of_hears hears h _)
theorem exec_pathUp : exec (.pathUp d h id) s = .next (onCtx id (acceptPathUp d) (Heard d h s)) := congrArg _ (receivePath_of_hears hears h _)
theorem exec_fail (cause : Cause) (v : Byte) (n : Nat) :
    exec (.fail d h id cause v n) s = .next (takeFail d id ⟨cause, v, n⟩ (Heard d h s)) := congrArg _ (receivePath_of_hears hears h _)
theorem exec_drop : exec (.drop d h id) s = .next (onCtx id (takeDrop d) (Heard d h s)) := congrArg _ (receivePath_of_hears hears h _)
theorem exec_downTurn : exec (.downTurn d h id) s = .next (onCtx id (takeDownTurn d) (Heard d h s)) := congrArg _ (receivePath_of_hears hears h _)
theorem exec_reserve (f : ReserveFields) : exec (.reserve d h f) s = .next (reserveAt d f (Heard d h s)) :=
  congrArg _ (receivePath_of_hears hears h _)

end

theorem heard_ctx (d : Degree) (h : Header) (s : State) (id : JobId) : (Heard d h s).ctx? id = s.ctx? id := rfl
theorem heard_ctx_eq {d : Degree} {h : Header} (found : s.ctx? id = some c) : (Heard d h s).ctx? id = some c := found

theorem takeRampTurn_fwd (d : Degree) (id : JobId) (s : State) : takeRampTurn d id 0 s = onCtx id (turnForward d) s := rfl
theorem takeRampTurn_rev (d : Degree) (id : JobId) (s : State) : takeRampTurn d id 1 s = onCtx id (turnReverse d) s := rfl
theorem takeRampTurn_uncoded {n : Nat} (uncoded : 2 ≤ n) (d : Degree) (id : JobId) (s : State) : takeRampTurn d id n s = s := by
  have none_coded : Dir.ofCode n = none := by
    rw [Dir.ofCode, if_neg (by omega), if_neg (by omega)]
  simp only [takeRampTurn, none_coded]

/-- Settles O41: each message's rule finds its condition false. -/
theorem strayPathMessagesAreDiscarded : Obligations.StrayPathMessagesAreDiscarded := by
  unfold Obligations.StrayPathMessagesAreDiscarded
  intro d h id s hears
  refine ⟨fun missing => ?missing, fun c found => ⟨fun stray cause node => ?refuse, fun stray => ?release, fun stray => ?forward, fun stray => ?reverse,
    fun n uncoded => ?uncoded, fun stray => ?pathUp, fun stray cause v n => ?fail, fun stray => ?drop, fun stray => ?downTurn⟩⟩
  case missing =>
    have none_there (k : Context → State → State) : onCtx id k (Heard d h s) = Heard d h s := onCtx_of_none missing
    refine ⟨fun cause node => ?_, ?_, fun n => ?_, ?_, fun cause v n => ?_, ?_, ?_⟩
    · rw [exec_refuse hears, takeRefuse, none_there]
    · rw [exec_release hears, releaseAt, none_there]
    · rw [exec_rampTurn hears, takeRampTurn]
      split
      · rw [none_there]
      · rw [none_there]
      · rfl
    · rw [exec_pathUp hears, none_there]
    · rw [exec_fail hears, takeFail, none_there]
    · rw [exec_drop hears, none_there]
    · rw [exec_downTurn hears, none_there]
  case refuse =>
    rw [exec_refuse hears, takeRefuse, onCtx_of_ctx (heard_ctx_eq found), if_neg]
    rintro ⟨phase, down⟩
    exact stray.elim (· phase) (· down)
  case release =>
    rw [exec_release hears, releaseAt, onCtx_of_ctx (heard_ctx_eq found), if_neg]
    rintro ⟨phase, up⟩
    exact stray.elim (fun other => phase.elim other.1 other.2) (· up)
  case forward =>
    rw [exec_rampTurn hears, takeRampTurn_fwd, onCtx_of_ctx (heard_ctx_eq found), turnForward, if_neg]
    rintro ⟨phase, up⟩
    exact stray.elim (· phase) (· up)
  case reverse =>
    rw [exec_rampTurn hears, takeRampTurn_rev, onCtx_of_ctx (heard_ctx_eq found), turnReverse, if_neg]
    rintro ⟨bidir, phase, down, top⟩
    obtain ⟨l, line, at_target⟩ := (forwardAtTarget_iff c).mp top
    rcases stray with uni | other | elsewhere | low
    · simp [uni] at bidir
    · exact other phase
    · exact elsewhere down
    · exact low l line at_target
  case uncoded => rw [exec_rampTurn hears, takeRampTurn_uncoded uncoded]
  case pathUp =>
    rw [exec_pathUp hears, onCtx_of_ctx (heard_ctx_eq found), acceptPathUp_of_noRow (stray.symm.imp_left pathUpRow_eq_none)]
  case fail =>
    rw [exec_fail hears, takeFail, onCtx_of_ctx (heard_ctx_eq found), if_neg]
    rintro ⟨used, before⟩
    obtain ⟨not_live, not_teardown, not_failing⟩ := (canFail_iff c).mp before
    rcases stray with unused | live | teardown | failing
    · simp [unused] at used
    · exact not_live live
    · exact not_teardown teardown
    · exact not_failing failing
  case drop =>
    rw [exec_drop hears, onCtx_of_ctx (heard_ctx_eq found), takeDrop, if_neg]
    rintro ⟨phase, up⟩
    exact stray.elim (· phase) (· up)
  case downTurn =>
    rw [exec_downTurn hears, onCtx_of_ctx (heard_ctx_eq found), takeDownTurn, if_neg]
    rintro ⟨phase, down, top⟩
    rcases stray with other | elsewhere | low | ⟨u, tail⟩
    · exact other phase
    · exact elsewhere down
    · simp [low] at top
    · simp [tail, Place.down?] at down

/-! ### RESERVE_OK (R68, R69, R76) -/

theorem confirmHolding_transit {u : Degree} (place : c.place = .transit u d) (s : State) :
    confirmHolding c s = send u (.reserveOk c.id)
      { s with map := changedMap c c.entrySet (confirmed c.id) s.map
               jobs := setJob c.id (Context.confirmed s.node.pathLimit) s.jobs } := by
  simp only [confirmHolding, place, changeFor_confirm]
  rfl

theorem confirmHolding_head (place : c.place = .head d) (s : State) :
    confirmHolding c s = joinUp ⟨c.id, .fwd⟩ .step
      { notifyOwner c.owner (.reserved c.id) s with
        map := changedMap c c.entrySet (confirmed c.id) s.map
        jobs := setJob c.id (fun b => { b with phase := .bringupFwd, hold := none, path := some s.node.pathLimit, reached := true }) s.jobs } := by
  have twice : setJob c.id (fun b => { b with phase := Phase.bringupFwd }) (setJob c.id (Context.confirmed s.node.pathLimit) s.jobs)
      = setJob c.id (fun b => { b with phase := .bringupFwd, hold := none, path := some s.node.pathLimit, reached := true }) s.jobs :=
    setJob_setJob (g := Context.confirmed s.node.pathLimit) (fun _ => rfl) c.id s.jobs
  simp only [confirmHolding, place, changeFor_confirm]
  congr 1
  rw [← twice, ← notifyOwner_map]
  cases c.owner <;> rfl

/-- Settles O36. -/
theorem reserveOkConfirmsOrIsReleased : Obligations.ReserveOkConfirmsOrIsReleased := by
  unfold Obligations.ReserveOkConfirmsOrIsReleased
  intro d h id s hears
  refine ⟨fun missing => ?missing, fun c found => ⟨fun stray => ?stray, fun holding => ?taken⟩⟩
  case missing =>
    rw [exec_reserveOk hears]
    simp only [takeReserveOk, heard_ctx, missing]
  case stray =>
    rw [exec_reserveOk hears]
    simp only [takeReserveOk, heard_ctx, found]
    rw [if_neg]
    rintro ⟨phase, down⟩
    exact stray.elim (· phase) (· down)
  case taken =>
    obtain rfl := ctx?_id found
    have taken (down : c.place.down? = some d) : exec (.reserveOk d h c.id) s = .next (settleAct (confirmHolding c (Heard d h s))) := by
      rw [exec_reserveOk hears]
      simp only [takeReserveOk, heard_ctx, found]
      rw [if_pos ⟨holding, down⟩]
    refine ⟨changedMap c c.entrySet (confirmed c.id) s.map, changedMap_runsChange (confirmed_confirmed c.id) _ _ _, fun u place => ?_, fun place => ?_⟩
    · rw [taken (by rw [place]; rfl), confirmHolding_transit place]
      rfl
    · rw [taken (by rw [place]; rfl), confirmHolding_head place]
      rfl

/-! ### The end of a reservation (R67, R70, R71, R74) -/

theorem endHolding_transit {u : Degree} (place : c.place = .transit u d) (cause : Cause) (node : Nat) (s : State) :
    endHolding c cause node s = Freed c.id (send u (.refuse c.id cause node)
      { s with map := changedMap c c.entrySet (released c.id) s.map }) := by
  simp only [endHolding, place, releaseSet_eq, freeContext_eq]
  rfl

theorem endHolding_head (place : c.place = .head d) (cause : Cause) (node : Nat) (s : State) :
    endHolding c cause node s = Freed c.id (Recorded ⟨c.id, 0, .refused, some ⟨cause, 0#8, node⟩, s.time, [], none, []⟩
      (notifyOwner c.owner (.refused c.id cause node) { s with map := changedMap c c.entrySet (released c.id) s.map })) := by
  simp only [endHolding, place, refusedOutcome, releaseSet_eq, freeContext_eq, writeResult_refused]
  cases c.owner <;> rfl

theorem releaseReservation_eq (c : Context) (s : State) :
    releaseReservation c s = Freed c.id (sendOn c.place.down? (.release c.id)
      { s with map := changedMap c c.entrySet (released c.id) s.map }) := by
  rw [releaseReservation, releaseSet_eq, freeContext_eq]

theorem takeRelease_eq (uncopied : c.failSteps = []) (s : State) :
    takeRelease c s = Freed c.id (sendOn c.place.down? (.release c.id)
      (if c.phase = .booked then
        Recorded { plainRecord c .failed s.time with failure := some ⟨.released, 0#8, s.node.nodeId⟩ }
          { s with map := changedMap c c.entrySet (released c.id) s.map }
       else { s with map := changedMap c c.entrySet (released c.id) s.map })) := by
  rw [takeRelease, releaseReservation_eq]
  by_cases booked : c.phase = .booked
  · simp only [if_pos booked, writeResult_failed_uncopied uncopied]
    rfl
  · simp only [if_neg booked]

theorem sendOn_some (d : Degree) (m : Message) (s : State) : sendOn (some d) m s = send d m s := rfl

/-- Settles O37. -/
theorem reservationsEndAndFreeTheirRun : Obligations.ReservationsEndAndFreeTheirRun := by
  unfold Obligations.ReservationsEndAndFreeTheirRun
  refine ⟨fun d h id c s hears found => ?messages, fun id c s found holding out => ?timer⟩
  case messages =>
    obtain rfl := ctx?_id found
    refine ⟨changedMap c c.entrySet (released c.id) s.map, changedMap_runsChange (released_released c.id) _ _ _, fun holding cause node => ?refuse,
      fun up phase uncopied => ?release⟩
    case refuse =>
      have taken (down : c.place.down? = some d) :
          exec (.refuse d h c.id cause node) s = .next (endHolding c cause node (Heard d h s)) := by
        rw [exec_refuse hears, takeRefuse, onCtx_of_ctx (heard_ctx_eq found), if_pos ⟨holding, down⟩]
      constructor
      · intro u place
        rw [taken (by rw [place]; rfl), endHolding_transit place]
        rfl
      · intro place
        rw [taken (by rw [place]; rfl), endHolding_head place]
        rfl
    case release =>
      have taken : exec (.release d h c.id) s = .next (takeRelease c (Heard d h s)) := by
        rw [exec_release hears, releaseAt, onCtx_of_ctx (heard_ctx_eq found), if_pos ⟨phase, up⟩]
      rw [taken, takeRelease_eq uncopied]
      cases c.place.down? <;> rfl
  case timer =>
    obtain rfl := ctx?_id found
    have taken : exec (.holdTimerExpiry c.id) s = .next (expireHolding c s) := by
      refine congrArg Host.Outcome.next ?_
      rw [onCtx_of_ctx found, holdExpiry, if_pos ⟨holding, (ranOut_iff _).mpr out⟩]
    refine ⟨_, releaseSet_twice_runsChange c s.map, fun u d place => ?_, fun d place => ?_⟩
    · rw [taken, expireHolding, endHolding_transit place, releaseSet_eq, show c.place.down? = some d by rw [place]; rfl]
      rfl
    · rw [taken, expireHolding, endHolding_head place, releaseSet_eq, show c.place.down? = some d by rw [place]; rfl]
      rfl

/-! ### RAMP_TURN (R78, R79, R84) -/

theorem lightIngress_eq (c : Context) (d : Degree) (s : State) :
    lightIngress c d s = { s with map := changedMap c [(d, .incoming)] (lit c.id) s.map } := changeFor_light c _ s

/-- Settles O38. -/
theorem rampTurnBeginsTheNextRamp : Obligations.RampTurnBeginsTheNextRamp := by
  unfold Obligations.RampTurnBeginsTheNextRamp
  intro d h id c s hears found
  obtain rfl := ctx?_id found
  refine ⟨changedMap c [(d, .incoming)] (lit c.id) s.map, changedMap_runsChange (lit_lit c.id) _ _ _, fun booked => ⟨fun e place => ?_, fun place => ?_⟩,
    fun phase bidir top => ⟨fun u place => ?_, fun place => ?_⟩⟩
  · rw [exec_rampTurn hears, takeRampTurn_fwd, onCtx_of_ctx (heard_ctx_eq found), turnForward, if_pos ⟨booked, by rw [place]; rfl⟩]
    simp only [place, lightIngress_eq]
    rfl
  · rw [exec_rampTurn hears, takeRampTurn_fwd, onCtx_of_ctx (heard_ctx_eq found), turnForward, if_pos ⟨booked, by rw [place]; rfl⟩]
    simp only [place, lightIngress_eq]
    rfl
  · have taken : c.bidir = true ∧ c.phase = .bringupFwd ∧ c.place.down? = some d ∧ c.forwardAtTarget = true :=
      ⟨bidir, phase, by rw [place]; rfl, (forwardAtTarget_iff c).mpr top⟩
    rw [exec_rampTurn hears, takeRampTurn_rev, onCtx_of_ctx (heard_ctx_eq found), turnReverse, if_pos taken]
    simp only [place, lightIngress_eq]
    rfl
  · have taken : c.bidir = true ∧ c.phase = .bringupFwd ∧ c.place.down? = some d ∧ c.forwardAtTarget = true :=
      ⟨bidir, phase, by rw [place]; rfl, (forwardAtTarget_iff c).mpr top⟩
    rw [exec_rampTurn hears, takeRampTurn_rev, onCtx_of_ctx (heard_ctx_eq found), turnReverse, if_pos taken]
    simp only [place, lightIngress_eq]
    rfl

/-! ### PATH_UP (R81, R82) -/

theorem acceptJob_eq (c : Context) (s : State) : acceptJob c s = Accepted c (changedMap c c.entrySet (accepted c.id) s.map) s := by
  rw [acceptJob, changeFor_accept, writeResult_plain c (o := .commissioned) nofun nofun]
  rfl

/-- Where a taken PATH_UP goes: on, or to the owner's notice (R82). -/
def pathUpOn (c : Context) (onward : Option Degree) (s : State) : State :=
  match onward with
  | some e => send e (.pathUp c.id) s
  | none => notifyOwner c.owner (.commissioned c.id) s

theorem acceptPathUp_of_row {onward : Option Degree} (row : pathUpRow d c = some onward) (top : c.allAtTarget = true) (s : State) :
    acceptPathUp d c s = pathUpOn c onward (acceptJob c s) := by
  cases onward <;> simp only [acceptPathUp, row, if_pos top, pathUpOn]

/-- Settles O39: each row of R82 by its direction, role and phase. -/
theorem pathUpAcceptsTheJob : Obligations.PathUpAcceptsTheJob := by
  unfold Obligations.PathUpAcceptsTheJob
  intro d h id c s hears found top
  obtain rfl := ctx?_id found
  refine ⟨changedMap c c.entrySet (accepted c.id) s.map, changedMap_runsChange (accepted_accepted c.id) _ _ _, ?_⟩
  have taken {onward : Option Degree} (row : pathUpRow d c = some onward) :
      exec (.pathUp d h c.id) s
        = .next (pathUpOn c onward (Accepted c (changedMap c c.entrySet (accepted c.id) s.map) (Heard d h s))) := by
    rw [exec_pathUp hears, onCtx_of_ctx (heard_ctx_eq found), acceptPathUp_of_row row top, acceptJob_eq]
    rfl
  refine ⟨fun uni phase => ⟨fun u place => ?_, fun place => ?_⟩, fun bidir phase => ⟨fun e place => ?_, fun place => ?_⟩⟩
  · exact taken (onward := some u) (by simp only [pathUpRow, uni, place, phase, if_true])
  · exact taken (onward := none) (by simp only [pathUpRow, uni, place, phase, if_true])
  · exact taken (onward := some e) (by simp only [pathUpRow, bidir, place, phase, if_true])
  · exact taken (onward := none) (by simp only [pathUpRow, bidir, place, phase, if_true])

end Sys2Proof.Machine
end

section
/-! PROOFS. Reservations (chapter 4) and RESTORE_LIVE (R176, R177): the contexts put in use, the runs taken, the checks in their order. -/

namespace Sys2Proof.Machine

variable {s t : State} {p : Port} {d : Degree} {id : JobId} {c : Context}

/-! ### Contexts put in use (R38, R41, R46, R52) -/

theorem insertCtx_perm (c : Context) (jobs : List Context) : (insertCtx c jobs).Perm (c :: jobs) := by
  induction jobs with
  | nil => exact .refl _
  | cons b bs ih =>
    unfold insertCtx
    split
    · exact .refl _
    · exact (ih.cons b).trans (.swap ..)

theorem newLineLeg_eq (i : Point) (e : Degree) (T : Int) (s : State) : newLineLeg i e T (s.degrees.get e) = DarkLeg i e T (s.probeOn e T) := rfl

/-- The legs of a place (R41). -/
def legsOf (place : Place) (T : Int) (s : State) : Leg × Leg :=
  match place with
  | .head d => (.line (DarkLeg .bank d T (s.probeOn d T)), .drop d)
  | .transit u d => (.line (DarkLeg (.line u) d T (s.probeOn d T)), .line (DarkLeg (.line d) u T (s.probeOn u T)))
  | .tail u => (.drop u, .line (DarkLeg .bank u T (s.probeOn u T)))

theorem newContext_eq (id : JobId) (place : Place) (owner : Option Port) (bidir : Bool) (first count : Nat) (density : Int)
    (route : Option (List RawHop)) (hopIndex : Nat) (s : State) :
    newContext id place owner bidir first count density route hopIndex s.degrees =
      FreshContext id place owner bidir first count density route hopIndex (legsOf place (density + widthTerm count) s).1
        (if bidir = true then some (legsOf place (density + widthTerm count) s).2 else none) := by
  cases place <;> rfl

/-- The runs of a place's entry set (R20). -/
def runsOf (place : Place) (bidir : Bool) : List (Degree × MapDir) :=
  match place with
  | .head d => (d, .outgoing) :: if bidir = true then [(d, .incoming)] else []
  | .transit u d => [(u, .incoming), (d, .outgoing)] ++ if bidir = true then [(d, .incoming), (u, .outgoing)] else []
  | .tail u => (u, .incoming) :: if bidir = true then [(u, .outgoing)] else []

theorem newContext_entrySet (id : JobId) (place : Place) (owner : Option Port) (bidir : Bool) (first count : Nat) (density : Int)
    (route : Option (List RawHop)) (hopIndex : Nat) (params : PerDegree DegreeParams) :
    (newContext id place owner bidir first count density route hopIndex params).entrySet = runsOf place bidir := by
  cases place <;> cases bidir <;> rfl

/-! ### The entries of runs (R20, R23) -/

theorem mem_read_iff {m : SpectrumMap} {dir : MapDir} {first count : Nat} {e : SliceEntry} :
    e ∈ m.read d dir first count ↔ ∃ k, first ≤ k ∧ k < first + count ∧ (m.table d dir)[k]? = some e := by
  simp only [SpectrumMap.read, readRange, List.mem_iff_getElem?, List.getElem?_take, List.getElem?_drop]
  constructor
  · rintro ⟨i, at_i⟩
    split at at_i
    · exact ⟨first + i, by omega, by omega, at_i⟩
    · cases at_i
  · rintro ⟨k, low, high, at_k⟩
    exact ⟨k - first, by rw [if_pos (by omega), show first + (k - first) = k by omega]; exact at_k⟩

theorem mem_readRuns_iff {m : SpectrumMap} {runs : List (Degree × MapDir)} {first count : Nat} {e : SliceEntry} :
    e ∈ m.readRuns first count runs ↔ ∃ x, x ∈ runs ∧ ∃ k, first ≤ k ∧ k < first + count ∧ (m.table x.1 x.2)[k]? = some e := by
  simp only [SpectrumMap.readRuns, List.mem_flatMap, mem_read_iff]

theorem readRuns_of_all {runs : List (Degree × MapDir)} {first count : Nat} {a : SliceEntry}
    (every : ∀ x, x ∈ runs → ∀ k, first ≤ k → k < first + count → s.entry x.1 x.2 k = some a) :
    ∀ e, e ∈ s.map.readRuns first count runs → e = a := by
  intro e mem
  obtain ⟨x, x_mem, k, low, high, at_k⟩ := mem_readRuns_iff.mp mem
  have all_same := every x x_mem k low high
  simp only [State.entry, at_k, Option.some.injEq] at all_same
  exact all_same

theorem reservationCause_of_free {runs : List (Degree × MapDir)} {first count : Nat} (free : RunFree s runs first count) :
    reservationCause (s.map.readRuns first count runs) = none := by
  rw [reservationCause, if_pos]
  exact List.all_eq_true.mpr (fun e mem => by simp [readRuns_of_all free e mem])

theorem changedMap_take (c : Context) (id : JobId) (s : State) :
    changeFor c c.entrySet (SliceEntry.take id) s =
      { s with map := changedMap c c.entrySet (fun e => if e = .free then .held id else e) s.map } := by
  rw [funext (SliceEntry.take_eq id), changeFor_eq]

theorem changedMap_takeBooked (c : Context) (id : JobId) (s : State) :
    changeFor c c.entrySet (SliceEntry.takeBooked id) s =
      { s with map := changedMap c c.entrySet (fun e => if e = .free then .booked id else e) s.map } := by
  rw [funext (SliceEntry.takeBooked_eq id), changeFor_eq]

theorem take_once (id : JobId) : ∀ e, (fun e => if e = .free then SliceEntry.held id else e) ((fun e => if e = .free then .held id else e) e)
    = (fun e => if e = .free then .held id else e) e := by
  intro e
  by_cases free : e = .free <;> simp [free]

theorem takeBooked_once (id : JobId) : ∀ e, (fun e => if e = .free then SliceEntry.booked id else e)
    ((fun e => if e = .free then .booked id else e) e) = (fun e => if e = .free then .booked id else e) e := by
  intro e
  by_cases free : e = .free <;> simp [free]

/-! ### The checks of R63 -/

/-- The form that R63 check 2 asks of a RESERVE. -/
def ReserveForm (f : ReserveFields) (s : State) : Prop :=
  RouteFits f.hops ∧ 1 ≤ f.hopIndex ∧ f.hopIndex < f.hops.length ∧ ChannelRun f.first f.count ∧
    -2000 ≤ f.density ∧ f.density ≤ 500 ∧ f.bidir ≤ 1 ∧ ∃ hop, f.hops[f.hopIndex]? = some hop ∧ hop.node = s.node.nodeId

theorem reserveFormOk_iff (f : ReserveFields) (s : State) : reserveFormOk f s = true ↔ ReserveForm f s := by
  simp only [reserveFormOk, Bool.and_eq_true, decide_eq_true_eq, routeOk_iff, channelRunOk_iff, densityOk_iff, ReserveForm,
    Option.any_eq_true]
  tauto

section
variable {f : ReserveFields} {hop : RawHop} {place : Place}

/-- The REFUSE that answers a RESERVE. -/
def refuseReserve (d : Degree) (f : ReserveFields) (cause : Cause) (s : State) : State := send d (.refuse f.job cause s.node.nodeId) s

theorem reserveAt_of_starting (starting : s.running = false) : reserveAt d f s = refuseReserve d f .nodeStarting s := by
  simp [reserveAt, starting, refuseReserve]

variable (running : s.running = true)
include running

theorem reserveAt_of_badForm (bad : ¬ ReserveForm f s) : reserveAt d f s = refuseReserve d f .badRoute s := by
  simp [reserveAt, running, mt (reserveFormOk_iff f s).mp bad, refuseReserve]

variable (form : ReserveForm f s) (here : f.hops[f.hopIndex]? = some hop)
include form here

theorem reserveAt_of_noPlace (nowhere : reservePlace d hop s = none) : reserveAt d f s = refuseReserve d f .badRoute s := by
  simp [reserveAt, running, (reserveFormOk_iff f s).mpr form, here, nowhere, refuseReserve]

variable (placed : reservePlace d hop s = some place)
include placed

theorem reserveAt_of_cause {cause : Cause} (fails : reserveCause f place hop s = some cause) :
    reserveAt d f s = refuseReserve d f cause s := by
  simp [reserveAt, running, (reserveFormOk_iff f s).mpr form, here, placed, fails, refuseReserve]

theorem reserveAt_of_pass (passes : reserveCause f place hop s = none) : reserveAt d f s = takeReserve d f place hop s := by
  simp [reserveAt, running, (reserveFormOk_iff f s).mpr form, here, placed, passes]

end

/-- The link check of a place: a TRANSIT's downstream link is UP toward the next hop (R63 checks 4 and 5). -/
def placeLink (f : ReserveFields) (place : Place) (s : State) : Option Cause :=
  match place with
  | .transit _ e => linkCause e ((f.hops[f.hopIndex + 1]?.map (·.node)).getD 0) s
  | _ => none

section
variable {f : ReserveFields} {hop : RawHop} {place : Place}

theorem reserveCause_of_link {cause : Cause} (bad : placeLink f place s = some cause) : reserveCause f place hop s = some cause := by
  cases place with
  | transit u e => simp only [placeLink] at bad; simp only [reserveCause, bad]
  | head d => cases bad
  | tail u => cases bad

variable (linked : placeLink f place s = none)
include linked

/-- The rest of R63's checks once the link's have passed. -/
theorem reserveCause_of_linked : reserveCause f place hop s =
    if 64 ≤ s.jobs.length then some .noContext
    else if (s.ctx? f.job).isSome then some .duplicate
    else if !levelsOk place (f.bidir == 1) (targetLevel f.density f.count) s.degrees then some .badLevel
    else reservationCause (s.map.readRuns f.first f.count (runsOf place (f.bidir == 1))) := by
  have entries : entrySetOf s (reserveContext f place hop s) = s.map.readRuns f.first f.count (runsOf place (f.bidir == 1)) :=
    congrArg (s.map.readRuns f.first f.count) (newContext_entrySet ..)
  rw [← entries]
  cases place with
  | transit u e => simp only [placeLink] at linked; simp only [reserveCause, linked, Config.maxContexts]; rfl
  | head d => rfl
  | tail u => rfl

theorem reserveCause_of_full (full : 64 ≤ s.jobs.length) : reserveCause f place hop s = some .noContext := by
  rw [reserveCause_of_linked linked, if_pos full]

variable (room : s.jobs.length < 64)
include room

theorem reserveCause_of_duplicate (known : s.ctx? f.job ≠ none) : reserveCause f place hop s = some .duplicate := by
  rw [reserveCause_of_linked linked, if_neg (Nat.not_le.mpr room), if_pos (Option.isSome_iff_ne_none.mpr known)]

variable (fresh : s.ctx? f.job = none)
include fresh

theorem reserveCause_of_low (low : levelsOk place (f.bidir == 1) (targetLevel f.density f.count) s.degrees = false) :
    reserveCause f place hop s = some .badLevel := by
  rw [reserveCause_of_linked linked, if_neg (Nat.not_le.mpr room), if_neg (by simp [fresh]), if_pos (by simp [low])]

theorem reserveCause_of_levels (high : levelsOk place (f.bidir == 1) (targetLevel f.density f.count) s.degrees = true) :
    reserveCause f place hop s = reservationCause (s.map.readRuns f.first f.count (runsOf place (f.bidir == 1))) := by
  rw [reserveCause_of_linked linked, if_neg (Nat.not_le.mpr room), if_neg (by simp [fresh]), if_neg (by simp [high])]

end

theorem levelsOk_iff (place : Place) (bidir : Bool) (T : Int) (params : PerDegree DegreeParams) :
    levelsOk place bidir T params = true ↔ ∀ e, e ∈ lineEgress place bidir → (params.get e).levelFloor ≤ T := by
  simp [levelsOk]

/-! ### Where a RESERVE puts this node (R40, R63 check 3) -/

theorem degree_ofInt_zero {n : Nat} (last : n = 0) : Degree.ofInt (n : Int) = none := degree_ofInt_eq_none (by omega)

theorem reservePlace_of_tail {hop : RawHop} (last : hop.egress = 0) : reservePlace d hop s = some (.tail d) := by
  rw [reservePlace, if_pos last]

theorem egress_ne_zero {hop : RawHop} {e : Degree} (named : Degree.ofInt hop.egress = some e) : hop.egress ≠ 0 := by
  intro last
  simp [degree_ofInt_zero last] at named

theorem reservePlace_of_degree {hop : RawHop} {e : Degree} (named : Degree.ofInt hop.egress = some e) :
    reservePlace d hop s = if e ≠ d ∧ (s.deg e).enabled = true then some (.transit d e) else none := by
  simp only [reservePlace, if_neg (egress_ne_zero named), hopDegree, named]

theorem heard_link_ne {e : Degree} (other : e ≠ d) (h : Header) (s : State) : (Heard d h s).link e = s.link e := by
  simp [Heard, State.withLink, State.link, PerDegree.get_set, other]

theorem placeLink_tail (f : ReserveFields) (u : Degree) (s : State) : placeLink f (.tail u) s = none := rfl

theorem placeLink_transit {f : ReserveFields} {u e : Degree} {next : RawHop} (onward : f.hops[f.hopIndex + 1]? = some next) (s : State) :
    placeLink f (.transit u e) s = linkCause e next.node s := by
  simp [placeLink, onward]

/-- Settles O35: the checks of R63 in their order, each on the state that has heard the message. -/
theorem reserveIsRefusedForItsFirstFault : Obligations.ReserveIsRefusedForItsFirstFault := by
  unfold Obligations.ReserveIsRefusedForItsFirstFault
  intro d h f s hears refused T form
  have answer {cause : Cause} (fails : reserveAt d f (Heard d h s) = refuseReserve d f cause (Heard d h s)) : refused cause := by
    refine (exec_reserve hears f).trans (congrArg _ ?_)
    rw [fails]
    rfl
  refine ⟨fun starting => answer (reserveAt_of_starting starting), fun running bad => answer (reserveAt_of_badForm running bad),
    fun hop running form here => ⟨fun e named => ⟨?place, ?down, ?other⟩, fun placed => ?rest⟩⟩
  case place =>
    intro nowhere
    refine answer (reserveAt_of_noPlace running form here ?_)
    rw [reservePlace_of_degree named, if_neg]
    rintro ⟨other, enabled⟩
    rcases nowhere with same | disabled
    · exact other same
    · rw [show (Heard d h s).deg e = s.deg e from rfl, disabled] at enabled
      cases enabled
  case down =>
    intro other enabled down
    refine answer (reserveAt_of_cause (s := Heard d h s) running form here (place := .transit d e) (by rw [reservePlace_of_degree named, if_pos ⟨other, enabled⟩])
      (reserveCause_of_link ?_))
    exact linkCause_of_down (by rw [heard_link_ne other]; exact down)
  case other =>
    intro next onward other hears_on elsewhere
    refine answer (reserveAt_of_cause (s := Heard d h s) running form here (place := .transit d e)
      (by rw [reservePlace_of_degree named, if_pos ⟨other, hears_on.1⟩]) (reserveCause_of_link ?_))
    rw [placeLink_transit onward]
    exact linkCause_of_other_node (by rw [heard_link_ne other]; exact hears_on.2) (by rw [heard_link_ne other]; exact elsewhere)
  case rest =>
    obtain ⟨place, at_place, linked, egresses, runs_eq⟩ : ∃ place, reservePlace d hop (Heard d h s) = some place
        ∧ placeLink f place (Heard d h s) = none
        ∧ (∀ e, e ∈ lineEgress place (f.bidir == 1) ↔ Degree.ofInt hop.egress = some e ∨ (f.bidir = 1 ∧ e = d))
        ∧ ∀ runs : List (Degree × MapDir),
          ((hop.egress = 0 ∧ runs = (d, .incoming) :: if f.bidir = 1 then [(d, .outgoing)] else [])
            ∨ ∃ e, Degree.ofInt hop.egress = some e ∧ runs = [(d, .incoming), (e, .outgoing)] ++
                if f.bidir = 1 then [(e, .incoming), (d, .outgoing)] else []) → runs = runsOf place (f.bidir == 1) := by
      rcases placed with last | ⟨e, next, k, named, other, hears_on, onward, neighbour⟩
      · refine ⟨.tail d, reservePlace_of_tail last, rfl, fun e => ?_, fun runs => ?_⟩
        · by_cases both : f.bidir = 1
          · simp [lineEgress, both, degree_ofInt_zero last]
          · simp [lineEgress, both, degree_ofInt_zero last, beq_false_of_ne both]
        · rintro (⟨-, rfl⟩ | ⟨e, named, -⟩)
          · simp [runsOf]
          · exact absurd last (egress_ne_zero named)
      · refine ⟨.transit d e, by rw [reservePlace_of_degree named, if_pos ⟨other, hears_on.1⟩], ?_, fun e' => ?_, fun runs => ?_⟩
        · rw [placeLink_transit onward]
          exact linkCause_of_neighbour (by rw [heard_link_ne other]; exact hears_on.2) (by rw [heard_link_ne other]; exact neighbour)
        · by_cases both : f.bidir = 1
          · simp [lineEgress, both, named, eq_comm]
          · simp [lineEgress, both, named, eq_comm, beq_false_of_ne both]
        · rintro (⟨last, -⟩ | ⟨e', named', rfl⟩)
          · exact absurd last (egress_ne_zero named)
          · obtain rfl : e = e' := by simpa [named] using named'
            simp [runsOf]
    have fails {cause : Cause} (because : reserveCause f place hop (Heard d h s) = some cause) : refused cause :=
      answer (reserveAt_of_cause (s := Heard d h s) running form here at_place because)
    refine ⟨fun full => fails (reserveCause_of_full linked full), fun room known => fails (reserveCause_of_duplicate linked room known),
      fun room fresh => ⟨?low, fun high runs either => ?entries⟩⟩
    case low =>
      rintro ⟨e, named, low⟩
      refine fails (reserveCause_of_low linked room fresh ?_)
      rw [Bool.eq_false_iff]
      intro high
      exact absurd ((levelsOk_iff ..).mp high e ((egresses e).mpr named)) (Int.not_le.mpr low)
    case entries =>
      have levels : levelsOk place (f.bidir == 1) (targetLevel f.density f.count) (Heard d h s).degrees = true :=
        (levelsOk_iff ..).mpr (fun e mem => high e ((egresses e).mp mem))
      have because : reserveCause f place hop (Heard d h s) = reservationCause (s.map.readRuns f.first f.count runs) := by
        rw [reserveCause_of_levels linked room fresh levels, runs_eq runs either]
        rfl
      exact ⟨fun named => fails (because.trans (reservationCause_of_conflict named)),
        fun unnamed blocked => fails (because.trans (reservationCause_of_blocked unnamed blocked)),
        fun clear unknown => fails (because.trans (reservationCause_of_unknown clear unknown))⟩

/-! ### RESERVE taken (R64, R65) -/

theorem reserveContext_transit (f : ReserveFields) (u e : Degree) (hop : RawHop) (s : State) :
    reserveContext f (.transit u e) hop s = FreshContext f.job (.transit u e) none (f.bidir == 1) f.first f.count f.density none f.hopIndex
      (legsOf (.transit u e) (f.density + widthTerm f.count) s).1
      (if f.bidir = 1 then some (legsOf (.transit u e) (f.density + widthTerm f.count) s).2 else none) := by
  rw [reserveContext, newContext_eq]
  · simp only [beq_iff_eq]
  · nofun

theorem reserveContext_tail (f : ReserveFields) (u : Degree) (hop : RawHop) (s : State) :
    reserveContext f (.tail u) hop s = FreshContext f.job (.tail u) (Port.ofInt hop.drop) (f.bidir == 1) f.first f.count f.density none
      f.hopIndex (legsOf (.tail u) (f.density + widthTerm f.count) s).1
      (if f.bidir = 1 then some (legsOf (.tail u) (f.density + widthTerm f.count) s).2 else none) := by
  rw [reserveContext, newContext_eq]
  simp only [beq_iff_eq]

theorem reserveContext_entrySet (f : ReserveFields) (place : Place) (hop : RawHop) (s : State) :
    (reserveContext f place hop s).entrySet = runsOf place (f.bidir == 1) := newContext_entrySet ..

theorem reserveContext_runsChange {f : ReserveFields} {place : Place} (hop : RawHop) {g : SliceEntry → SliceEntry} (once : ∀ e, g (g e) = g e)
    (s u : State) : RunsChange f.first f.count (runsOf place (f.bidir == 1)) g u.map
      (changedMap (reserveContext f place hop s) (reserveContext f place hop s).entrySet g u.map) := by
  rw [reserveContext_entrySet]
  exact changedMap_runsChange once (reserveContext f place hop s) _ _

theorem takeReserve_transit (f : ReserveFields) (hop : RawHop) (e : Degree) (s : State) :
    let c := reserveContext f (.transit d e) hop s
    takeReserve d f (.transit d e) hop s = send e (.reserve { f with hopIndex := f.hopIndex + 1 })
      { s with map := changedMap c c.entrySet (fun x => if x = .free then .held f.job else x) s.map
               jobs := insertCtx { c with hold := some s.node.holdTime } s.jobs } := by
  intro c
  simp only [takeReserve, changedMap_take]
  rfl

theorem takeReserve_tail (f : ReserveFields) (hop : RawHop) (s : State) :
    let c := reserveContext f (.tail d) hop s
    takeReserve d f (.tail d) hop s = send d (.reserveOk f.job)
      { s with map := changedMap c c.entrySet (fun x => if x = .free then .booked f.job else x) s.map
               jobs := insertCtx { c with phase := .booked, path := some s.node.pathLimit, reached := true } s.jobs } := by
  intro c
  simp only [takeReserve, changedMap_takeBooked]
  rfl

/-- A RESERVE whose place, link, levels and run pass is taken. -/
theorem reserveAt_takes {f : ReserveFields} {hop : RawHop} {place : Place} (running : s.running = true) (form : ReserveForm f s)
    (here : f.hops[f.hopIndex]? = some hop) (placed : reservePlace d hop s = some place) (linked : placeLink f place s = none)
    (room : s.jobs.length < 64) (fresh : s.ctx? f.job = none)
    (high : ∀ e, e ∈ lineEgress place (f.bidir == 1) → (s.deg e).levelFloor ≤ f.density + widthTerm f.count)
    (free : RunFree s (runsOf place (f.bidir == 1)) f.first f.count) : reserveAt d f s = takeReserve d f place hop s := by
  refine reserveAt_of_pass running form here placed ?_
  rw [reserveCause_of_levels linked room fresh ((levelsOk_iff ..).mpr high)]
  exact reservationCause_of_free free

/-- Settles O34. -/
theorem reserveTakesTheRun : Obligations.ReserveTakesTheRun := by
  unfold Obligations.ReserveTakesTheRun
  intro d h f hop s hears running route index here own run density_low density_high bit room fresh T dark joins
  have form : ReserveForm f (Heard d h s) :=
    ⟨route, index, (List.getElem?_eq_some_iff.mp here).1, run, density_low, density_high, by omega, hop, here, own⟩
  refine ⟨fun e next k named other hears_on onward neighbour floor back_floor => ?transit, fun last back_floor => ?tail⟩
  case transit =>
    intro runs free
    have runs_eq : runs = runsOf (.transit d e) (f.bidir == 1) := by simp [runs, runsOf]
    have taken := reserveAt_takes (s := Heard d h s) (place := .transit d e) running form here
      (by rw [reservePlace_of_degree named, if_pos ⟨other, hears_on.1⟩])
      (by rw [placeLink_transit onward]
          exact linkCause_of_neighbour (by rw [heard_link_ne other]; exact hears_on.2) (by rw [heard_link_ne other]; exact neighbour))
      room fresh (fun e' mem => by
        by_cases both : f.bidir = 1
        · simp only [lineEgress, both, beq_self_eq_true, List.mem_cons, List.not_mem_nil, or_false] at mem
          rcases mem with rfl | rfl
          exacts [floor, back_floor both]
        · simp only [lineEgress, beq_false_of_ne both, List.mem_singleton] at mem
          exact mem ▸ floor)
      (runs_eq ▸ free)
    refine ⟨_, _, runs_eq ▸ reserveContext_runsChange hop (take_once f.job) (Heard d h s) s, insertCtx_perm _ _, ?_⟩
    rw [exec_reserve hears, taken, takeReserve_transit, reserveContext_transit]
    rfl
  case tail =>
    intro runs free
    have runs_eq : runs = runsOf (.tail d) (f.bidir == 1) := by simp [runs, runsOf]
    have taken := reserveAt_takes (s := Heard d h s) (place := .tail d) running form here (reservePlace_of_tail last) rfl room fresh
      (fun e mem => by
        by_cases both : f.bidir = 1
        · simp only [lineEgress, both, beq_self_eq_true, List.mem_singleton] at mem
          exact mem ▸ back_floor both
        · simp [lineEgress, beq_false_of_ne both] at mem)
      (runs_eq ▸ free)
    refine ⟨_, _, runs_eq ▸ reserveContext_runsChange hop (takeBooked_once f.job) (Heard d h s) s, insertCtx_perm _ _, ?_⟩
    rw [exec_reserve hears, taken, takeReserve_tail, reserveContext_tail]
    rfl

/-! ### OPEN taken (R39, R62) -/

theorem freeSequence_eq_iterate (s : State) (k v : Nat) : ∃ n, freeSequence s k v = nextSeq^[n] v
    ∧ ∀ i, i < n → (s.ctx? ⟨s.node.nodeId, nextSeq^[i] v⟩).isSome = true := by
  induction k generalizing v with
  | zero => exact ⟨0, rfl, fun i low => absurd low (Nat.not_lt_zero i)⟩
  | succ k ih =>
    rw [freeSequence]
    split
    · next used =>
      obtain ⟨n, value, before⟩ := ih (nextSeq v)
      refine ⟨n + 1, value, fun i low => ?_⟩
      cases i with
      | zero => exact used
      | succ i => exact before i (by omega)
    · exact ⟨0, rfl, fun i low => absurd low (Nat.not_lt_zero i)⟩

theorem openContext_eq (p : Port) (f : OpenFields) (d : Degree) (seq : Nat) (s : State) :
    openContext p f d seq s = FreshContext ⟨s.node.nodeId, seq⟩ (.head d) (some p) (f.bidir == 1) f.first.toNat f.count.toNat f.density
      (some f.route) 0 (.line (DarkLeg .bank d (f.density + widthTerm f.count.toNat) (s.probeOn d (f.density + widthTerm f.count.toNat))))
      (if f.bidir = 1 then some (.drop d) else none) := by
  rw [openContext, newContext_eq]
  simp only [legsOf, beq_iff_eq]

theorem takeOpen_eq (f : OpenFields) (place : c.place = .head d) (s : State) :
    takeOpen f c s = send d (openReserve f c.id)
      { s with map := changedMap c c.entrySet (fun x => if x = .free then .held c.id else x) s.map
               jobs := insertCtx { c with hold := some s.node.holdTime } s.jobs
               seqCounter := nextSeq c.id.seq } := by
  simp only [takeOpen, changedMap_take, place]
  rfl

/-- Settles O19. -/
theorem openReservesTheRun : Obligations.OpenReservesTheRun := by
  unfold Obligations.OpenReservesTheRun
  intro p tag f h0 h1 hops d k s room running bit run density_low density_high fits route own named hears next few T runs floor free
  obtain ⟨n, value, before⟩ := freeSequence_eq_iterate s (Config.maxContexts + 1) s.seqCounter
  have fresh : s.ctx? ⟨s.node.nodeId, nextSeq^[n] s.seqCounter⟩ = none := by
    rw [← value]
    exact freeSequence_free (Nat.le_of_lt few) _
  have placed : openPlace f s = .ok d := openPlace_of_level route running own named hears next few floor
  have clear : reservationCause (entrySetOf s (openContext p f d (nextSeq^[n] s.seqCounter) s)) = none := by
    have entries : entrySetOf s (openContext p f d (nextSeq^[n] s.seqCounter) s) = s.map.readRuns f.first.toNat f.count.toNat runs :=
      congrArg (s.map.readRuns f.first.toNat f.count.toNat) (openContext_entrySet p f d _ s)
    rw [entries]
    exact reservationCause_of_free free
  have checked : openCheck p f s = .ok (openContext p f d (nextSeq^[n] s.seqCounter) s) := by
    simp [openCheck, (bitOk_iff _).mpr bit, (channelRunOk_iff _ _).mpr run, (densityOk_iff _).mpr ⟨density_low, density_high⟩,
      (routeOk_iff _).mpr fits, placed, value, clear]
  have once := changedMap_runsChange (f := fun e => if e = .free then SliceEntry.held ⟨s.node.nodeId, nextSeq^[n] s.seqCounter⟩ else e)
    (take_once ⟨s.node.nodeId, nextSeq^[n] s.seqCounter⟩) (openContext p f d (nextSeq^[n] s.seqCounter) s)
    (openContext p f d (nextSeq^[n] s.seqCounter) s).entrySet s.map
  refine ⟨n, _, _, fun c mem same => ?_, fun i low => ?_, openContext_entrySet p f d _ s ▸ once, insertCtx_perm _ _, ?_⟩
  · have missing := List.find?_eq_none.mp fresh c mem
    simp [same] at missing
  · obtain ⟨c, found⟩ := Option.isSome_iff_exists.mp (before i low)
    exact ⟨c, List.mem_of_find?_eq_some found, ctx?_id found⟩
  · refine (exec_command_of_hasRoom tag room (.openJob f)).trans (congrArg _ ?_)
    simp only [runRequest, doOpen, openCheck_raisePort, checked, replyDone_raisePort]
    rw [takeOpen_eq f (d := d) rfl, openContext_entrySet, ← openContext_eq]
    simp only [openReserve, item_eq_jobValue]
    rfl

end Sys2Proof.Machine
end

section
/-! PROOFS. RESTORE_LIVE (R176, R177): what its fields give, its checks in their order, the job it recreates. -/

namespace Sys2Proof.Machine

variable {s t : State} {p : Port} {d : Degree} {id : JobId} {c : Context} {f : RestoreFields} {place : Place}

/-! ### Codes of degrees and ports -/

theorem degree_ofInt_eq_some_iff {v : Int} : Degree.ofInt v = some d ↔ v = (d.toNat : Int) := by
  constructor
  · intro named
    by_cases inside : 1 ≤ v ∧ v ≤ 4
    · have cases : v = 1 ∨ v = 2 ∨ v = 3 ∨ v = 4 := by omega
      rcases cases with rfl | rfl | rfl | rfl <;> cases named <;> rfl
    · rw [degree_ofInt_eq_none (by omega)] at named
      cases named
  · rintro rfl
    cases d <;> rfl

theorem degree_ofInt_of_range {v : Int} (low : 1 ≤ v) (high : v ≤ 4) : ∃ d : Degree, v = (d.toNat : Int) := by
  have cases : v = 1 ∨ v = 2 ∨ v = 3 ∨ v = 4 := by omega
  rcases cases with rfl | rfl | rfl | rfl
  exacts [⟨.d1, rfl⟩, ⟨.d2, rfl⟩, ⟨.d3, rfl⟩, ⟨.d4, rfl⟩]

theorem degree_toNat_bounds (d : Degree) : 1 ≤ (d.toNat : Int) ∧ (d.toNat : Int) ≤ 4 := by cases d <;> decide

theorem degree_toNat_inj {d e : Degree} : d.toNat = e.toNat ↔ d = e := by
  cases d <;> cases e <;> decide

theorem port_ofInt_isSome {v : Int} : (Port.ofInt v).isSome = true ↔ 1 ≤ v ∧ v ≤ 8 := by
  unfold Port.ofInt
  constructor
  · intro named
    by_contra outside
    rw [if_neg (by omega), if_neg (by omega), if_neg (by omega), if_neg (by omega), if_neg (by omega), if_neg (by omega), if_neg (by omega),
      if_neg (by omega)] at named
    cases named
  · intro inside
    have cases : v = 1 ∨ v = 2 ∨ v = 3 ∨ v = 4 ∨ v = 5 ∨ v = 6 ∨ v = 7 ∨ v = 8 := by omega
    rcases cases with rfl | rfl | rfl | rfl | rfl | rfl | rfl | rfl <;> rfl

/-! ### The shape of a request (R176 checks 1 and 2) -/

/-- The role, the degrees and the levels of a RESTORE_LIVE that passes the form and the checks of its degrees: the place, and each line
leg's egress degree with its level. -/
inductive RestoreShape (f : RestoreFields) : Place → List (Degree × Int) → Prop
  | head {d : Degree} {v : Int} (role : f.role = 0) (up : f.upstream = none) (down : f.downstream = some (d.toNat : Int))
      (first : f.level1 = some v) (second : f.level2 = none) : RestoreShape f (.head d) [(d, v)]
  | transitOne {u d : Degree} {v : Int} (role : f.role = 1) (up : f.upstream = some (u.toNat : Int)) (down : f.downstream = some (d.toNat : Int))
      (other : u ≠ d) (one : f.bidir = 0) (first : f.level1 = some v) (second : f.level2 = none) : RestoreShape f (.transit u d) [(d, v)]
  | transitBoth {u d : Degree} {v w : Int} (role : f.role = 1) (up : f.upstream = some (u.toNat : Int))
      (down : f.downstream = some (d.toNat : Int)) (other : u ≠ d) (both : f.bidir = 1) (first : f.level1 = some v)
      (second : f.level2 = some w) : RestoreShape f (.transit u d) [(d, v), (u, w)]
  | tailOne {u : Degree} (role : f.role = 2) (up : f.upstream = some (u.toNat : Int)) (down : f.downstream = none) (one : f.bidir = 0)
      (first : f.level1 = none) (second : f.level2 = none) : RestoreShape f (.tail u) []
  | tailBoth {u : Degree} {w : Int} (role : f.role = 2) (up : f.upstream = some (u.toNat : Int)) (down : f.downstream = none)
      (both : f.bidir = 1) (first : f.level1 = some w) (second : f.level2 = none) : RestoreShape f (.tail u) [(u, w)]

theorem RestoreShape.place_eq {ls : List (Degree × Int)} (shape : RestoreShape f place ls) : restorePlace f = some place := by
  cases shape with
  | head role up down first second | tailOne role up down one first second | tailBoth role up down both first second =>
    simp [restorePlace, role, down, up, degree_ofInt_eq_some_iff]
  | transitOne role up down other one first second | transitBoth role up down other both first second =>
    simp [restorePlace, role, up, down, (degree_ofInt_eq_some_iff (d := _)).mpr rfl, other]

theorem RestoreShape.levels {ls : List (Degree × Int)} (shape : RestoreShape f place ls) :
    (lineEgress place (f.bidir == 1)).zip (restoreLevels f) = ls.map (fun x => (x.1, levelOfItem x.2)) := by
  cases shape <;> simp_all [lineEgress, restoreLevels]

theorem restoreLevelOk_iff (T v : Int) (q : DegreeParams) : restoreLevelOk T q (levelOfItem v) = true ↔
    v ≠ -2147483648 ∧ q.levelFloor ≤ T ∧ q.levelFloor ≤ v ∧ v ≤ T ∧ v ≤ max q.levelFloor q.levelCeiling := by
  by_cases off : v = -2147483648
  · simp [restoreLevelOk, levelOfItem, off]
  · rw [levelOfItem, if_neg off, restoreLevelOk, decide_eq_true_eq, workingCeiling]
    split <;> omega

theorem RestoreShape.levelsOk_iff {ls : List (Degree × Int)} (shape : RestoreShape f place ls) : restoreLevelsOk f place s = true ↔
    ∀ x, x ∈ ls → restoreLevelOk (f.density + widthTerm f.count.toNat) (s.deg x.1) (levelOfItem x.2) = true := by
  rw [restoreLevelsOk, shape.levels, List.all_map, List.all_eq_true]
  rfl

/-- The runs of the entry set: both directions of each degree, the second of each where the job is bidirectional (R20). -/
theorem RestoreShape.mem_runsOf {ls : List (Degree × Int)} (shape : RestoreShape f place ls) (x : Degree × MapDir) :
    x ∈ runsOf place (f.bidir == 1) ↔ (f.upstream = some (x.1.toNat : Int) ∧ (x.2 = .incoming ∨ f.bidir = 1))
      ∨ (f.downstream = some (x.1.toNat : Int) ∧ (x.2 = .outgoing ∨ f.bidir = 1)) := by
  obtain ⟨e, dir⟩ := x
  by_cases both : f.bidir = 1 <;> cases shape <;> cases dir <;>
    simp_all [runsOf, degree_toNat_inj, eq_comm (a := e), or_comm]

/-- Which level a request gives to which degree (R176). -/
theorem RestoreShape.mem_levels {ls : List (Degree × Int)} (shape : RestoreShape f place ls) (e : Degree) (v : Int) :
    (e, v) ∈ ls ↔ (f.downstream = some (e.toNat : Int) ∧ f.level1 = some v)
      ∨ (f.bidir = 1 ∧ f.upstream = some (e.toNat : Int) ∧ (if f.role = 1 then f.level2 else f.level1) = some v) := by
  cases shape <;> simp_all [degree_toNat_inj, eq_comm (a := e), eq_comm (a := v)]

theorem restoreFits_iff (f : RestoreFields) :
    let levels : Nat := if f.role = 0 then 1 else if f.role = 1 then 1 + f.bidir.toNat else f.bidir.toNat
    restoreFits f = true ↔ 0 ≤ f.role ∧ f.role ≤ 2 ∧ (f.bidir = 0 ∨ f.bidir = 1) ∧ (f.owner.isSome = true ↔ f.role ≠ 1)
      ∧ (f.upstream.isSome = true ↔ f.role ≠ 0) ∧ (f.downstream.isSome = true ↔ f.role ≠ 2)
      ∧ (f.level1.isSome = true ↔ 1 ≤ levels) ∧ (f.level2.isSome = true ↔ levels = 2) := by
  intro levels
  by_cases coded : 0 ≤ f.role ∧ f.role ≤ 2 ∧ (f.bidir = 0 ∨ f.bidir = 1)
  · obtain ⟨low, high, bit⟩ := coded
    have roles : f.role = 0 ∨ f.role = 1 ∨ f.role = 2 := by omega
    rcases roles with role | role | role <;> rcases bit with bit | bit <;> simp [restoreFits, levels, role, bit, bitOk, and_assoc]
  · constructor
    · intro fits
      simp only [restoreFits, bitOk_iff, Bool.and_eq_true, decide_eq_true_eq] at fits
      omega
    · rintro ⟨low, high, bit, -⟩
      exact absurd ⟨low, high, bit⟩ coded

/-- The form of a RESTORE_LIVE, for a request that has it (R176 check 1). -/
structure RestoreForm (f : RestoreFields) : Prop where
  roles : f.role = 0 ∨ f.role = 1 ∨ f.role = 2
  bit : f.bidir = 0 ∨ f.bidir = 1
  owner : f.owner.isSome = true ↔ f.role ≠ 1
  up : f.upstream.isSome = true ↔ f.role ≠ 0
  down : f.downstream.isSome = true ↔ f.role ≠ 2
  first : f.level1.isSome = true ↔ f.role = 0 ∨ f.role = 1 ∨ f.bidir = 1
  second : f.level2.isSome = true ↔ f.role = 1 ∧ f.bidir = 1

theorem RestoreForm.of_fits (fits : restoreFits f = true) : RestoreForm f := by
  obtain ⟨low, high, bit, owner, up, down, first, second⟩ := (restoreFits_iff f).mp fits
  refine ⟨by omega, bit, owner, up, down, first.trans ?_, second.trans ?_⟩
  · split <;> try split
    all_goals omega
  · split <;> try split
    all_goals omega

/-- The degrees of a request that has its form lie in range, and a TRANSIT's differ (R176 check 2). -/
def RestoreDegrees (f : RestoreFields) : Prop :=
  (∀ d, f.upstream = some d → 1 ≤ d ∧ d ≤ 4) ∧ (∀ d, f.downstream = some d → 1 ≤ d ∧ d ≤ 4) ∧ (f.role = 1 → f.upstream ≠ f.downstream)

theorem RestoreShape.degrees {ls : List (Degree × Int)} (shape : RestoreShape f place ls) : RestoreDegrees f := by
  have bounds := degree_toNat_bounds
  cases shape <;> simp_all [RestoreDegrees, degree_toNat_inj]

theorem RestoreForm.shape (form : RestoreForm f) (degrees : RestoreDegrees f) : ∃ place ls, RestoreShape f place ls := by
  obtain ⟨roles, bit, -, up_given, down_given, first_given, second_given⟩ := form
  obtain ⟨up_range, down_range, differ⟩ := degrees
  have up_of (other : f.role ≠ 0) : ∃ u : Degree, f.upstream = some (u.toNat : Int) := by
    obtain ⟨v, given⟩ := Option.isSome_iff_exists.mp (up_given.mpr other)
    obtain ⟨u, rfl⟩ := degree_ofInt_of_range (up_range v given).1 (up_range v given).2
    exact ⟨u, given⟩
  have down_of (other : f.role ≠ 2) : ∃ d : Degree, f.downstream = some (d.toNat : Int) := by
    obtain ⟨v, given⟩ := Option.isSome_iff_exists.mp (down_given.mpr other)
    obtain ⟨d, rfl⟩ := degree_ofInt_of_range (down_range v given).1 (down_range v given).2
    exact ⟨d, given⟩
  have absent {o : Option Int} {given : Prop} (iff : o.isSome = true ↔ given) (no : ¬ given) : o = none :=
    Option.not_isSome_iff_eq_none.mp (mt iff.mp no)
  have present {o : Option Int} {given : Prop} (iff : o.isSome = true ↔ given) (yes : given) : ∃ v, o = some v :=
    Option.isSome_iff_exists.mp (iff.mpr yes)
  rcases roles with role | role | role
  · obtain ⟨d, down⟩ := down_of (by omega)
    obtain ⟨v, first⟩ := present first_given (.inl role)
    exact ⟨_, _, .head role (absent up_given (by omega)) down first (absent second_given (by omega))⟩
  · obtain ⟨u, up⟩ := up_of (by omega)
    obtain ⟨d, down⟩ := down_of (by omega)
    obtain ⟨v, first⟩ := present first_given (.inr (.inl role))
    have other : u ≠ d := by
      rintro rfl
      exact differ role (up.trans down.symm)
    rcases bit with one | both
    · exact ⟨_, _, .transitOne role up down other one first (absent second_given (by omega))⟩
    · obtain ⟨w, second⟩ := present second_given ⟨role, both⟩
      exact ⟨_, _, .transitBoth role up down other both first second⟩
  · obtain ⟨u, up⟩ := up_of (by omega)
    rcases bit with one | both
    · exact ⟨_, _, .tailOne role up (absent down_given (by omega)) one (absent first_given (by omega)) (absent second_given (by omega))⟩
    · obtain ⟨w, first⟩ := present first_given (.inr (.inr both))
      exact ⟨_, _, .tailBoth role up (absent down_given (by omega)) both first (absent second_given (by omega))⟩

/-- A place is found just where the degrees pass. -/
theorem RestoreForm.place_eq_none (form : RestoreForm f) (bad : ¬ RestoreDegrees f) : restorePlace f = none := by
  have absent {o : Option Int} {given : Prop} (iff : o.isSome = true ↔ given) (no : ¬ given) : o = none :=
    Option.not_isSome_iff_eq_none.mp (mt iff.mp no)
  have bounds := degree_toNat_bounds
  rw [Option.eq_none_iff_forall_ne_some]
  intro place found
  refine bad ?_
  rcases form.roles with role | role | role
  · have up := absent form.up (by omega)
    simp only [restorePlace, role, if_true, Option.map_eq_some_iff, Option.bind_eq_some_iff, degree_ofInt_eq_some_iff] at found
    obtain ⟨d, ⟨v, down, rfl⟩, -⟩ := found
    simp [RestoreDegrees, role, up, down, bounds]
  · simp only [restorePlace, role, one_ne_zero, if_false, show (1 : Int) ≠ 2 by decide] at found
    split at found
    · next u d up_at down_at =>
      obtain ⟨v, up, named_up⟩ := Option.bind_eq_some_iff.mp up_at
      obtain ⟨w, down, named_down⟩ := Option.bind_eq_some_iff.mp down_at
      obtain rfl := degree_ofInt_eq_some_iff.mp named_up
      obtain rfl := degree_ofInt_eq_some_iff.mp named_down
      split at found
      · cases found
      · next other => simp [RestoreDegrees, up, down, bounds, degree_toNat_inj, other]
    · cases found
  · have down := absent form.down (by omega)
    simp only [restorePlace, role, if_true, if_false, show (2 : Int) ≠ 0 by decide, Option.map_eq_some_iff, Option.bind_eq_some_iff, degree_ofInt_eq_some_iff] at found
    obtain ⟨d, ⟨v, up, rfl⟩, -⟩ := found
    simp [RestoreDegrees, role, up, down, bounds]

theorem restoreRangesOk_iff (f : RestoreFields) : restoreRangesOk f = true ↔
    1 ≤ f.job.head ∧ f.job.head ≤ 65534 ∧ 1 ≤ f.job.seq ∧ f.job.seq ≤ 65535 ∧ (f.role = 0 → f.hopIndex = 0)
      ∧ (f.role ≠ 0 → 1 ≤ f.hopIndex ∧ f.hopIndex ≤ 15) ∧ (∀ q, f.owner = some q → 1 ≤ q ∧ q ≤ 8) ∧ ChannelRun f.first f.count
      ∧ -2000 ≤ f.density ∧ f.density ≤ 500 := by
  simp only [restoreRangesOk, Bool.and_eq_true, decide_eq_true_eq, channelRunOk_iff, densityOk_iff, Option.all_eq_true, port_ofInt_isSome]
  by_cases role : f.role = 0 <;> simp [role, and_assoc]

/-! ### The checks in their order, and the job recreated (R35, R52, R177) -/

theorem restoreCheck_of_degrees {ls : List (Degree × Int)} (stopped : s.running = false) (ranges : restoreRangesOk f = true)
    (shape : RestoreShape f place ls) : restoreCheck f s =
      if !restoreLevelsOk f place s then .error .badLevel
      else if Config.maxContexts ≤ s.jobs.length then .error .noContext
      else if (s.ctx? f.job).isSome then .error .conflict
      else if (entrySetOf s (restoreContext f place s)).all (· == .unknown) then .ok (restoreContext f place s)
      else .error .conflict := by
  simp only [restoreCheck, stopped, ranges, shape.place_eq]
  rfl

theorem restoreContext_eq (f : RestoreFields) (place : Place) (s : State) :
    let legs := legsOf place (f.density + widthTerm f.count.toNat) s
    restoreContext f place s =
      { FreshContext f.job place (f.owner.bind Port.ofInt) (f.bidir == 1) f.first.toNat f.count.toNat f.density none f.hopIndex.toNat
          (legs.1.restore (restoreLevels f))
          (if (f.bidir == 1) = true then some (legs.2.restore (restLevels legs.1 (restoreLevels f))) else none) with
        phase := .live, reached := true } := by
  intro legs
  rw [restoreContext, newContext_eq]
  cases f.bidir == 1 <;> rfl

theorem legRestore_runs (levels : List Level) (leg : Leg) : (leg.restore levels).runs = leg.runs := by
  cases leg <;> rcases levels with _ | ⟨_ | _, _⟩ <;> rfl

theorem restoreContext_entrySet (f : RestoreFields) (place : Place) (s : State) :
    (restoreContext f place s).entrySet = runsOf place (f.bidir == 1) := by
  rw [restoreContext_eq]
  cases place <;> cases f.bidir == 1 <;> simp [Context.entrySet, Context.legs, FreshContext, legRestore_runs] <;> rfl

theorem entrySetOf_restoreContext (f : RestoreFields) (place : Place) (s : State) :
    entrySetOf s (restoreContext f place s) = s.map.readRuns f.first.toNat f.count.toNat (runsOf place (f.bidir == 1)) :=
  congrArg (s.map.readRuns f.first.toNat f.count.toNat) (restoreContext_entrySet f place s)

theorem SliceEntry.restore_eq (id : JobId) (e : SliceEntry) : SliceEntry.restore id e = if e = .unknown then .live id else e := by
  cases e <;> rfl

theorem restore_once (id : JobId) : ∀ e, (fun e => if e = .unknown then SliceEntry.live id else e)
    ((fun e => if e = .unknown then SliceEntry.live id else e) e) = (fun e => if e = .unknown then SliceEntry.live id else e) e := by
  intro e
  by_cases unknown : e = .unknown <;> simp [unknown]

theorem legRestore_num (i : Point) (e : Degree) (T probe v : Int) (rest : List Level) (number : v ≠ -2147483648) :
    (Leg.line (DarkLeg i e T probe)).restore (levelOfItem v :: rest) = .line (RestoredLeg i e T probe v) := by
  rw [levelOfItem, if_neg number]
  rfl

theorem legRestore_none (leg : Leg) : leg.restore [] = leg := by cases leg <;> rfl

theorem legRestore_drop (e : Degree) (levels : List Level) : (Leg.drop e).restore levels = .drop e := rfl

/-- A RESTORE_LIVE that passes every check. -/
theorem exec_restoreLive_of_pass (tag : Byte) (room : HasRoom p s) (fits : restoreFits f = true)
    (checked : restoreCheck f s = .ok c) (id_eq : c.id = f.job) :
    ∃ m jobs, RunsChange c.first c.count c.entrySet (fun e => if e = .unknown then .live f.job else e) s.map m
      ∧ jobs.Perm (c :: s.jobs)
      ∧ exec (.restoreLive p tag f) s = .next { Answered p tag (.done []) s with map := m, jobs := jobs } := by
  refine ⟨_, _, changedMap_runsChange (f := fun e => if e = .unknown then SliceEntry.live f.job else e) (restore_once f.job) c c.entrySet s.map,
    insertCtx_perm c s.jobs, ?_⟩
  refine (exec_command_of_hasRoom tag room (.restoreLive f)).trans (congrArg _ ?_)
  have raised : restoreCheck f (raisePort p s) = .ok c := checked
  simp only [runRequest, doRestoreLive, fits, raised, if_true, id_eq, funext (SliceEntry.restore_eq f.job), changeFor_eq]
  exact reply_raisePort p tag (.done []) { s with
    map := changedMap c c.entrySet (fun e => if e = .unknown then .live f.job else e) s.map, jobs := insertCtx c s.jobs }

theorem exec_restoreLive_of_fail (tag : Byte) (room : HasRoom p s) (fits : restoreFits f = true) {r : Reason}
    (checked : restoreCheck f s = .error r) : exec (.restoreLive p tag f) s = .next (Answered p tag (.refused r) s) := by
  refine (exec_command_of_hasRoom tag room (.restoreLive f)).trans (congrArg _ ?_)
  have raised : restoreCheck f (raisePort p s) = .error r := checked
  simp only [runRequest, doRestoreLive, fits, raised, if_true, replyRefused_raisePort]

theorem exec_restoreLive_of_misfit (tag : Byte) (room : HasRoom p s) (misfit : ¬ restoreFits f = true) :
    exec (.restoreLive p tag f) s = .next (Answered p tag (.refused .badRequest) s) := by
  refine (exec_command_of_hasRoom tag room (.restoreLive f)).trans (congrArg _ ?_)
  simp only [runRequest, doRestoreLive, misfit, replyRefused_raisePort]
  rfl

theorem runsOf_unknown (f : RestoreFields) (place : Place) (s : State)
    (every : ∀ x, x ∈ runsOf place (f.bidir == 1) → ∀ k, f.first.toNat ≤ k → k < f.first.toNat + f.count.toNat → s.entry x.1 x.2 k = some .unknown) :
    (entrySetOf s (restoreContext f place s)).all (· == .unknown) = true := by
  rw [entrySetOf_restoreContext, List.all_eq_true]
  intro e mem
  rw [readRuns_of_all every e mem]
  rfl

theorem restoreCheck_of_pass {ls : List (Degree × Int)} (stopped : s.running = false) (ranges : restoreRangesOk f = true)
    (shape : RestoreShape f place ls) (levels : restoreLevelsOk f place s = true) (room : s.jobs.length < 64) (fresh : s.ctx? f.job = none)
    (unknown : (entrySetOf s (restoreContext f place s)).all (· == .unknown) = true) :
    restoreCheck f s = .ok (restoreContext f place s) := by
  rw [restoreCheck_of_degrees stopped ranges shape, levels, fresh, unknown, if_neg (show ¬ Config.maxContexts ≤ s.jobs.length by
    simpa [Config.maxContexts] using room)]
  rfl

/-- Settles O28. -/
theorem restoreLiveRecreatesTheJob : Obligations.RestoreLiveRecreatesTheJob := by
  unfold Obligations.RestoreLiveRecreatesTheJob
  refine ⟨?taken, ?refused⟩
  case taken =>
    intro p tag f place owner fwd rev s room stopped bit head_low head_high seq_low seq_high run density_low density_high few fresh T fits
      form c shaped every
    have given : (∃ ls, RestoreShape f place ls ∧ ∀ x, x ∈ ls → fits x.1 x.2) ∧ restoreFits f = true ∧ restoreRangesOk f = true
        ∧ c = restoreContext f place s := by
      have in_ranges (hop : if f.role = 0 then f.hopIndex = 0 else 1 ≤ f.hopIndex ∧ f.hopIndex ≤ 15)
          (port : ∀ q, f.owner = some q → Port.ofInt q ≠ none) : restoreRangesOk f = true := by
        refine (restoreRangesOk_iff f).mpr ⟨head_low, head_high, seq_low, seq_high, fun role => ?_, fun role => ?_,
          fun q own => port_ofInt_isSome.mp (Option.isSome_iff_ne_none.mpr (port q own)), run, density_low, density_high⟩
        · rwa [if_pos role] at hop
        · rwa [if_neg role] at hop
      simp only [c, restoreContext_eq]
      rcases shaped with ⟨d, v, q, rfl, role, hop, own, owner_eq, owned, up, down, first, second, fit, rfl, rfl⟩
        | ⟨u, d, v, rfl, other, role, hop_low, hop_high, own, rfl, up, down, first, fit, rfl, back⟩
        | ⟨u, q, rfl, role, hop_low, hop_high, own, owner_eq, owned, up, down, second, rfl, back⟩
      · refine ⟨⟨_, .head role up down first second, by simpa using fit⟩, (restoreFits_iff f).mpr ?_,
          in_ranges (by rwa [if_pos role]) (by simpa [own, owner_eq] using owned), ?_⟩
        · simp [role, own, up, down, first, second, bit]
        · simp [legsOf, restoreLevels, first, second, own, owner_eq, legRestore_num _ _ _ _ _ _ fit.1, restLevels, legRestore_drop, T]
      · rcases back with ⟨one, second, rfl⟩ | ⟨w, both, second, back_fit, rfl⟩
        · refine ⟨⟨_, .transitOne role up down other one first second, by simpa using fit⟩, (restoreFits_iff f).mpr ?_,
            in_ranges (by rw [if_neg (by omega)]; exact ⟨hop_low, hop_high⟩) (by simp [own]), ?_⟩
          · simp [role, own, up, down, first, second, one]
          · simp [legsOf, restoreLevels, first, second, own, legRestore_num _ _ _ _ _ _ fit.1, one, T]
        · refine ⟨⟨_, .transitBoth role up down other both first second, by simpa using ⟨fit, back_fit⟩⟩, (restoreFits_iff f).mpr ?_,
            in_ranges (by rw [if_neg (by omega)]; exact ⟨hop_low, hop_high⟩) (by simp [own]), ?_⟩
          · simp [role, own, up, down, first, second, both]
          · simp [legsOf, restoreLevels, first, second, own, legRestore_num _ _ _ _ _ _ fit.1, legRestore_num _ _ _ _ _ _ back_fit.1, both,
              restLevels, T]
      · rcases back with ⟨one, first, rfl⟩ | ⟨w, both, first, back_fit, rfl⟩
        · refine ⟨⟨_, .tailOne role up down one first second, by simp⟩, (restoreFits_iff f).mpr ?_,
            in_ranges (by rw [if_neg (by omega)]; exact ⟨hop_low, hop_high⟩) (by simpa [own, owner_eq] using owned), ?_⟩
          · simp [role, own, up, down, first, second, one]
          · simp [legsOf, restoreLevels, first, second, own, owner_eq, one, legRestore_drop]
        · refine ⟨⟨_, .tailBoth role up down both first second, by simpa using back_fit⟩, (restoreFits_iff f).mpr ?_,
            in_ranges (by rw [if_neg (by omega)]; exact ⟨hop_low, hop_high⟩) (by simpa [own, owner_eq] using owned), ?_⟩
          · simp [role, own, up, down, first, second, both]
          · simp [legsOf, restoreLevels, first, second, own, owner_eq, both, restLevels, legRestore_drop,
              legRestore_num _ _ _ _ _ _ back_fit.1, T]
    obtain ⟨⟨ls, shape, levels⟩, fit, ranges, c_eq⟩ := given
    refine ⟨?_, ?_⟩
    · refine exec_restoreLive_of_pass (c := c) tag room fit ?_ rfl
      rw [c_eq]
      refine restoreCheck_of_pass stopped ranges shape (shape.levelsOk_iff.mpr fun x mem => (restoreLevelOk_iff ..).mpr (levels x mem)) few fresh
        (runsOf_unknown f place s ?_)
      rw [c_eq, restoreContext_entrySet] at every
      exact every
    · exact exec_restoreLive_of_fail (s := { s with running := true }) tag room fit (by simp [restoreCheck])
  case refused =>
    intro p tag f s room refused levels fits ranges T levelOf good inSet
    have fits_iff : restoreFits f = true ↔ fits := restoreFits_iff f
    have ranges_iff : ranges ↔ restoreRangesOk f = true ∧ RestoreDegrees f := by
      rw [restoreRangesOk_iff, RestoreDegrees]
      simp only [ranges]
      tauto
    have fails (fit : fits) {r : Reason} (checked : restoreCheck f s = .error r) : refused r :=
      exec_restoreLive_of_fail tag room (fits_iff.mpr fit) checked
    refine ⟨fun misfit => exec_restoreLive_of_misfit tag room (mt fits_iff.mp misfit),
      fun fit running => fails fit (by simp [restoreCheck, running]), fun fit stopped outside => fails fit ?_, ?_, ?_⟩
    · have form := RestoreForm.of_fits (fits_iff.mpr fit)
      by_cases inside : restoreRangesOk f = true
      · have nowhere := form.place_eq_none (fun degrees => outside (ranges_iff.mpr ⟨inside, degrees⟩))
        simp [restoreCheck, stopped, inside, nowhere]
      · simp [restoreCheck, stopped, inside]
    all_goals
      intro fit stopped inside
      obtain ⟨in_range, degrees⟩ := ranges_iff.mp inside
      obtain ⟨place, ls, shape⟩ := (RestoreForm.of_fits (fits_iff.mpr fit)).shape degrees
      have good_iff : restoreLevelsOk f place s = true ↔ ∀ d v, levelOf d v → good d v := by
        rw [shape.levelsOk_iff, Prod.forall]
        exact forall_congr' fun d => forall_congr' fun v => by rw [shape.mem_levels, restoreLevelOk_iff]
      rw [restoreCheck_of_degrees stopped in_range shape] at fails
    · rintro ⟨d, v, given, bad⟩
      have low : ¬ restoreLevelsOk f place s = true := fun ok => bad (good_iff.mp ok d v given)
      exact fails fit (by simp [low])
    · intro high
      have ok := good_iff.mpr high
      refine ⟨fun full => fails fit ?_, fun few known => fails fit ?_, fun few fresh => ?_⟩
      · simp [ok, Config.maxContexts, full]
      · simp [ok, Config.maxContexts, few, Option.isSome_iff_ne_none, known]
      · rintro ⟨d, dir, k, e, mem, low, high, at_k, named⟩
        have other : ¬ (entrySetOf s (restoreContext f place s)).all (· == .unknown) = true := by
          rw [entrySetOf_restoreContext, List.all_eq_true]
          intro every
          have unknown := every e (mem_readRuns_iff.mpr ⟨(d, dir), (shape.mem_runsOf _).mpr mem, k, low, high, at_k⟩)
          exact named (by simpa using unknown)
        exact fails fit (by simp [ok, Config.maxContexts, few, fresh, other])

end Sys2Proof.Machine
end

section
/-! PROOFS. What lowering, releasing and granting can do to the legs, the contexts and the map (chapters 3, 5, 6), as one relation of
base steps; it says what a failure or a ramp-down leaves behind. -/

namespace Sys2Proof.Machine

variable {s t u : State} {id : JobId} {c : Context} {r q : LegRef}

/-! ### Finding after a change -/

theorem ctx?_modCtx {f : Context → Context} (keeps : ∀ c, (f c).id = c.id) (id j : JobId) (s : State) :
    (modCtx id f s).ctx? j = (s.ctx? j).map (fun c => if c.id = id then f c else c) := by
  unfold State.ctx? modCtx
  rw [List.find?_map]
  congr 2
  funext c
  simp only [Function.comp_apply]
  split <;> simp [keeps]

theorem ctx?_modCtx_same {f : Context → Context} (keeps : ∀ c, (f c).id = c.id) (found : s.ctx? id = some c) :
    (modCtx id f s).ctx? id = some (f c) := by
  rw [ctx?_modCtx keeps, found, Option.map_some, if_pos (ctx?_id found)]

theorem ctx?_modCtx_other {f : Context → Context} (keeps : ∀ c, (f c).id = c.id) {j : JobId} (other : j ≠ id) :
    (modCtx id f s).ctx? j = s.ctx? j := by
  rw [ctx?_modCtx keeps]
  cases found : s.ctx? j with
  | none => rfl
  | some c => rw [Option.map_some, if_neg (by rw [ctx?_id found]; exact other)]

theorem mapLine_id (dir : Dir) (f : LineLeg → LineLeg) (c : Context) : (c.mapLine dir f).id = c.id := by cases dir <;> rfl

theorem leg_mapLine_line? (f : LineLeg → LineLeg) (leg : Leg) : (leg.mapLine f).line? = leg.line?.map f := by cases leg <;> rfl

theorem line?_mapLine (dir e : Dir) (f : LineLeg → LineLeg) (c : Context) :
    (c.mapLine dir f).line? e = if e = dir then (c.line? e).map f else c.line? e := by
  cases dir <;> cases e <;> simp [Context.mapLine, Context.line?, Context.leg?, leg_mapLine_line?]
  cases c.rev <;> simp [leg_mapLine_line?]

theorem leg?_modLeg (r q : LegRef) (f : LineLeg → LineLeg) (s : State) :
    (modLeg r f s).leg? q = if q = r then (s.leg? q).map f else s.leg? q := by
  unfold State.leg? modLeg
  rw [ctx?_modCtx (mapLine_id r.dir f)]
  cases found : s.ctx? q.job with
  | none => simp
  | some c =>
    obtain ⟨j, dir⟩ := r
    obtain ⟨k, e⟩ := q
    obtain rfl : c.id = k := ctx?_id found
    by_cases same : c.id = j
    · by_cases side : e = dir <;> simp [same, side, line?_mapLine]
    · simp [same]

theorem leg?_modLeg_same {l : LineLeg} {f : LineLeg → LineLeg} (found : s.leg? r = some l) : (modLeg r f s).leg? r = some (f l) := by
  simp [leg?_modLeg, found]

theorem leg?_modLeg_other {f : LineLeg → LineLeg} (other : q ≠ r) : (modLeg r f s).leg? q = s.leg? q := by
  simp [leg?_modLeg, other]

theorem ctx?_dropCtx (id j : JobId) (s : State) : (dropCtx id s).ctx? j = if j = id then none else s.ctx? j := by
  unfold State.ctx? dropCtx
  rw [List.find?_filter]
  split
  · next same =>
    subst same
    rw [List.find?_eq_none]
    simp
  · next other =>
    congr 1
    funext c
    by_cases named : c.id = j
    · simp [named, other]
    · simp [named]

theorem leg?_dropCtx (id : JobId) (r : LegRef) (s : State) : (dropCtx id s).leg? r = if r.job = id then none else s.leg? r := by
  unfold State.leg?
  rw [ctx?_dropCtx]
  split <;> rfl

theorem leg?_of_jobs (jobs : t.jobs = s.jobs) (r : LegRef) : t.leg? r = s.leg? r := by
  unfold State.leg? State.ctx?
  rw [jobs]

theorem ctx?_of_jobs (jobs : t.jobs = s.jobs) (id : JobId) : t.ctx? id = s.ctx? id := by
  unfold State.ctx?
  rw [jobs]

theorem ctx?_of_leg? {l : LineLeg} (found : s.leg? r = some l) : ∃ c, s.ctx? r.job = some c ∧ c.line? r.dir = some l :=
  Option.bind_eq_some_iff.mp found

theorem before_irrefl (a : JobId) : a.before a = false := by simp [JobId.before]

/-- In a job table with no two contexts of the same id, a context is what its id finds (R37). -/
theorem ctx?_of_mem (inv : JobInv s) {b : Context} (mem : b ∈ s.jobs) : s.ctx? b.id = some b := by
  have ordered := inv.2
  unfold State.ctx?
  generalize s.jobs = jobs at mem ordered
  induction jobs with
  | nil => cases mem
  | cons c cs ih =>
    obtain ⟨first, rest⟩ := List.pairwise_cons.mp ordered
    rcases List.mem_cons.mp mem with rfl | later
    · simp
    · have other : c.id ≠ b.id := by
        intro same
        have := first b later
        rw [same, before_irrefl] at this
        cases this
      rw [List.find?_cons_of_neg (by simpa using other)]
      exact ih later rest

/-! ### The base steps of lowering, releasing and granting -/

/-- The leg states that lowering, re-queuing and granting lead to. -/
def LegState.Moving (x : LegState) : Prop := x ∉ [LegState.dark, .atTarget, .backoff, .frozen]

theorem LegState.moving_off : LegState.off.Moving := by simp [Moving]
theorem LegState.moving_queued : LegState.queued.Moving := by simp [Moving]
theorem LegState.moving_stepping : LegState.stepping.Moving := by simp [Moving]
theorem LegState.moving_headroomWait : LegState.headroomWait.Moving := by simp [Moving]
theorem LegState.moving_rampingDown : LegState.rampingDown.Moving := by simp [Moving]

/-- One base step of lowering, releasing or granting: something that is neither a job's nor the map's; a line leg that keeps its fixed
fields moving on; entries of a job lit, abandoned, or released as it fails; a failed job freed; a closed job freed with its entries. -/
inductive Lower : State → State → Prop
  | quiet {s t : State} (map : t.map = s.map) (jobs : t.jobs = s.jobs) : Lower s t
  | leg (r : LegRef) (f : LineLeg → LineLeg) (s : State) (fixed : ∀ l, (f l).fixed = l.fixed)
      (moves : ∀ l, (f l).state = l.state ∨ (f l).state.Moving) : Lower s (modLeg r f s)
  | light (id : JobId) (first count : Nat) (runs : List (Degree × MapDir)) (s : State) :
      Lower s (modMap (SpectrumMap.changeRuns (SliceEntry.light id) first count runs) s)
  | abandon (id : JobId) (first count : Nat) (runs : List (Degree × MapDir)) (s : State) (used : (s.ctx? id).isSome = true) :
      Lower s (modMap (SpectrumMap.changeRuns (SliceEntry.abandon id) first count runs) s)
  | release {b : Context} (id : JobId) (first count : Nat) (runs : List (Degree × MapDir)) (s : State) (found : s.ctx? id = some b)
      (fails : b.phase = .failing) : Lower s (modMap (SpectrumMap.changeRuns (SliceEntry.release id) first count runs) s)
  | freed {b : Context} (id : JobId) (s : State) (found : s.ctx? id = some b) (fails : b.phase = .failing) : Lower s (dropCtx id s)
  | closed {b : Context} {s t : State} (id : JobId) (found : s.ctx? id = some b) (closing : b.phase = .teardown)
      (map : t.map = changedMap b b.entrySet (SliceEntry.release id) s.map) (jobs : t.jobs = s.jobs) : Lower s (dropCtx id t)

abbrev Lowers : State → State → Prop := Relation.ReflTransGen Lower

theorem Lowers.refl : Lowers s s := Relation.ReflTransGen.refl

theorem Lowers.one (h : Lower s t) : Lowers s t := Relation.ReflTransGen.single h

theorem Lowers.quiet (map : t.map = s.map := by rfl) (jobs : t.jobs = s.jobs := by rfl) : Lowers s t := .one (.quiet map jobs)

theorem Lowers.leg (f : LineLeg → LineLeg) (s : State) (fixed : ∀ l, (f l).fixed = l.fixed := by exact fun _ => rfl)
    (moves : ∀ l, (f l).state = l.state ∨ (f l).state.Moving := by exact fun _ => .inl rfl) : Lowers s (modLeg r f s) :=
  .one (.leg r f s fixed moves)

/-- A leg that goes to a state lowering leads to. -/
theorem Lowers.legTo (f : LineLeg → LineLeg) {x : LegState} (moving : x.Moving) (s : State)
    (fixed : ∀ l, (f l).fixed = l.fixed := by exact fun _ => rfl) (goes : ∀ l, (f l).state = x := by exact fun _ => rfl) :
    Lowers s (modLeg r f s) := .leg f s fixed fun l => .inr (goes l ▸ moving)

theorem Lowers.onCtx {k : Context → State → State} (acts : ∀ c, s.ctx? id = some c → Lowers s (k c s)) : Lowers s (onCtx id k s) := by
  unfold Machine.onCtx
  split
  · next c found => exact acts c found
  · exact .refl

theorem Lowers.onLeg {k : LineLeg → State → State} (acts : ∀ l, s.leg? r = some l → Lowers s (k l s)) : Lowers s (onLeg r k s) := by
  unfold Machine.onLeg
  split
  · next l found => exact acts l found
  · exact .refl

theorem Lowers.foldl {α : Type} {f : State → α → State} (step : ∀ s a, Lowers s (f s a)) (l : List α) (s : State) : Lowers s (l.foldl f s) := by
  induction l generalizing s with
  | nil => exact .refl
  | cons a l ih => exact (step s a).trans (ih _)

/-! ### Granting and the issue of scans are made of them -/

theorem requeue_lowers (d : Degree) (s : State) : Lowers s (requeue d s) :=
  (Lowers.foldl (fun s _ => .legTo LineLeg.requeued LegState.moving_queued s) _ s).trans (Lowers.quiet)

theorem issueNext_lowers (s : State) : Lowers s (issueNext s) := by
  unfold issueNext
  split
  · exact .refl
  · split
    · exact .refl
    · next request rest =>
      unfold markIssued
      split <;> exact Lowers.quiet

theorem requestScan_lowers (q : ScanRequest) (s : State) : Lowers s (requestScan q s) := Lowers.quiet

theorem withdraw_lowers (r : LegRef) (s : State) : Lowers s (withdraw r s) := Lowers.quiet

theorem detach_lowers (d : Degree) (r : LegRef) (s : State) : Lowers s (detach d r s) := Lowers.quiet

theorem modArb_lowers (d : Degree) (f : Arbiter → Arbiter) (s : State) : Lowers s (modArb d f s) := Lowers.quiet

theorem map_notifyOwner (o : Option Port) (n : Notice) (s : State) : (notifyOwner o n s).map = s.map := by cases o <;> rfl

theorem notifyOwner_jobs (o : Option Port) (n : Notice) (s : State) : (notifyOwner o n s).jobs = s.jobs := by cases o <;> rfl

theorem sendOn_map (d : Option Degree) (m : Message) (s : State) : (sendOn d m s).map = s.map := by cases d <;> rfl

theorem notifyOwner_lowers (o : Option Port) (n : Notice) (s : State) : Lowers s (notifyOwner o n s) :=
  Lowers.quiet (map_notifyOwner o n s) (notifyOwner_jobs o n s)

theorem endStep_fixed (v : Verdict) (l : LineLeg) : (LineLeg.endStep v l).fixed = l.fixed := by
  unfold LineLeg.endStep
  split <;> rfl

theorem endStep_state (v : Verdict) (l : LineLeg) : (LineLeg.endStep v l).state = l.state := by
  unfold LineLeg.endStep
  split <;> rfl

theorem endStep_lowers (r : LegRef) (v : Verdict) (s : State) : Lowers s (endStep r v s) :=
  .leg _ s (endStep_fixed v) (fun l => .inl (endStep_state v l))

theorem mapStep_lowers (r : LegRef) (f : StepState → StepState) (s : State) : Lowers s (modLeg r (LineLeg.mapStep f) s) := .leg _ s

theorem actuate_lowers (r : LegRef) (s : State) : Lowers s (actuate r s) := by
  refine Lowers.onCtx fun c _ => Lowers.onLeg fun l _ => ?_
  split
  · next st _ =>
    have commanded : Lowers s (modLeg r (LineLeg.mapStep (fun st => { st with stage := .actuate }))
        (modAct l.egress (Actuator.command r c st.requested (s.deg l.egress).actuatorTimeout) s)) :=
      (Lowers.quiet).trans (mapStep_lowers ..)
    dsimp only
    split
    · exact commanded.trans (Lowers.one (.light ..))
    · exact commanded
  · exact .refl

theorem askScan_lowers (r : LegRef) (s : State) : Lowers s (askScan r s) := by
  refine Lowers.onCtx fun c _ => Lowers.onLeg fun l _ => ?_
  split
  · exact requestScan_lowers ..
  · exact .refl

theorem enterVerify_lowers (r : LegRef) (s : State) : Lowers s (enterVerify r s) := (mapStep_lowers ..).trans (askScan_lowers ..)

theorem afterBaseline_lowers (r : LegRef) (k : StepKind) (s : State) : Lowers s (afterBaseline r k s) := by
  unfold afterBaseline
  split
  · exact enterVerify_lowers ..
  · exact actuate_lowers ..

theorem startDown_lowers (r : LegRef) (s : State) : Lowers s (startDown r s) :=
  Lowers.onLeg fun _ _ => (Lowers.legTo _ LegState.moving_rampingDown s).trans (actuate_lowers ..)

theorem beginUp_lowers (r : LegRef) (k : StepKind) (request : Int) (s : State) : Lowers s (beginUp r k request s) := by
  refine Lowers.onCtx fun c _ => Lowers.onLeg fun l _ => ?_
  dsimp only
  split
  · exact (Lowers.legTo _ LegState.moving_stepping s).trans (afterBaseline_lowers ..)
  · exact (Lowers.legTo _ LegState.moving_stepping s).trans (askScan_lowers ..)

theorem park_lowers (d : Degree) (e : UpEntry) (s : State) : Lowers s (park d e s) :=
  (modArb_lowers ..).trans (Lowers.legTo _ LegState.moving_headroomWait _)

theorem considerUp_lowers (d : Degree) (es : List UpEntry) (s : State) : Lowers s (considerUp d es s) := by
  induction es generalizing s with
  | nil => exact .refl
  | cons e es ih =>
    unfold considerUp
    split
    · exact ih s
    · split
      · dsimp only
        split
        · exact (modArb_lowers ..).trans ((modArb_lowers ..).trans (beginUp_lowers ..))
        · exact (modArb_lowers ..).trans ((park_lowers ..).trans (ih _))
      · exact ih s

theorem grantPass_lowers (d : Degree) (s : State) : Lowers s (grantPass d s) := by
  unfold grantPass
  dsimp only
  split
  · exact .refl
  · split
    · exact .refl
    · split
      · exact (modArb_lowers ..).trans (startDown_lowers ..)
      · split
        · exact .refl
        · exact considerUp_lowers ..

theorem grantAll_lowers (s : State) : Lowers s (grantAll s) :=
  (grantPass_lowers ..).trans ((grantPass_lowers ..).trans ((grantPass_lowers ..).trans (grantPass_lowers ..)))

theorem settleAct_lowers (s : State) : Lowers s (settleAct s) := (grantAll_lowers s).trans (issueNext_lowers _)

/-! ### Releasing and lowering are made of them -/

theorem withdrawn_quiet (c : Context) (s : State) : (withdraw ⟨c.id, .rev⟩ (withdraw ⟨c.id, .fwd⟩ s)).map = s.map
    ∧ (withdraw ⟨c.id, .rev⟩ (withdraw ⟨c.id, .fwd⟩ s)).jobs = s.jobs := ⟨rfl, rfl⟩

theorem freeContext_lowers {b : Context} (found : s.ctx? c.id = some b) (fails : b.phase = .failing) : Lowers s (freeContext c s) :=
  (Lowers.quiet (t := withdraw ⟨c.id, .rev⟩ (withdraw ⟨c.id, .fwd⟩ s))).trans (Lowers.one (.freed c.id _ found fails))

theorem releaseFailed_lowers (found : s.ctx? id = some c) (fails : c.phase = .failing) : Lowers s (releaseFailed c s) := by
  obtain rfl := ctx?_id found
  unfold releaseFailed
  split
  · next f _ =>
    have written : Lowers s (if c.reached then writeResult c (if f.cause = .aborted then .aborted else .failed) (some f) s else s) := by
      split
      · exact Lowers.quiet
      · exact .refl
    refine written.trans ((notifyOwner_lowers ..).trans (freeContext_lowers (b := c) ?_ fails))
    rw [ctx?_of_jobs (notifyOwner_jobs ..)]
    split <;> exact found
  · exact .refl

theorem releaseClosed_lowers (found : s.ctx? id = some c) (closing : c.phase = .teardown) : Lowers s (releaseClosed c s) := by
  obtain rfl := ctx?_id found
  unfold releaseClosed freeContext
  refine Lowers.one (.closed c.id found closing ?_ ?_)
  · simp only [withdrawn_quiet, sendOn_map]
    exact map_notifyOwner ..
  · simp only [withdrawn_quiet, sendOn_jobs, notifyOwner_jobs]
    rfl

theorem checkEnded_lowers (id : JobId) (s : State) : Lowers s (checkEnded id s) := by
  refine Lowers.onCtx fun c found => ?_
  split
  · split
    · next fails => exact releaseFailed_lowers found fails
    · split
      · next closing => exact releaseClosed_lowers found closing
      · exact .refl
  · exact .refl

theorem modLeg_ctx? (r : LegRef) (f : LineLeg → LineLeg) (found : s.ctx? id = some c) :
    ∃ b, (modLeg r f s).ctx? id = some b ∧ b.outer = c.outer := by
  refine ⟨_, by rw [modLeg, ctx?_modCtx (mapLine_id r.dir f), found]; rfl, ?_⟩
  dsimp only
  split
  · exact Context.mapLine_outer ..
  · rfl

/-- A step that frees no context keeps each in use, with its fields outside the legs. -/
theorem requeue_ctx? (d : Degree) (found : s.ctx? id = some c) : ∃ b, (requeue d s).ctx? id = some b ∧ b.outer = c.outer := by
  have each (l : List UpEntry) : ∃ b, (l.foldl (fun s e => modLeg e.leg LineLeg.requeued s) s).ctx? id = some b ∧ b.outer = c.outer := by
    induction l generalizing s c with
    | nil => exact ⟨c, found, rfl⟩
    | cons e l ih =>
      obtain ⟨b, found_b, outer_b⟩ := modLeg_ctx? e.leg LineLeg.requeued found
      obtain ⟨a, found_a, outer_a⟩ := ih found_b
      exact ⟨a, found_a, outer_a.trans outer_b⟩
  exact each _

/-- The leg out of the order of freezing. -/
def unordered (r : LegRef) (s : State) : State := { s with frozenOrder := s.frozenOrder.filter (· ≠ r) }

/-- The line leg `l` of the reference at leg state OFF, out of its arbiter, and the headroom-wait list re-queued (R47, R107). -/
def wentOff (r : LegRef) (l : LineLeg) (s : State) : State :=
  requeue l.egress (unordered r (modLeg r LineLeg.off (detach l.egress r (withdraw r s))))

theorem reachOff_eq {l : LineLeg} (found : s.ctx? r.job = some c) (leg : s.leg? r = some l) : reachOff r s = checkEnded r.job
    (if c.phase = .failing then changeFor c (Leg.line l).runs (SliceEntry.release c.id) (wentOff r l s) else wentOff r l s) := by
  rw [reachOff, onCtx_of_ctx found, onLeg_of_leg leg]
  rfl

theorem reachOff_of_none (missing : s.leg? r = none) : reachOff r s = s := by
  unfold reachOff Machine.onCtx
  split
  · exact onLeg_of_none missing
  · rfl

theorem unordered_lowers (r : LegRef) (s : State) : Lowers s (unordered r s) := Lowers.quiet

theorem wentOff_lowers (r : LegRef) (l : LineLeg) (s : State) : Lowers s (wentOff r l s) :=
  (withdraw_lowers r s).trans ((detach_lowers ..).trans ((Lowers.legTo LineLeg.off LegState.moving_off _).trans
    ((unordered_lowers ..).trans (requeue_lowers ..))))

theorem wentOff_ctx? (r : LegRef) (l : LineLeg) (found : s.ctx? id = some c) :
    ∃ b, (wentOff r l s).ctx? id = some b ∧ b.outer = c.outer := by
  obtain ⟨b, found_b, outer_b⟩ := modLeg_ctx? (s := detach l.egress r (withdraw r s)) r LineLeg.off found
  obtain ⟨a, found_a, outer_a⟩ := requeue_ctx? (s := unordered r (modLeg r LineLeg.off (detach l.egress r (withdraw r s)))) l.egress found_b
  exact ⟨a, found_a, outer_a.trans outer_b⟩

theorem reachOff_lowers (r : LegRef) (s : State) : Lowers s (reachOff r s) := by
  cases leg : s.leg? r with
  | none =>
    rw [reachOff_of_none leg]
  | some l =>
    obtain ⟨c, found, -⟩ := ctx?_of_leg? leg
    rw [reachOff_eq found leg]
    split
    · next fails =>
      obtain ⟨b, found_b, outer_b⟩ := wentOff_ctx? r l found
      have failing : b.phase = .failing := (show b.outer.phase = c.outer.phase from congrArg Context.phase outer_b).trans fails
      refine (wentOff_lowers r l s).trans ((Lowers.one (.release c.id _ _ _ _ ?_ failing)).trans (checkEnded_lowers ..))
      rw [ctx?_id found]
      exact found_b
    · exact (wentOff_lowers r l s).trans (checkEnded_lowers ..)

theorem abandonLeg_lowers (r : LegRef) (s : State) : Lowers s (abandonLeg r s) :=
  Lowers.onCtx fun c found => Lowers.onLeg fun _ _ =>
    (Lowers.one (Lower.abandon c.id _ _ _ s (by rw [ctx?_id found, found]; rfl))).trans (reachOff_lowers ..)

theorem turnDown_lowers (r : LegRef) (s : State) : Lowers s (turnDown r s) := by
  refine Lowers.onLeg fun l _ => ?_
  split
  · exact abandonLeg_lowers ..
  · split
    · exact reachOff_lowers ..
    · exact (modArb_lowers ..).trans (startDown_lowers ..)

theorem joinDown_lowers (r : LegRef) (s : State) : Lowers s (joinDown r s) := by
  refine Lowers.onLeg fun l _ => ?_
  split
  · exact abandonLeg_lowers ..
  · split
    · exact reachOff_lowers ..
    · exact (modArb_lowers ..).trans (Lowers.legTo _ LegState.moving_rampingDown _)

theorem handOver_lowers (r : LegRef) (s : State) : Lowers s (handOver r s) := by
  refine Lowers.onLeg fun l _ => ?_
  split
  · exact .refl
  · exact .refl
  · split
    · exact .refl
    · exact (withdraw_lowers ..).trans ((endStep_lowers ..).trans (turnDown_lowers ..))
  · exact (modArb_lowers ..).trans ((Lowers.leg LineLeg.stopWaiting _).trans ((unordered_lowers ..).trans (joinDown_lowers ..)))

theorem handAll_lowers (c : Context) (s : State) : Lowers s (handAll c s) := Lowers.foldl (fun s _ => handOver_lowers _ s) _ s

/-! ### What they can do to a leg and a context -/

theorem mapLine_fixed {dir : Dir} {f : LineLeg → LineLeg} (fixed : ∀ l, (f l).fixed = l.fixed) (c : Context) :
    (c.mapLine dir f).fixed = c.fixed := by
  cases dir with
  | fwd => simp [Context.mapLine, Context.fixed, Leg.mapLine_fixed f fixed]
  | rev => cases rev : c.rev <;> simp [Context.mapLine, Context.fixed, rev, Leg.mapLine_fixed f fixed]

theorem Lower.ctx (h : Lower s t) {b : Context} (found : t.ctx? id = some b) :
    ∃ a, s.ctx? id = some a ∧ a.outer = b.outer ∧ a.fixed = b.fixed := by
  have dropped (j : JobId) {u : State} (jobs : u.jobs = s.jobs) (found : (dropCtx j u).ctx? id = some b) : s.ctx? id = some b := by
    rw [ctx?_dropCtx] at found
    split at found
    · cases found
    · rwa [ctx?_of_jobs jobs] at found
  cases h with
  | quiet map jobs => exact ⟨b, (ctx?_of_jobs jobs id) ▸ found, rfl, rfl⟩
  | leg r f _ fixed moves =>
    rw [modLeg, ctx?_modCtx (mapLine_id r.dir f)] at found
    obtain ⟨a, found_a, rfl⟩ := Option.map_eq_some_iff.mp found
    refine ⟨a, found_a, ?_⟩
    split
    · exact ⟨(Context.mapLine_outer ..).symm, (mapLine_fixed fixed a).symm⟩
    · exact ⟨rfl, rfl⟩
  | light _ _ _ _ | abandon _ _ _ _ _ | release _ _ _ _ _ _ => exact ⟨b, found, rfl, rfl⟩
  | freed j _ _ _ => exact ⟨b, dropped j rfl found, rfl, rfl⟩
  | closed j _ _ _ jobs => exact ⟨b, dropped j jobs found, rfl, rfl⟩

theorem Lower.leg_of (h : Lower s t) {y : LineLeg} (found : t.leg? r = some y) :
    ∃ x, s.leg? r = some x ∧ (y.state = x.state ∨ y.state.Moving) := by
  have dropped (j : JobId) {u : State} (jobs : u.jobs = s.jobs) (found : (dropCtx j u).leg? r = some y) : s.leg? r = some y := by
    rw [leg?_dropCtx] at found
    split at found
    · cases found
    · rwa [leg?_of_jobs jobs] at found
  cases h with
  | quiet map jobs => exact ⟨y, (leg?_of_jobs jobs r) ▸ found, .inl rfl⟩
  | leg q f _ fixed moves =>
    rw [leg?_modLeg] at found
    split at found
    · obtain ⟨x, found_x, rfl⟩ := Option.map_eq_some_iff.mp found
      exact ⟨x, found_x, moves x⟩
    · exact ⟨y, found, .inl rfl⟩
  | light _ _ _ _ | abandon _ _ _ _ _ | release _ _ _ _ _ _ => exact ⟨y, found, .inl rfl⟩
  | freed j _ _ _ => exact ⟨y, dropped j rfl found, .inl rfl⟩
  | closed j _ _ _ jobs => exact ⟨y, dropped j jobs found, .inl rfl⟩

theorem Lowers.ctx (h : Lowers s t) {b : Context} (found : t.ctx? id = some b) :
    ∃ a, s.ctx? id = some a ∧ a.outer = b.outer ∧ a.fixed = b.fixed := by
  induction h generalizing b with
  | refl => exact ⟨b, found, rfl, rfl⟩
  | tail _ e ih =>
    obtain ⟨a, found_a, outer_a, fixed_a⟩ := e.ctx found
    obtain ⟨c, found_c, outer_c, fixed_c⟩ := ih found_a
    exact ⟨c, found_c, outer_c.trans outer_a, fixed_c.trans fixed_a⟩

theorem Lowers.leg_of (h : Lowers s t) {y : LineLeg} (found : t.leg? r = some y) :
    ∃ x, s.leg? r = some x ∧ (y.state = x.state ∨ y.state.Moving) := by
  induction h generalizing y with
  | refl => exact ⟨y, found, .inl rfl⟩
  | tail _ e ih =>
    obtain ⟨x, found_x, either⟩ := e.leg_of found
    obtain ⟨w, found_w, either_w⟩ := ih found_x
    refine ⟨w, found_w, ?_⟩
    rcases either with same | moving
    · exact same ▸ either_w
    · exact .inr moving

/-- The line leg of the reference, where it is in use, is in a state that lowering leads to. -/
def LegMoves (r : LegRef) (s : State) : Prop := ∀ y, s.leg? r = some y → y.state.Moving

theorem LegMoves.lowers (h : LegMoves r s) (e : Lowers s t) : LegMoves r t := by
  intro y found
  obtain ⟨x, found_x, same | moving⟩ := e.leg_of found
  · exact same ▸ h x found_x
  · exact moving

/-! ### Handing a leg over lowers it -/

theorem legMoves_of_none (missing : s.leg? r = none) : LegMoves r s := fun y found => by
  rw [missing] at found
  cases found

theorem LegMoves.onLeg {k : LineLeg → State → State} (acts : ∀ l, s.leg? r = some l → LegMoves r (k l s)) : LegMoves r (onLeg r k s) := by
  cases leg : s.leg? r with
  | none => exact (onLeg_of_none (k := k) leg).symm ▸ legMoves_of_none leg
  | some l => exact (onLeg_of_leg (k := k) leg).symm ▸ acts l leg

theorem LegMoves.onCtx {k : Context → State → State} (acts : ∀ c, s.ctx? r.job = some c → LegMoves r (k c s)) :
    LegMoves r (onCtx r.job k s) := by
  cases found : s.ctx? r.job with
  | none => exact (onCtx_of_none (k := k) found).symm ▸ legMoves_of_none (by rw [State.leg?, found]; rfl)
  | some c => exact (onCtx_of_ctx (k := k) found).symm ▸ acts c found

theorem legMoves_modLeg {f : LineLeg → LineLeg} {x : LegState} (moving : x.Moving) (s : State)
    (goes : ∀ l, (f l).state = x := by exact fun _ => rfl) : LegMoves r (modLeg r f s) := by
  intro y found
  rw [leg?_modLeg, if_pos rfl] at found
  obtain ⟨l, -, rfl⟩ := Option.map_eq_some_iff.mp found
  rw [goes]
  exact moving

theorem wentOff_legMoves (r : LegRef) (l : LineLeg) (s : State) : LegMoves r (wentOff r l s) :=
  (legMoves_modLeg (f := LineLeg.off) LegState.moving_off _).lowers ((unordered_lowers ..).trans (requeue_lowers ..))

theorem reachOff_legMoves (r : LegRef) (s : State) : LegMoves r (reachOff r s) := by
  cases leg : s.leg? r with
  | none =>
    rw [reachOff_of_none leg]
    exact legMoves_of_none leg
  | some l =>
    obtain ⟨c, found, -⟩ := ctx?_of_leg? leg
    rw [reachOff_eq found leg]
    refine LegMoves.lowers ?_ (checkEnded_lowers ..)
    split
    · exact wentOff_legMoves r l s
    · exact wentOff_legMoves r l s

theorem abandonLeg_legMoves (r : LegRef) (s : State) : LegMoves r (abandonLeg r s) :=
  LegMoves.onCtx fun _ _ => LegMoves.onLeg fun _ _ => reachOff_legMoves _ _

theorem startDown_legMoves (r : LegRef) (s : State) : LegMoves r (startDown r s) :=
  LegMoves.onLeg fun _ _ => (legMoves_modLeg LegState.moving_rampingDown s).lowers (actuate_lowers ..)

theorem turnDown_legMoves (r : LegRef) (s : State) : LegMoves r (turnDown r s) := by
  refine LegMoves.onLeg fun l _ => ?_
  split
  · exact abandonLeg_legMoves _ _
  · split
    · exact reachOff_legMoves _ _
    · exact startDown_legMoves _ _

theorem joinDown_legMoves (r : LegRef) (s : State) : LegMoves r (joinDown r s) := by
  refine LegMoves.onLeg fun l _ => ?_
  split
  · exact abandonLeg_legMoves _ _
  · split
    · exact reachOff_legMoves _ _
    · exact legMoves_modLeg LegState.moving_rampingDown _

/-- A line leg handed over is left in no state of rest (R89, R103). -/
theorem handOver_legMoves (r : LegRef) (s : State) : LegMoves r (handOver r s) := by
  refine LegMoves.onLeg fun l found => ?_
  have stays (moving : l.state.Moving) : LegMoves r s := fun y same => by
    rw [found] at same
    cases same
    exact moving
  split
  · next off => exact stays (off ▸ LegState.moving_off)
  · next down => exact stays (down ▸ LegState.moving_rampingDown)
  · next stepping =>
    split
    · exact stays (stepping ▸ LegState.moving_stepping)
    · exact turnDown_legMoves _ _
  · exact joinDown_legMoves _ _

theorem handAll_legMoves (c : Context) (s : State) {x : Dir × LineLeg} (mem : x ∈ c.lineLegs) : LegMoves ⟨c.id, x.1⟩ (handAll c s) := by
  unfold handAll
  generalize c.lineLegs = legs at mem
  induction legs generalizing s with
  | nil => cases mem
  | cons y ys ih =>
    rcases List.mem_cons.mp mem with rfl | later
    · exact (handOver_legMoves _ _).lowers (Lowers.foldl (fun s z => handOver_lowers ⟨c.id, z.1⟩ s) ys _)
    · exact ih _ later

/-- A change of one job's context leaves the others. -/
theorem modCtx_others {f : Context → Context} (keeps : ∀ c, (f c).id = c.id) (s : State) :
    (modCtx id f s).jobs.filter (fun c => c.id ≠ id) = s.jobs.filter (fun c => c.id ≠ id) := by
  simp only [modCtx]
  induction s.jobs with
  | nil => rfl
  | cons c cs ih =>
    by_cases named : c.id = id
    · simp_all
    · simp_all

/-! ### The failure of a job (R45, R87 to R89, R172) -/

/-- The runs of a context's drop legs (R89). -/
def dropRuns (c : Context) : List (Degree × MapDir) :=
  c.legs.flatMap (fun x => match x.2 with
    | .drop d => [(d, MapDir.incoming)]
    | .line _ => [])

theorem unwind_eq (c : Context) (s : State) :
    unwind c s = checkEnded c.id (handAll c { s with map := changedMap c (dropRuns c) (released c.id) s.map }) := by
  rw [← funext (SliceEntry.release_eq c.id)]
  rfl

theorem mem_dropRuns {x : Dir × Leg} {d : Degree} (mem : x ∈ c.legs) (drop : x.2 = .drop d) : (d, MapDir.incoming) ∈ dropRuns c :=
  List.mem_flatMap.mpr ⟨x, mem, by simp [drop]⟩

theorem mem_lineLegs {x : Dir × Leg} {l : LineLeg} (mem : x ∈ c.legs) (line : x.2 = .line l) : (x.1, l) ∈ c.lineLegs :=
  List.mem_filterMap.mpr ⟨x, mem, by simp [line, Leg.line?]⟩

theorem failJob_eq {f : Failure} {leg : Option Dir} {arrival : Option Degree} (found : s.ctx? id = some c) (able : c.phase.canFail = true) :
    failJob id f leg arrival s = unwind c (sendFail c f arrival (modCtx id (Context.failing f leg) s)) := by
  rw [failJob, onCtx_of_ctx found, if_pos able]

/-- An entry that is FREE stays so under the acts of jobs (R22). -/
theorem Edits.free_stays {g : Nat} (h : Edits g s t) {d : Degree} {dir : MapDir} {k : Nat} (free : s.entry d dir k = some .free) :
    t.entry d dir k = some .free := by
  obtain ⟨e, at_k, keeps⟩ := h.mapKeeps d dir k .free free
  rcases keeps with rfl | bad
  · exact at_k
  · cases bad

theorem sendFail_map (c : Context) (f : Failure) (arrival : Option Degree) (s : State) : (sendFail c f arrival s).map = s.map := by
  unfold sendFail
  dsimp only
  split <;> split <;> simp [sendOn_map]

theorem outer_eq_iff_fields {a b : Context} (same : a.outer = b.outer) : a.phase = b.phase ∧ a.failure = b.failure ∧ a.hold = b.hold
    ∧ a.path = b.path ∧ a.lock = b.lock ∧ a.teardown = b.teardown ∧ a.failLeg = b.failLeg ∧ a.failSteps = b.failSteps :=
  have field {α : Type} (g : Context → α) : g a.outer = g b.outer := congrArg g same
  ⟨field (·.phase), field (·.failure), field (·.hold), field (·.path), field (·.lock), field (·.teardown), field (·.failLeg), field (·.failSteps)⟩

/-- A job that can fail, failing in an act (R45, R87, R89, R172): with the records of the leg it arose in, of which it needs to be known
what each context of the job copies. -/
theorem failJob_jobFails_after {f : Failure} {arrival : Option Degree} (leg : Option (Dir × List StepRecord)) (found : s.ctx? id = some c)
    (able : c.phase.canFail = true)
    (copied : ∀ a, a ∈ s.jobs → a.id = id → a.copied (leg.map (·.1)) = match leg with
      | some x => newestFour x.2
      | none => [])
    (lowers : Lowers (failJob id f (leg.map (·.1)) arrival s) t)
    (quiet : Edits 0 (failJob id f (leg.map (·.1)) arrival s) t) :
    JobFails id f leg s t := by
  have acts : OneJob id (modCtx id (Context.failing f (leg.map (·.1))) s) t :=
    OneJob.trans (failJob_jobs (f := f) (leg := leg.map (·.1)) (arrival := arrival) found able) (OneJob.quiet quiet)
  obtain rfl := ctx?_id found
  refine ⟨fun b mem same => ?own, fun c' found' x mem => ?legs, acts.others.trans ?others, acts.params⟩
  case own =>
    obtain ⟨a, mem_a, outer⟩ := acts.own b mem same
    obtain ⟨a', mem_a', rfl⟩ := List.mem_map.mp mem_a
    have named : a'.id = c.id := by
      have := (Context.outer_id outer).trans same
      split at this
      · assumption
      · exact this
    rw [if_pos named] at outer
    obtain ⟨phase, failure, hold, path, lock, -, failLeg, failSteps⟩ := outer_eq_iff_fields outer
    exact ⟨phase.symm, failure.symm, hold.symm, path.symm, lock.symm, failLeg.symm, failSteps.symm.trans (copied a' mem_a' named)⟩
  case legs =>
    obtain rfl : c = c' := Option.some.inj (found.symm.trans found')
    rw [failJob_eq found able, unwind_eq] at lowers quiet
    generalize sent_eq : sendFail c f arrival (modCtx c.id (Context.failing f (leg.map (·.1))) s) = sent at lowers quiet
    have map_eq : sent.map = s.map := by
      rw [← sent_eq, sendFail_map]
      rfl
    refine ⟨fun d k e drop low high at_k named => ?_, fun l y line at_x => ?_⟩
    · have freed : ({ sent with map := changedMap c (dropRuns c) (released c.id) sent.map } : State).entry d .incoming k = some .free := by
        have changed := changedMap_runsChange (released_released c.id) c (dropRuns c) sent.map d .incoming k
        rw [if_pos ⟨mem_dropRuns mem drop, low, high⟩, map_eq, show (s.map.table d .incoming)[k]? = some e from at_k] at changed
        rw [map_eq]
        exact changed.trans (by simp [released, named])
      have ended : Edits 1 ({ sent with map := changedMap c (dropRuns c) (released c.id) sent.map } : State) (checkEnded c.id (handAll c { sent with map := changedMap c (dropRuns c) (released c.id) sent.map })) :=
        .checkEnded (.handAll .none)
      exact quiet.free_stays (ended.free_stays freed)
    · exact ((handAll_legMoves c _ (mem_lineLegs mem line)).lowers ((checkEnded_lowers ..).trans lowers)) y at_x
  case others =>
    rw [modCtx_others]
    exact fun _ => rfl

theorem failJob_jobFails {f : Failure} {arrival : Option Degree} (leg : Option (Dir × List StepRecord)) (found : s.ctx? id = some c)
    (able : c.phase.canFail = true)
    (copied : ∀ a, a ∈ s.jobs → a.id = id → a.copied (leg.map (·.1)) = match leg with
      | some x => newestFour x.2
      | none => []) :
    JobFails id f leg s (settleAct (failJob id f (leg.map (·.1)) arrival s)) :=
  failJob_jobFails_after leg found able copied (settleAct_lowers _) (.settleAct .none)

theorem failLocally_jobFails {cause : Cause} (found : s.ctx? id = some c) (able : c.phase.canFail = true) :
    JobFails id ⟨cause, 0#8, s.node.nodeId⟩ none s (settleAct (failLocally id cause s)) :=
  failJob_jobFails (f := localFailure cause .none s) (arrival := none) none found able fun _ _ _ => rfl

theorem sendOn_link_other {d : Option Degree} {e : Degree} (other : d ≠ some e) (m : Message) (s : State) :
    (sendOn d m s).link e = s.link e := by
  cases d with
  | none => rfl
  | some d =>
    refine PerDegree.get_set_ne _ _ ?_
    rintro rfl
    exact other rfl

/-- FAIL is placed on each of the job's degrees but the one it arrived on (R88). -/
theorem sendFail_queue (f : Failure) {arrival : Option Degree} {e : Degree} (uses : c.uses e = true) (other : some e ≠ arrival) (s : State) :
    ((send e (.fail c.id f.cause f.verdict f.origin) s).link e).queue <+: ((sendFail c f arrival s).link e).queue := by
  unfold sendFail
  dsimp only
  by_cases up : c.place.up? = some e
  · rw [up, if_neg other]
    split
    · exact List.prefix_rfl
    · exact ((OneJob.sendOn (id := c.id) ..).links e).2
  · have down : c.place.down? = some e := by
      simpa [Context.uses, up] using uses
    have before : (if c.place.up? = arrival then s else sendOn c.place.up? (.fail c.id f.cause f.verdict f.origin) s).link e = s.link e := by
      split
      · rfl
      · exact sendOn_link_other up _ _
    have params : (if c.place.up? = arrival then s else sendOn c.place.up? (.fail c.id f.cause f.verdict f.origin) s).degrees = s.degrees := by
      split
      · rfl
      · exact ((OneJob.sendOn (id := c.id) ..).params).2.1
    rw [down, if_neg other]
    generalize (if c.place.up? = arrival then s else sendOn c.place.up? (.fail c.id f.cause f.verdict f.origin) s) = t at before params
    simp only [sendOn, send, modLink, State.link, PerDegree.get_set, State.deg] at *
    rw [before, params]

/-- A failing job's act places FAIL on the degrees it does not come from (R88). -/
theorem failJob_queue {f : Failure} {leg : Option Dir} {arrival : Option Degree} (found : s.ctx? id = some c) (able : c.phase.canFail = true)
    {e : Degree} (uses : c.uses e = true) (other : some e ≠ arrival) :
    ((send e (.fail id f.cause f.verdict f.origin) s).link e).queue <+: ((settleAct (failJob id f leg arrival s)).link e).queue := by
  obtain rfl := ctx?_id found
  rw [failJob_eq found able]
  exact (sendFail_queue f uses other (modCtx c.id (Context.failing f leg) s)).trans
    (((OneJob.unwind c _).trans (.settleAct _)).links e).2

/-- It takes nothing from a transmit queue. -/
theorem failJob_tx {f : Failure} {leg : Option Dir} {arrival : Option Degree} (p : Port) (s : State) :
    (s.port p).tx <+: ((settleAct (failJob id f leg arrival s)).port p).tx :=
  ((Edits.none (g := 2)).failJob.settleAct).onlyAddsFrames.frames p

/-! ### The ramp-down of a job (R93 to R95) -/

theorem leg_runs_of_fixed {a b : Leg} (same : a.fixed = b.fixed) : a.runs = b.runs := by
  cases a <;> cases b <;> simp_all [Leg.fixed, LineLeg.fixed, Leg.runs]

theorem Context.fixed_fields {a b : Context} (same : a.fixed = b.fixed) : a.id = b.id ∧ a.place = b.place ∧ a.bidir = b.bidir
    ∧ a.first = b.first ∧ a.count = b.count ∧ a.fwd.fixed = b.fwd.fixed ∧ a.rev.map Leg.fixed = b.rev.map Leg.fixed :=
  have field {α : Type} (g : FixedFields → α) : g a.fixed = g b.fixed := congrArg g same
  ⟨field (·.id), field (·.place), field (·.bidir), field (·.first), field (·.count), field (·.fwd), field (·.rev)⟩

theorem Context.entrySet_of_fixed {a b : Context} (same : a.fixed = b.fixed) : a.entrySet = b.entrySet := by
  obtain ⟨-, -, -, -, -, fwd, rev⟩ := Context.fixed_fields same
  simp only [Context.entrySet, Context.legs, List.flatMap_cons, leg_runs_of_fixed fwd]
  cases rev_a : a.rev <;> cases rev_b : b.rev <;> simp_all
  exact leg_runs_of_fixed rev

theorem leg_line?_of_fixed {a b : Leg} (same : a.fixed = b.fixed) : a.line?.isSome = b.line?.isSome := by
  cases a <;> cases b <;> simp_all [Leg.fixed, Leg.line?]

theorem Context.line?_of_fixed {a b : Context} (same : a.fixed = b.fixed) (dir : Dir) : (a.line? dir).isSome = (b.line? dir).isSome := by
  obtain ⟨-, -, -, -, -, fwd, rev⟩ := Context.fixed_fields same
  cases dir with
  | fwd => exact leg_line?_of_fixed fwd
  | rev =>
    cases rev_a : a.rev <;> cases rev_b : b.rev <;> simp_all [Context.line?, Context.leg?]
    exact leg_line?_of_fixed rev

theorem mem_lineLegs_iff {dir : Dir} {l : LineLeg} : (dir, l) ∈ c.lineLegs ↔ c.line? dir = some l := by
  cases dir <;> cases rev : c.rev <;> simp [Context.lineLegs, Context.legs, Context.line?, Context.leg?, rev]

/-- An entry that a change leaves as it is. -/
theorem changeRuns_fixes {f : SliceEntry → SliceEntry} {e : SliceEntry} (fixes : f e = e) (first count : Nat) (runs : List (Degree × MapDir))
    {d : Degree} {dir : MapDir} {k : Nat} (at_k : s.entry d dir k = some e) :
    (modMap (SpectrumMap.changeRuns f first count runs) s).entry d dir k = some e := by
  obtain ⟨e', at_k', same⟩ := SpectrumMap.changeRuns_follows (R := fun a b => f a = a → b = a) (fun _ _ => rfl)
    (fun {a b c} ab bc fixed => (bc (by rw [ab fixed, fixed])).trans (ab fixed)) (fun _ fixed => fixed) first count runs s.map d dir k e at_k
  rw [← same fixes]
  exact at_k'

theorem SliceEntry.abandon_abandon (id : JobId) (e : SliceEntry) : (e.abandon id).abandon id = e.abandon id := by
  cases e with
  | lit j | live j => by_cases same : j = id <;> simp [SliceEntry.abandon, same]
  | _ => rfl

/-- A job in TEARDOWN, and an entry of its entry set that was LIVE: it is LIVE, FREE once the job is freed, or abandoned. -/
def Ramping (c : Context) (d : Degree) (dir : MapDir) (k : Nat) (s : State) : Prop :=
  (∀ a, s.ctx? c.id = some a → a.phase = .teardown ∧ a.fixed = c.fixed)
    ∧ (s.entry d dir k = some (.blocked .abandoned) ∨ s.entry d dir k = some (if s.ctx? c.id = none then .free else .live c.id))

theorem Ramping.lower {d : Degree} {dir : MapDir} {k : Nat} (mem : (d, dir) ∈ c.entrySet) (low : c.first ≤ k) (high : k < c.first + c.count)
    (h : Ramping c d dir k s) (e : Lower s t) : Ramping c d dir k t := by
  obtain ⟨job, entry⟩ := h
  refine ⟨fun b found => ?_, ?_⟩
  · obtain ⟨a, found_a, outer, fixed⟩ := e.ctx found
    obtain ⟨phase, same⟩ := job a found_a
    exact ⟨(outer_eq_iff_fields outer).1.symm.trans phase, fixed.symm.trans same⟩
  cases e with
  | quiet map jobs =>
    rw [ctx?_of_jobs jobs, State.entry, map]
    exact entry
  | leg r f _ fixed moves =>
    have used : (modLeg r f s).ctx? c.id = none ↔ s.ctx? c.id = none := by
      rw [modLeg, ctx?_modCtx (mapLine_id r.dir f), Option.map_eq_none_iff]
    simp only [used]
    exact entry
  | light id first count runs =>
    refine entry.imp (fun at_k => changeRuns_fixes rfl _ _ _ at_k) (fun at_k => changeRuns_fixes ?_ _ _ _ at_k)
    split <;> rfl
  | abandon id first count runs _ used =>
    by_cases same : id = c.id
    · subst same
      have in_use : s.ctx? c.id ≠ none := Option.isSome_iff_ne_none.mp used
      rcases entry with blocked | live
      · exact .inl (changeRuns_fixes rfl _ _ _ blocked)
      · rw [if_neg in_use] at live
        have changed := SpectrumMap.changeRuns_runsChange (SliceEntry.abandon_abandon c.id) first count runs s.map d dir k
        split at changed
        · exact .inl (changed.trans (by rw [show (s.map.table d dir)[k]? = _ from live]; simp [SliceEntry.abandon]))
        · refine .inr (changed.trans ?_)
          rw [if_neg (show (modMap _ s).ctx? c.id ≠ none from in_use)]
          exact live
    · refine entry.imp (fun at_k => changeRuns_fixes rfl _ _ _ at_k) (fun at_k => changeRuns_fixes ?_ _ _ _ at_k)
      split
      · rfl
      · simp [SliceEntry.abandon, Ne.symm same]
  | @release b id first count runs _ found fails =>
    have other : c.id ≠ id := by
      rintro rfl
      rw [(job b found).1] at fails
      cases fails
    refine entry.imp (fun at_k => changeRuns_fixes rfl _ _ _ at_k) (fun at_k => changeRuns_fixes ?_ _ _ _ at_k)
    split
    · rfl
    · simp [SliceEntry.release, other]
  | @freed b id _ found fails =>
    have other : c.id ≠ id := by
      rintro rfl
      rw [(job b found).1] at fails
      cases fails
    rw [ctx?_dropCtx, if_neg other]
    exact entry
  | @closed b _ u id found closing map jobs =>
    have changed := changedMap_runsChange (released_released id) b b.entrySet s.map d dir k
    rw [← funext (SliceEntry.release_eq id), ← map] at changed
    rw [ctx?_dropCtx, ctx?_of_jobs jobs]
    by_cases same : c.id = id
    · subst same
      obtain ⟨-, fixed⟩ := job b found
      obtain ⟨-, -, -, first, count, -, -⟩ := Context.fixed_fields fixed
      rw [Context.entrySet_of_fixed fixed, first, count, if_pos ⟨mem, low, high⟩] at changed
      rw [found, if_neg (by simp)] at entry
      rw [if_pos rfl, if_pos rfl]
      refine entry.imp (fun blocked => changed.trans ?_) (fun live => changed.trans ?_)
      · rw [show (s.map.table d dir)[k]? = _ from blocked]
        rfl
      · rw [show (s.map.table d dir)[k]? = _ from live]
        simp [SliceEntry.release]
    · rw [if_neg same]
      have stays {e : SliceEntry} (fixes : e.release id = e) (at_k : s.entry d dir k = some e) : (dropCtx id u).entry d dir k = some e := by
        refine changed.trans ?_
        rw [show (s.map.table d dir)[k]? = some e from at_k]
        split <;> simp [fixes]
      refine entry.imp (stays rfl) (stays ?_)
      split
      · rfl
      · simp [SliceEntry.release, same]

theorem Ramping.lowers {d : Degree} {dir : MapDir} {k : Nat} (mem : (d, dir) ∈ c.entrySet) (low : c.first ≤ k) (high : k < c.first + c.count)
    (h : Ramping c d dir k s) (e : Lowers s t) : Ramping c d dir k t := by
  induction e with
  | refl => exact h
  | tail _ step ih => exact ih.lower mem low high step

/-- A job in TEARDOWN with no teardown timer whose line legs are handed over ramps down in the act (R94, R95). Of the state `s1` it is
handed over in, the jobs and the map stand to `s` as the job's own fields outside its legs allow. -/
theorem handAll_rampsDown_after {s1 : State} {a : Context} (after : Lowers (checkEnded id (handAll c s1)) t)
    (quiet : Edits 0 (checkEnded id (handAll c s1)) t) (inv : JobInv s1) (found : s.ctx? id = some c) (map : s1.map = s.map)
    (others : OthersKept id s s1) (params : SameParams s s1) (found1 : s1.ctx? id = some a) (phase : a.phase = .teardown)
    (stopped : a.teardown = none) (fixed : a.fixed = c.fixed) : RampsDown id s t := by
  obtain rfl := ctx?_id found
  have acts : OneJob c.id s1 t := ((OneJob.handAll c s1).trans (.checkEnded ..)).trans (.quiet quiet)
  have lowers : Lowers (handAll c s1) t := (checkEnded_lowers ..).trans after
  have inv_t : JobInv t := quiet.jobInv ((Edits.checkEnded (g := 0) (.handAll .none)).jobInv inv)
  refine ⟨fun b mem same => ?own, fun c' found' x mem k low high live => ?entries, acts.others.trans others, params.trans acts.params⟩
  case own =>
    have found_b : t.ctx? c.id = some b := same ▸ ctx?_of_mem inv_t mem
    obtain ⟨a', found_a', outer, fixed_b⟩ := Lowers.ctx ((handAll_lowers c s1).trans lowers) found_b
    obtain rfl : a' = a := Option.some.inj (found_a'.symm.trans found1)
    have fields := outer_eq_iff_fields outer
    refine ⟨fields.1.symm.trans phase, fields.2.2.2.2.2.1.symm.trans stopped, fun x line => ?_⟩
    have has : (c.line? x.1).isSome = true := by
      rw [← Context.line?_of_fixed (fixed_b.symm.trans fixed), mem_lineLegs_iff.mp line]
      rfl
    obtain ⟨l, at_c⟩ := Option.isSome_iff_exists.mp has
    have moves := (handAll_legMoves c s1 (mem_lineLegs_iff.mpr at_c)).lowers lowers x.2
      (by rw [State.leg?, found_b]; exact mem_lineLegs_iff.mp line)
    intro rest
    exact moves (by simp [rest])
  case entries =>
    obtain rfl : c' = c := Option.some.inj (found'.symm.trans found)
    have before : Ramping c' x.1 x.2 k s1 := by
      refine ⟨fun b found_b => ?_, .inr ?_⟩
      · obtain rfl : a = b := Option.some.inj (found1.symm.trans found_b)
        exact ⟨phase, fixed⟩
      · rw [found1, if_neg (by simp), State.entry, map]
        exact live
    exact (before.lowers mem low high ((handAll_lowers c' s1).trans lowers)).2

theorem handAll_rampsDown {s1 : State} {a : Context} (inv : JobInv s1) (found : s.ctx? id = some c) (map : s1.map = s.map)
    (others : OthersKept id s s1) (params : SameParams s s1) (found1 : s1.ctx? id = some a) (phase : a.phase = .teardown)
    (stopped : a.teardown = none) (fixed : a.fixed = c.fixed) : RampsDown id s (settleAct (checkEnded id (handAll c s1))) :=
  handAll_rampsDown_after (settleAct_lowers _) (.settleAct .none) inv found map others params found1 phase stopped fixed

end Sys2Proof.Machine
end

section
/-! PROOFS. Failure, teardown and link loss of a job (chapter 5): ABORT, LOCK_REPORT, FAIL, the timers that fail a job, CLOSE, DROP,
DOWN_TURN and the teardown timer, a HELLO from another node and the link timeout. -/

namespace Sys2Proof.Machine

variable {s t : State} {p : Port} {d : Degree} {id : JobId} {c : Context}

/-! ### ABORT (R54, R92) -/

theorem doAbort_of_not_found (tag : Byte) (missing : s.ctx? id = none) : doAbort p tag id s = replyRefused p tag .notFound s := by
  simp only [doAbort, missing]

theorem doAbort_of_found (tag : Byte) (found : s.ctx? id = some c) :
    doAbort p tag id s = if ownedBy c p ∧ c.place.role = 0 then abortOwned p tag c s else replyRefused p tag .notOwner s := by
  simp only [doAbort, found]

theorem role_eq_zero_iff (place : Place) : place.role = 0 ↔ ∃ d, place = .head d := by cases place <;> simp [Place.role]

theorem ownedBy_iff (c : Context) (p : Port) : ownedBy c p = true ↔ c.owner = some p := by simp [ownedBy]

/-- Settles O21. -/
theorem abortFailsTheJob : Obligations.AbortFailsTheJob := by
  unfold Obligations.AbortFailsTheJob
  intro p tag id s room
  have run : exec (.abortJob p tag id) s = .next (doAbort p tag id (raisePort p s)) := exec_command_of_hasRoom tag room (.abortJob id)
  refine ⟨fun missing => ?_, fun c found => ⟨fun stranger => ?_, fun d own head => ⟨fun failing => ?_, fun late => ?_, fun early => ?_⟩⟩⟩
  · rw [run, doAbort_of_not_found tag (by exact missing), replyRefused_raisePort]
  · rw [run, doAbort_of_found tag (by exact found), if_neg, replyRefused_raisePort]
    rw [ownedBy_iff, role_eq_zero_iff]
    rintro ⟨own, d, head⟩
    exact stranger.elim (absurd own) (fun none => none d head)
  all_goals
    have taken : doAbort p tag id (raisePort p s) = abortOwned p tag c (raisePort p s) := by
      rw [doAbort_of_found tag (by exact found), if_pos ⟨(ownedBy_iff c p).mpr own, (role_eq_zero_iff _).mpr ⟨d, head⟩⟩]
    rw [run, taken, abortOwned]
  · rw [if_pos failing, replyDone_raisePort]
  · rw [if_neg (by rcases late with h | h <;> simp [h]), if_neg (by rcases late with h | h <;> simp [h, Phase.canFail]), replyRefused_raisePort]
  · have able := (canFail_iff c).mpr early
    obtain rfl := ctx?_id found
    rw [if_neg early.2.2, if_pos able, replyDone_raisePort]
    refine ⟨_, rfl, failLocally_jobFails (s := Answered p tag (.done []) s) found able, ?_, ?_⟩
    · rw [← answered_tx]
      exact failJob_tx ..
    · exact failJob_queue (s := Answered p tag (.done []) s) (f := localFailure .aborted .none s) found able
        (by simp [Context.uses, head, Place.down?]) nofun

/-! ### LOCK_REPORT (R54, R80, R81, R83, R85) -/

theorem awaitsLock_iff (phase : Phase) : phase.awaitsLock = true ↔ phase = .awaitLockFwd ∨ phase = .awaitLockRev := by
  cases phase <;> simp [Phase.awaitsLock]

theorem canFail_of_awaitsLock (awaits : c.phase = .awaitLockFwd ∨ c.phase = .awaitLockRev) : c.phase.canFail = true := by
  rcases awaits with h | h <;> rw [h] <;> rfl

theorem doLockReport_of_found {report : Int} (tag : Byte) (coded : report = 0 ∨ report = 1) (found : s.ctx? id = some c) :
    doLockReport p tag id report s = if ownedBy c p = true then
      (if c.phase.awaitsLock = true then takeLockReport (report == 1) c (replyDone p tag [] s) else replyRefused p tag .wrongPhase s)
      else replyRefused p tag .notOwner s := by
  simp only [doLockReport, (bitOk_iff report).mpr coded, if_true, found]

/-- Settles O25. -/
theorem lockReportDecidesTheJob : Obligations.LockReportDecidesTheJob := by
  unfold Obligations.LockReportDecidesTheJob
  intro p tag id report s room refused
  have run : exec (.lockReport p tag id report) s = .next (doLockReport p tag id report (raisePort p s)) :=
    exec_command_of_hasRoom tag room (.lockReport id report)
  refine ⟨fun not_failed not_locked => ?_, fun coded missing => ?_, fun coded c found => ⟨fun stranger => ?_, fun own not_fwd not_rev => ?_,
    fun own awaits => ?_⟩⟩
  · have uncoded : ¬ bitOk report = true := by simp [bitOk_iff, not_failed, not_locked]
    simp only [refused, run, doLockReport, uncoded]
    rw [if_neg (by simp), replyRefused_raisePort]
  · have raised : (raisePort p s).ctx? id = none := missing
    simp only [refused, run, doLockReport, (bitOk_iff report).mpr coded, if_true, raised, replyRefused_raisePort]
  all_goals have taken := doLockReport_of_found (p := p) (s := raisePort p s) tag coded (by exact found)
  · rw [if_neg (by rwa [ownedBy_iff]), replyRefused_raisePort] at taken
    exact run.trans (congrArg _ taken)
  · rw [if_pos ((ownedBy_iff c p).mpr own), if_neg (by simp [awaitsLock_iff, not_fwd, not_rev]), replyRefused_raisePort] at taken
    exact run.trans (congrArg _ taken)
  · rw [if_pos ((ownedBy_iff c p).mpr own), if_pos ((awaitsLock_iff _).mpr awaits), replyDone_raisePort] at taken
    obtain rfl := ctx?_id found
    rw [run, taken]
    refine ⟨?failed, ?accepted, ?turned⟩
    case failed =>
      rintro rfl
      have able := canFail_of_awaitsLock awaits
      refine ⟨_, rfl, failLocally_jobFails (s := Answered p tag (.done []) s) found able, ?_⟩
      rw [← answered_tx]
      exact failJob_tx ..
    case accepted =>
      rintro rfl d ends
      refine ⟨_, changedMap_runsChange (accepted_accepted c.id) c c.entrySet s.map, ?_⟩
      have accepts : lockReported c (Answered p tag (.done []) s) =
          send d (.pathUp c.id) (notifyOwner c.owner (.commissioned c.id) (acceptJob c (Answered p tag (.done []) s))) := by
        rcases ends with head | ⟨tail, one⟩
        · simp only [lockReported, head]
        · simp [lockReported, tail, one]
      rw [takeLockReport, if_pos (show ((1 : Int) == 1) = true from rfl), accepts, acceptJob_eq, own]
      rfl
    case turned =>
      rintro rfl d tail both
      rw [takeLockReport, if_pos (show ((1 : Int) == 1) = true from rfl)]
      simp only [lockReported, tail, both, if_true, turnRound]
      rfl

/-! ### FAIL and the timers that fail a job (R80, R86 to R88, R90, R106, R133) -/

/-- Settles O40. -/
theorem failIsTakenAndPassedOn : Obligations.FailIsTakenAndPassedOn := by
  unfold Obligations.FailIsTakenAndPassedOn
  intro d h id cause verdict origin c s hears found uses early
  have able := (canFail_iff c).mpr early
  have taken : takeFail d id ⟨cause, verdict, origin⟩ (Heard d h s) = settleAct (failJob id ⟨cause, verdict, origin⟩ none (some d) (Heard d h s)) := by
    rw [takeFail, onCtx_of_ctx (heard_ctx_eq found), if_pos ⟨uses, able⟩]
  refine ⟨_, (exec_fail hears cause verdict origin).trans (congrArg _ taken),
    failJob_jobFails (s := Heard d h s) none found able (fun _ _ _ => rfl), fun e other uses_e => ?_⟩
  have queue := failJob_queue (s := Heard d h s) (f := ⟨cause, verdict, origin⟩) (leg := none) (arrival := some d) found able uses_e
    (by simpa using other)
  have same : ((send e (.fail id cause verdict origin) s).link e).queue = ((send e (.fail id cause verdict origin) (Heard d h s)).link e).queue := by
    have at_e : (Heard d h s).link e = s.link e := heard_link_ne other h s
    simp only [send, modLink, State.link, PerDegree.get_set] at at_e ⊢
    rw [at_e]
    rfl
  rw [same]
  exact queue

/-- Settles O42. -/
theorem failingTimersFailTheJob : Obligations.FailingTimersFailTheJob := by
  unfold Obligations.FailingTimersFailTheJob
  intro id c s inv found early fails
  have able := (canFail_iff c).mpr early
  have locally {i : Instr} {cause : Cause} (run : exec i s = .next (settleAct (failLocally id cause s))) : fails i cause none :=
    ⟨_, run, failLocally_jobFails found able, fun e uses => failJob_queue (f := localFailure cause .none s) found able uses nofun⟩
  have byLeg {i : Instr} {cause : Cause} {dir : Dir} {l : LineLeg} (at_dir : c.leg? dir = some (.line l))
      (run : exec i s = .next (settleAct (failByLeg ⟨id, dir⟩ cause .none s))) : fails i cause (some (dir, l.history)) := by
    refine ⟨_, run, failJob_jobFails (f := localFailure cause .none s) (some (dir, l.history)) found able (fun a mem same => ?_),
      fun e uses => failJob_queue (f := localFailure cause .none s) found able uses nofun⟩
    obtain rfl : a = c := Option.some.inj ((same ▸ ctx?_of_mem inv mem).symm.trans found)
    have line : a.line? dir = some l := by rw [Context.line?, at_dir]; rfl
    simp [Context.copied, line, newestFour, Config.maxPreceding]
  have leg_of {dir : Dir} {l : LineLeg} (at_dir : c.leg? dir = some (.line l)) : s.leg? ⟨id, dir⟩ = some l := by
    rw [State.leg?, found]
    show (c.leg? dir).bind Leg.line? = some l
    rw [at_dir]
    rfl
  obtain rfl := ctx?_id found
  refine ⟨fun out => locally (congrArg Host.Outcome.next ?_), fun awaits out => locally (congrArg Host.Outcome.next ?_), fun dir l at_dir frozen out => byLeg at_dir (congrArg Host.Outcome.next ?_),
    fun dir l at_dir waits out => byLeg at_dir (congrArg Host.Outcome.next ?_)⟩
  · rw [onCtx_of_ctx found, pathExpiry, if_pos ⟨able, (ranOut_iff _).mpr out⟩]
  · rw [onCtx_of_ctx found, lockExpiry, if_pos ⟨awaits, (ranOut_iff _).mpr out⟩]
  · rw [onLeg_of_leg (leg_of at_dir), darkExpiry, if_pos ⟨frozen, (ranOut_iff _).mpr out⟩]
  · rw [onLeg_of_leg (leg_of at_dir), headroomExpiry, if_pos ⟨waits, (ranOut_iff _).mpr out⟩]

/-! ### Teardown (R93 to R95) -/

/-- A job's context in TEARDOWN (R93, R94). -/
def Context.closing (c : Context) : Context := { c with phase := .teardown }

theorem modCtx_othersKept (id : JobId) (f : Context → Context) (s : State) (keeps : ∀ c, (f c).id = c.id := by exact fun _ => rfl) : OthersKept id s (modCtx id f s) := by
  rw [OthersKept, modCtx_others keeps]

theorem beginRampDown_rampsDown (inv : JobInv s) (found : s.ctx? id = some c) (phase : c.phase = .teardown) (at_target : c.allAtTarget = true) :
    RampsDown id s (settleAct (beginRampDown id s)) := by
  rw [beginRampDown, onCtx_of_ctx found, if_pos at_target]
  exact handAll_rampsDown (s1 := modCtx id (fun c => { c with teardown := none }) s) (modCtx_jobInv (fun _ => rfl) inv) found rfl
    (modCtx_othersKept id _ s) (SameParams.refl s) (ctx?_modCtx_same (fun _ => rfl) found) phase rfl rfl

/-- A LIVE job whose downstream link is UP enters TEARDOWN (R93). -/
theorem closeLive_of_up {e : Degree} (found : s.ctx? id = some c) (down : c.place.down? = some e) (up : (s.link e).up = true) :
    closeLive c s = Dropping id e s := by
  obtain rfl := ctx?_id found
  have teardown : startTeardown c e s = Dropping c.id e s := by
    have linked : ((modCtx c.id (fun c => { c with phase := .teardown }) s).link e).up = true := up
    rw [startTeardown]
    rw [if_pos up]
    show send e (.drop c.id) { s with jobs := setJob c.id _ (setJob c.id _ s.jobs) } = _
    rw [setJob_setJob]
    · rfl
    · exact fun _ => rfl
  cases place : c.place with
  | head d | transit u d =>
    obtain rfl : d = e := by simpa [place, Place.down?] using down
    rw [closeLive]
    simp only [place]
    exact teardown
  | tail u => simp [place, Place.down?] at down

/-- A LIVE job with no downstream link UP ramps down at once (R93, R94). -/
theorem closeLive_rampsDown (inv : JobInv s) (found : s.ctx? id = some c) (stopped : c.teardown = none) (at_target : c.allAtTarget = true)
    (cut : ∀ e, c.place.down? = some e → (s.link e).up = false) : RampsDown id s (settleAct (closeLive c s)) := by
  have closing : (modCtx id Context.closing s).ctx? id = some c.closing := ctx?_modCtx_same (fun _ => rfl) found
  have inv1 : JobInv (modCtx id Context.closing s) := modCtx_jobInv (fun _ => rfl) inv
  have others : OthersKept id s (modCtx id Context.closing s) := modCtx_othersKept id _ s
  obtain rfl := ctx?_id found
  have started {e : Degree} (down : c.place.down? = some e) : RampsDown c.id s (settleAct (startTeardown c e s)) := by
    have taken : startTeardown c e s = beginRampDown c.id (modCtx c.id Context.closing s) := by
      rw [startTeardown]
      rw [if_neg (by rw [cut e down]; simp)]
      rfl
    rw [taken, beginRampDown, onCtx_of_ctx closing, if_pos (by exact at_target)]
    show RampsDown c.id s (settleAct (checkEnded c.id (handAll c _)))
    exact handAll_rampsDown (s1 := modCtx c.id (fun c => { c with teardown := none }) (modCtx c.id Context.closing s))
      (modCtx_jobInv (fun _ => rfl) inv1) found rfl ((modCtx_othersKept c.id _ _).trans others) (SameParams.refl s)
      (ctx?_modCtx_same (fun _ => rfl) closing) rfl rfl rfl
  cases place : c.place with
  | head d | transit u d =>
    simp only [closeLive, place]
    exact started (by simp [place, Place.down?])
  | tail u =>
    have params : SameParams s (notifyOwner c.owner (.closing c.id) (modCtx c.id Context.closing s)) := (OneJob.notifyOwner (id := c.id) ..).params
    have jobs := notifyOwner_jobs c.owner (.closing c.id) (modCtx c.id Context.closing s)
    simp only [closeLive, place]
    refine handAll_rampsDown (s1 := notifyOwner c.owner (.closing c.id) (modCtx c.id Context.closing s)) (a := c.closing) ?_ found
      (map_notifyOwner ..) ?_ params ?_ rfl stopped rfl
    · rwa [JobInv, jobs]
    · rwa [OthersKept, jobs]
    · rwa [ctx?_of_jobs jobs]

/-- A TAIL notifies CLOSING before anything else of its teardown (R94). -/
theorem closeLive_closing_tx {u : Degree} {q : Port} (place : c.place = .tail u) (own : c.owner = some q) (s : State) :
    ((notify q (.closing c.id) s).port q).tx <+: ((settleAct (closeLive c s)).port q).tx := by
  have lowers := (((OneJob.handAll c (notifyOwner c.owner (.closing c.id) (modCtx c.id Context.closing s))).trans (.checkEnded ..)).trans
    (.settleAct _)).ports q
  simp only [closeLive, place]
  rw [own] at lowers
  refine lowers.2.trans ?_
  rw [tailTeardown, own]
  exact List.prefix_rfl

theorem freed_modCtx {f : Context → Context} (keeps : ∀ c, (f c).id = c.id) (s : State) : Freed id (modCtx id f s) = Freed id s := by
  rw [Freed, modCtx_others keeps]
  rfl

/-- A LIVE TAIL with no line leg ends in the act (R94). -/
theorem closeLive_of_no_leg {u : Degree} (found : s.ctx? id = some c) (place : c.place = .tail u) (none : c.lineLegs = []) :
    closeLive c s = Freed id (send u (.downTurn id) (notifyOwner c.owner (.closed id) (Recorded (plainRecord c .closed s.time)
      (notifyOwner c.owner (.closing id) { s with map := changedMap c c.entrySet (released id) s.map })))) := by
  have closing : (modCtx id Context.closing s).ctx? id = some c.closing := ctx?_modCtx_same (fun _ => rfl) found
  obtain rfl := ctx?_id found
  have handed : handAll c (notifyOwner c.owner (.closing c.id) (modCtx c.id Context.closing s)) =
      notifyOwner c.owner (.closing c.id) (modCtx c.id Context.closing s) := by
    rw [handAll, none]
    rfl
  have closing' : (notifyOwner c.owner (.closing c.id) (modCtx c.id Context.closing s)).ctx? c.id = some c.closing := by
    rwa [ctx?_of_jobs (notifyOwner_jobs ..)]
  have all_off : c.closing.allOff = true := by
    rw [Context.allOff, show c.closing.lineLegs = [] from none]
    rfl
  simp only [closeLive, place]
  rw [tailTeardown]
  show checkEnded c.id (handAll c (notifyOwner c.owner (.closing c.id) (modCtx c.id Context.closing s))) = _
  rw [handed, checkEnded, onCtx_of_ctx closing', if_pos all_off, if_neg (by simp [Context.closing]), if_pos (show c.closing.phase = .teardown from rfl),
    releaseClosed, freeContext_eq, writeResult_plain c.closing (o := .closed) nofun nofun, releaseSet_eq]
  refine Eq.trans (b := Freed c.id (modCtx c.id Context.closing _)) (congrArg (Freed c.id) ?_) (freed_modCtx (f := Context.closing) (fun _ => rfl) _)
  rw [show c.closing.place.up? = some u from congrArg Place.up? place]
  show sendOn (some u) (.downTurn c.id) (notifyOwner c.owner (.closed c.id) (Recorded (plainRecord c .closed
    (notifyOwner c.owner (.closing c.id) (modCtx c.id Context.closing s)).time)
    { notifyOwner c.owner (.closing c.id) (modCtx c.id Context.closing s) with
      map := changedMap c c.entrySet (released c.id) (notifyOwner c.owner (.closing c.id) (modCtx c.id Context.closing s)).map })) = _
  generalize c.owner = owner
  cases owner <;> rfl

/-! ### CLOSE, DROP, DOWN_TURN and the teardown timer (R54, R93 to R95) -/

theorem doClose_of_found (tag : Byte) (found : s.ctx? id = some c) : doClose p tag id s =
    if ownedBy c p ∨ c.place.role = 1 then
      (if c.phase = .live then settleAct (closeLive c (replyDone p tag [] s)) else replyRefused p tag .wrongPhase s)
    else replyRefused p tag .notOwner s := by
  simp only [doClose, found]

theorem role_eq_one_iff (place : Place) : place.role = 1 ↔ ∃ u e, place = .transit u e := by cases place <;> simp [Place.role]

/-- Settles O22. -/
theorem closeTearsDownALiveJob : Obligations.CloseTearsDownALiveJob := by
  unfold Obligations.CloseTearsDownALiveJob
  intro p tag id s room refused
  have run : exec (.closeJob p tag id) s = .next (doClose p tag id (raisePort p s)) := exec_command_of_hasRoom tag room (.closeJob id)
  refine ⟨fun missing => ?_, fun c found => ?_⟩
  · have raised : (raisePort p s).ctx? id = none := missing
    simp only [refused, run, doClose, raised, replyRefused_raisePort]
  have taken := doClose_of_found (p := p) (s := raisePort p s) tag (by exact found)
  refine ⟨fun ⟨stranger, local_end⟩ => ?_, fun entitled => ?_⟩
  · rw [if_neg, replyRefused_raisePort] at taken
    · exact run.trans (congrArg _ taken)
    · rw [ownedBy_iff, role_eq_one_iff]
      rintro (own | ⟨u, e, transit⟩)
      exacts [stranger own, local_end u e transit]
  rw [if_pos (by rw [ownedBy_iff, role_eq_one_iff]; exact entitled)] at taken
  refine ⟨fun other => ?_, fun live => ?_⟩
  · rw [if_neg other, replyRefused_raisePort] at taken
    exact run.trans (congrArg _ taken)
  rw [if_pos live, replyDone_raisePort] at taken
  refine ⟨fun e down up => ?_, fun inv stopped at_target cut => ?_, fun u place none => ?_⟩
  · rw [run, taken, closeLive_of_up (s := Answered p tag (.done []) s) found down up]
  · refine ⟨_, run.trans (congrArg _ taken), closeLive_rampsDown (s := Answered p tag (.done []) s) inv found stopped at_target cut, ?_, fun u place => ?_⟩
    · rw [← answered_tx]
      exact ((Edits.none (g := 2)).closeLive.settleAct).onlyAddsFrames.frames p
    · obtain rfl := ctx?_id found
      refine closeLive_closing_tx place ?_ _
      rcases entitled with own | ⟨v, e, transit⟩
      · exact own
      · rw [place] at transit
        cases transit
  · refine ⟨_, changedMap_runsChange (released_released id) c c.entrySet s.map, ?_⟩
    rw [run, taken, closeLive_of_no_leg (s := Answered p tag (.done []) s) found place none]
    rfl

/-- Settles O23. -/
theorem teardownPassesOnAndRampsDown : Obligations.TeardownPassesOnAndRampsDown := by
  unfold Obligations.TeardownPassesOnAndRampsDown
  refine ⟨fun d h id c s hears found live up => ?drop, fun id c s inv found phase at_target => ⟨fun d h hears down => ?turn, fun out => ?timer⟩⟩
  case drop =>
    have taken : onCtx id (takeDrop d) (Heard d h s) = settleAct (closeLive c (Heard d h s)) := by
      rw [onCtx_of_ctx (heard_ctx_eq found), takeDrop, if_pos ⟨live, up⟩]
    have run := (exec_drop (id := id) hears).trans (congrArg Host.Outcome.next taken)
    have up_kept (e : Degree) : ((Heard d h s).link e).up = (s.link e).up := by
      by_cases same : e = d
      · subst same
        rw [Heard, withLink_link]
        cases h <;> rfl
      · rw [heard_link_ne same]
    refine ⟨fun e down linked => ?_, fun inv stopped at_target cut => ?_, fun place none => ?_⟩
    · rw [run, closeLive_of_up (s := Heard d h s) found down ((up_kept e).trans linked)]
    · obtain rfl := ctx?_id found
      refine ⟨_, run, closeLive_rampsDown (s := Heard d h s) inv found stopped at_target (fun e down => (up_kept e).trans (cut e down)),
        fun q place own => closeLive_closing_tx place own (Heard d h s)⟩
    · refine ⟨_, changedMap_runsChange (released_released id) c c.entrySet s.map, ?_⟩
      rw [run, closeLive_of_no_leg (s := Heard d h s) found place none]
      rfl
  case turn =>
    have taken : onCtx id (takeDownTurn d) (Heard d h s) = settleAct (beginRampDown c.id (Heard d h s)) := by
      rw [onCtx_of_ctx (heard_ctx_eq found), takeDownTurn, if_pos ⟨phase, down, at_target⟩]
    rw [ctx?_id found] at taken
    exact ⟨_, (exec_downTurn hears).trans (congrArg _ taken), beginRampDown_rampsDown (s := Heard d h s) inv found phase at_target⟩
  case timer =>
    have taken : onCtx id teardownExpiry s = settleAct (beginRampDown c.id s) := by
      rw [onCtx_of_ctx found, teardownExpiry, if_pos ⟨phase, (ranOut_iff _).mpr out⟩]
    rw [ctx?_id found] at taken
    exact ⟨_, congrArg Host.Outcome.next taken, beginRampDown_rampsDown inv found phase at_target⟩

end Sys2Proof.Machine
end

section
/-! PROOFS. Link loss (R72 to R74, R97, R98, R153 to R155): the loss taken by the jobs one after another, a HELLO from another node and
the link timeout. -/

namespace Sys2Proof.Machine

variable {s t u : State} {p : Port} {d : Degree} {id : JobId} {c : Context}

/-! ### What one job's act leaves alone -/

/-- Between the two states the job's act has left the other contexts as they were outside their legs, has only added to transmit and
outbound queues, and has changed no parameter. -/
structure LeavesOthers (id : JobId) (s t : State) : Prop where
  others : OthersKept id s t
  ports  : ∀ p, (t.port p).up = (s.port p).up ∧ (s.port p).tx <+: (t.port p).tx
  links  : ∀ d, (t.link d).up = (s.link d).up ∧ (s.link d).queue <+: (t.link d).queue
  params : SameParams s t

theorem OneJob.leaves (h : OneJob id s t) : LeavesOthers id s t := ⟨h.others, h.ports, h.links, h.params⟩

theorem LeavesOthers.refl : LeavesOthers id s s := (OneJob.refl).leaves

theorem LeavesOthers.trans (h : LeavesOthers id s t) (g : LeavesOthers id t u) : LeavesOthers id s u where
  others := g.others.trans h.others
  ports p := ⟨(g.ports p).1.trans (h.ports p).1, (h.ports p).2.trans (g.ports p).2⟩
  links d := ⟨(g.links d).1.trans (h.links d).1, (h.links d).2.trans (g.links d).2⟩
  params := SameParams.trans h.params g.params

theorem LeavesOthers.modCtx (f : Context → Context) (s : State) (keeps : ∀ c, (f c).id = c.id := by exact fun _ => rfl) :
    LeavesOthers id s (modCtx id f s) where
  others := modCtx_othersKept id f s keeps
  ports _ := ⟨rfl, List.prefix_rfl⟩
  links _ := ⟨rfl, List.prefix_rfl⟩
  params := SameParams.refl s

theorem releaseSet_oneJob (c : Context) (s : State) : OneJob id s (releaseSet c s) := .quiet (.releaseSet .none)

theorem endHolding_oneJob (c : Context) (k : Cause) (n : Nat) (s : State) : OneJob c.id s (endHolding c k n s) := by
  unfold endHolding
  split
  · exact (releaseSet_oneJob c s).trans ((OneJob.notifyOwner ..).trans ((OneJob.writeResult ..).trans (.freeContext c _)))
  · exact (releaseSet_oneJob c s).trans ((OneJob.sendOn ..).trans (.freeContext c _))

theorem releaseReservation_oneJob (c : Context) (s : State) : OneJob c.id s (releaseReservation c s) :=
  (releaseSet_oneJob c s).trans ((OneJob.sendOn ..).trans (.freeContext c _))

theorem beginRampDown_leaves (id : JobId) (s : State) : LeavesOthers id s (beginRampDown id s) := by
  unfold beginRampDown Machine.onCtx
  split
  · next c found =>
    obtain rfl := ctx?_id found
    dsimp only
    split
    · exact (LeavesOthers.modCtx _ s).trans ((OneJob.handAll c _).trans (.checkEnded ..)).leaves
    · exact .refl
  · exact .refl

theorem failLocally_leaves {k : Cause} (found : s.ctx? id = some c) (able : c.phase.canFail = true) :
    LeavesOthers id s (failLocally id k s) :=
  (LeavesOthers.modCtx (Context.failing (localFailure k .none s) none) s).trans
    (failJob_jobs (f := localFailure k .none s) (leg := none) (arrival := none) found able).leaves

/-! ### The loss taken by one job -/

theorem lossOf_holding (holding : c.phase = .holding) (s : State) : lossOf d c s =
    if c.place.down? = some d then endHolding c .linkDown s.node.nodeId s else releaseReservation c s := by
  simp only [lossOf, holding]

theorem lossOf_before (early : BeforeLive c) (later : c.phase ≠ .holding) (s : State) : lossOf d c s = failLocally c.id .linkDown s := by
  obtain ⟨live, teardown, failing⟩ := early
  unfold lossOf
  split <;> simp_all

theorem lossOf_teardown (teardown : c.phase = .teardown) (s : State) : lossOf d c s =
    if c.place.down? = some d then beginRampDown c.id s else s := by
  simp only [lossOf, teardown]

theorem lossOf_still (still : c.phase = .live ∨ c.phase = .failing) (s : State) : lossOf d c s = s := by
  rcases still with h | h <;> simp only [lossOf, h]

/-- The four ways a phase takes a loss. -/
theorem phase_cases (c : Context) : c.phase = .holding ∨ (BeforeLive c ∧ c.phase ≠ .holding) ∨ c.phase = .teardown
    ∨ c.phase = .live ∨ c.phase = .failing := by
  unfold BeforeLive
  cases c.phase <;> simp

theorem lossOf_leaves (found : s.ctx? id = some c) : LeavesOthers id s (lossOf d c s) := by
  obtain rfl := ctx?_id found
  rcases phase_cases c with holding | ⟨early, later⟩ | teardown | still
  · rw [lossOf_holding holding]
    split
    · exact (endHolding_oneJob ..).leaves
    · exact (releaseReservation_oneJob ..).leaves
  · rw [lossOf_before early later]
    exact failLocally_leaves found ((canFail_iff c).mpr early)
  · rw [lossOf_teardown teardown]
    split
    · exact beginRampDown_leaves ..
    · exact .refl
  · rw [lossOf_still still]
    exact .refl

/-- A failing without the end of its act. -/
theorem failLocally_fails {cause : Cause} (found : s.ctx? id = some c) (able : c.phase.canFail = true) :
    JobFails id ⟨cause, 0#8, s.node.nodeId⟩ none s (failLocally id cause s) :=
  failJob_jobFails_after (f := localFailure cause .none s) (arrival := none) none found able (fun _ _ _ => rfl) .refl .none

theorem beginRampDown_ramps (inv : JobInv s) (found : s.ctx? id = some c) (phase : c.phase = .teardown) (at_target : c.allAtTarget = true) :
    RampsDown id s (beginRampDown id s) := by
  rw [beginRampDown, onCtx_of_ctx found, if_pos at_target]
  exact handAll_rampsDown_after (s1 := modCtx id (fun c => { c with teardown := none }) s) .refl .none (modCtx_jobInv (fun _ => rfl) inv) found rfl
    (modCtx_othersKept id _ s) (SameParams.refl s) (ctx?_modCtx_same (fun _ => rfl) found) phase rfl rfl

theorem lossOf_takes (inv : JobInv s) (found : s.ctx? id = some c) (uses : c.uses d = true) : JobTakesLoss d id s (lossOf d c s) := by
  have named := ctx?_id found
  subst named
  refine ⟨c, found, uses, fun holding => ?holding, fun early later => ?before, fun teardown down at_target => ?teardown, fun still => ?still⟩
  case holding =>
    refine ⟨_, changedMap_runsChange (released_released c.id) c c.entrySet s.map, fun down => ⟨fun u e place => ?_, fun e place => ?_⟩, fun other => ?_⟩
    · rw [lossOf_holding holding, if_pos down, endHolding_transit place]
    · rw [lossOf_holding holding, if_pos down, endHolding_head place]
    · rw [lossOf_holding holding, if_neg other, releaseReservation_eq]
      cases c.place.down? <;> rfl
  case before =>
    have able := (canFail_iff c).mpr early
    rw [lossOf_before early later]
    refine ⟨failLocally_fails found able, fun e other uses_e => ?_⟩
    rw [failLocally, failJob_eq found able]
    exact (sendFail_queue (localFailure .linkDown .none s) (arrival := none) uses_e nofun (modCtx c.id (Context.failing (localFailure .linkDown .none s) none) s)).trans
      ((OneJob.unwind c _).links e).2
  case teardown =>
    rw [lossOf_teardown teardown, if_pos down]
    exact beginRampDown_ramps inv found teardown at_target
  case still =>
    rcases still with live | failing | ⟨teardown, elsewhere⟩
    · exact lossOf_still (.inl live) s
    · exact lossOf_still (.inr failing) s
    · rw [lossOf_teardown teardown]
      split
      · next down =>
        rw [beginRampDown, onCtx_of_ctx found, if_neg]
        rcases elsewhere with other | short
        · exact absurd down other
        · simp [short]
      · rfl

/-- After the loss the job is freed, or in LIVE, TEARDOWN or FAILING. -/
theorem lossOf_phase (inv : JobInv s) (found : s.ctx? id = some c) {b : Context} (mem : b ∈ (lossOf d c s).jobs) (named : b.id = id) :
    b.phase = .live ∨ b.phase = .teardown ∨ b.phase = .failing := by
  obtain rfl := ctx?_id found
  have own {a : Context} (mem_a : a ∈ s.jobs) (named_a : a.id = c.id) : a = c :=
    Option.some.inj ((named_a ▸ ctx?_of_mem inv mem_a).symm.trans found)
  have freed {w : State} (mem : b ∈ (Freed c.id w).jobs) : False := by
    have := List.mem_filter.mp mem
    simp [named] at this
  rcases phase_cases c with holding | ⟨early, later⟩ | teardown | still
  · rw [lossOf_holding holding] at mem
    split at mem
    · cases place : c.place with
      | head e => exact (freed (endHolding_head place .linkDown s.node.nodeId s ▸ mem)).elim
      | transit v e => exact (freed (endHolding_transit place .linkDown s.node.nodeId s ▸ mem)).elim
      | tail v => simp_all [Place.down?]
    · exact (freed (releaseReservation_eq c s ▸ mem)).elim
  · rw [lossOf_before early later] at mem
    exact .inr (.inr ((failLocally_fails (cause := .linkDown) found ((canFail_iff c).mpr early)).1 b mem named).1)
  · rw [lossOf_teardown teardown] at mem
    split at mem
    · by_cases at_target : c.allAtTarget = true
      · exact .inr (.inl ((beginRampDown_ramps inv found teardown at_target).1 b mem named).1)
      · rw [beginRampDown, onCtx_of_ctx found, if_neg at_target] at mem
        exact .inr (.inl ((own mem named) ▸ teardown))
    · exact .inr (.inl ((own mem named) ▸ teardown))
  · rw [lossOf_still still] at mem
    rw [own mem named]
    rcases still with live | failing
    exacts [.inl live, .inr (.inr failing)]

/-! ### The loss taken by the jobs one after another -/

/-- The loss of the link of degree `d` taken by the jobs of the list (R97). -/
def lossAll (d : Degree) (ids : List JobId) (s : State) : State := ids.foldl (fun s id => onCtx id (lossOf d) s) s

theorem linkLoss_eq (d : Degree) (s : State) : linkLoss d s = lossAll d (s.usersOf d) s := rfl

/-- Of a state in which the jobs of the list are still to take the loss of the link of degree `d`. -/
structure LossDue (d : Degree) (ids : List JobId) (s : State) : Prop where
  table  : JobInv s
  nodup  : ids.Nodup
  users  : ∀ id, id ∈ ids → ∃ c, s.ctx? id = some c ∧ c.uses d = true
  others : ∀ b, b ∈ s.jobs → b.uses d = true → b.id ∈ ids ∨ b.phase = .live ∨ b.phase = .teardown ∨ b.phase = .failing

theorem mem_of_othersKept (kept : OthersKept id s t) {a : Context} (mem : a ∈ s.jobs) (other : a.id ≠ id) :
    ∃ b, b ∈ t.jobs ∧ b.outer = a.outer := by
  have : a.outer ∈ (t.jobs.filter (fun c => c.id ≠ id)).map Context.outer := by
    rw [show (t.jobs.filter (fun c => c.id ≠ id)).map Context.outer = _ from kept]
    exact List.mem_map_of_mem (List.mem_filter.mpr ⟨mem, by simpa using other⟩)
  obtain ⟨b, mem_b, outer⟩ := List.mem_map.mp this
  exact ⟨b, List.mem_of_mem_filter mem_b, outer⟩

theorem mem_of_othersKept_rev (kept : OthersKept id s t) {b : Context} (mem : b ∈ t.jobs) (other : b.id ≠ id) :
    ∃ a, a ∈ s.jobs ∧ a.outer = b.outer := by
  have : b.outer ∈ (s.jobs.filter (fun c => c.id ≠ id)).map Context.outer := by
    rw [← show (t.jobs.filter (fun c => c.id ≠ id)).map Context.outer = _ from kept]
    exact List.mem_map_of_mem (List.mem_filter.mpr ⟨mem, by simpa using other⟩)
  obtain ⟨a, mem_a, outer⟩ := List.mem_map.mp this
  exact ⟨a, List.mem_of_mem_filter mem_a, outer⟩

theorem lossOf_edits (d : Degree) (c : Context) (s : State) : Edits 2 s (lossOf d c s) := Edits.none.lossOf

theorem LossDue.next {ids : List JobId} (due : LossDue d (id :: ids) s) (found : s.ctx? id = some c) : LossDue d ids (lossOf d c s) := by
  have leaves := lossOf_leaves (d := d) found
  have table : JobInv (lossOf d c s) := (lossOf_edits d c s).jobInv due.table
  obtain ⟨fresh, nodup⟩ := List.nodup_cons.mp due.nodup
  refine ⟨table, nodup, fun j mem => ?_, fun b mem uses => ?_⟩
  · obtain ⟨a, found_a, uses⟩ := due.users j (List.mem_cons_of_mem _ mem)
    have other : a.id ≠ id := by
      rintro rfl
      exact fresh (ctx?_id found_a ▸ mem)
    obtain ⟨b, mem_b, outer⟩ := mem_of_othersKept leaves.others (List.mem_of_find?_eq_some found_a) other
    have named : b.id = j := (Context.outer_id outer).trans (ctx?_id found_a)
    exact ⟨b, named ▸ ctx?_of_mem table mem_b, (uses_of_outer_eq outer d).trans uses⟩
  · by_cases own : b.id = id
    · exact .inr (lossOf_phase due.table found mem own)
    · obtain ⟨a, mem_a, outer⟩ := mem_of_othersKept_rev leaves.others mem own
      have same := Context.outer_id outer
      rcases due.others a mem_a ((uses_of_outer_eq outer d).trans uses) with listed | phase
      · rcases List.mem_cons.mp listed with rfl | later
        · exact absurd same.symm own
        · exact .inl (same ▸ later)
      · rw [(outer_eq_iff_fields outer).1] at phase
        exact .inr phase

theorem lossAll_cons {ids : List JobId} (found : s.ctx? id = some c) : lossAll d (id :: ids) s = lossAll d ids (lossOf d c s) := by
  rw [lossAll, List.foldl_cons, onCtx_of_ctx found]
  rfl

theorem lossAll_takes {ids : List JobId} (due : LossDue d ids s) : JobsTakeLoss d ids s (lossAll d ids s) := by
  induction ids generalizing s with
  | nil => rfl
  | cons id ids ih =>
    obtain ⟨c, found, uses⟩ := due.users id (List.mem_cons_self ..)
    rw [lossAll_cons found]
    exact ⟨_, lossOf_takes due.table found uses, ih (due.next found)⟩

/-- What the whole loss leaves: no parameter, port state or link state changes, the queues are only added to, a LIVE context and those
that do not use the degree stay as they were outside their legs. -/
structure LossLeaves (d : Degree) (s t : State) : Prop where
  ports  : ∀ p, (t.port p).up = (s.port p).up ∧ (s.port p).tx <+: (t.port p).tx
  links  : ∀ d, (t.link d).up = (s.link d).up ∧ (s.link d).queue <+: (t.link d).queue
  live   : ∀ c, c ∈ s.jobs → c.phase = .live → ∃ b, b ∈ t.jobs ∧ b.outer = c.outer
  unused : (t.jobs.filter (fun c => !c.uses d)).map Context.outer = (s.jobs.filter (fun c => !c.uses d)).map Context.outer
  params : SameParams s t

theorem LossLeaves.refl : LossLeaves d s s :=
  ⟨fun _ => ⟨rfl, List.prefix_rfl⟩, fun _ => ⟨rfl, List.prefix_rfl⟩, fun c mem _ => ⟨c, mem, rfl⟩, rfl, SameParams.refl s⟩

theorem LossLeaves.trans (h : LossLeaves d s t) (g : LossLeaves d t u) : LossLeaves d s u where
  ports p := ⟨(g.ports p).1.trans (h.ports p).1, (h.ports p).2.trans (g.ports p).2⟩
  links e := ⟨(g.links e).1.trans (h.links e).1, (h.links e).2.trans (g.links e).2⟩
  live c mem phase := by
    obtain ⟨b, mem_b, outer_b⟩ := h.live c mem phase
    obtain ⟨a, mem_a, outer_a⟩ := g.live b mem_b ((outer_eq_iff_fields outer_b).1.trans phase)
    exact ⟨a, mem_a, outer_a.trans outer_b⟩
  unused := g.unused.trans h.unused
  params := SameParams.trans h.params g.params

/-- The contexts that do not use a degree are all of other jobs than one that does. -/
theorem filter_unused_eq (users : ∀ b, b ∈ s.jobs → b.id = id → b.uses d = true) :
    s.jobs.filter (fun c => !c.uses d) = (s.jobs.filter (fun c => c.id ≠ id)).filter (fun c => !c.uses d) := by
  rw [List.filter_filter]
  refine List.filter_congr fun b mem => ?_
  by_cases own : b.id = id
  · simp [own, users b mem own]
  · simp [own]

theorem lossOf_lossLeaves (inv : JobInv s) (found : s.ctx? id = some c) (uses : c.uses d = true) : LossLeaves d s (lossOf d c s) := by
  have leaves := lossOf_leaves (d := d) found
  obtain rfl := ctx?_id found
  have own {a : Context} (mem_a : a ∈ s.jobs) (named_a : a.id = c.id) : a = c :=
    Option.some.inj ((named_a ▸ ctx?_of_mem inv mem_a).symm.trans found)
  refine ⟨leaves.ports, leaves.links, fun a mem live => ?_, ?_, leaves.params⟩
  · by_cases named : a.id = c.id
    · obtain rfl := own mem named
      rw [lossOf_still (.inl live)]
      exact ⟨a, mem, rfl⟩
    · exact mem_of_othersKept leaves.others mem named
  · have after (b : Context) (mem : b ∈ (lossOf d c s).jobs) (named : b.id = c.id) : b.uses d = true := by
      obtain ⟨a, mem_a, fixed⟩ := (lossOf_edits d c s).undisturbed.jobs b mem
      obtain rfl := own mem_a ((Context.fixed_fields fixed).1.trans named)
      rw [← uses]
      simp only [Context.uses, (Context.fixed_fields fixed).2.1]
    rw [filter_unused_eq after, filter_unused_eq (s := s) (id := c.id) (fun b mem named => own mem named ▸ uses)]
    exact filter_outer _ (fun _ => rfl) leaves.others

theorem lossAll_leaves {ids : List JobId} (due : LossDue d ids s) : LossLeaves d s (lossAll d ids s) := by
  induction ids generalizing s with
  | nil => exact .refl
  | cons id ids ih =>
    obtain ⟨c, found, uses⟩ := due.users id (List.mem_cons_self ..)
    rw [lossAll_cons found]
    exact (lossOf_lossLeaves due.table found uses).trans (ih (due.next found))

theorem lossAll_done {ids : List JobId} (due : LossDue d ids s) : LossDue d [] (lossAll d ids s) := by
  induction ids generalizing s with
  | nil => exact due
  | cons id ids ih =>
    obtain ⟨c, found, -⟩ := due.users id (List.mem_cons_self ..)
    rw [lossAll_cons found]
    exact ih (due.next found)

theorem lossDue_usersOf (inv : JobInv s) (d : Degree) : LossDue d (s.usersOf d) s := by
  refine ⟨inv, ?_, fun id mem => ?_, fun b mem uses => .inl ?_⟩
  · refine List.Pairwise.map _ (fun a b before same => ?_) (inv.2.filter _)
    rw [same, before_irrefl] at before
    cases before
  · obtain ⟨c, mem_c, rfl⟩ := List.mem_map.mp mem
    obtain ⟨mem_jobs, uses⟩ := List.mem_filter.mp mem_c
    exact ⟨c, ctx?_of_mem inv mem_jobs, uses⟩
  · exact List.mem_map_of_mem (List.mem_filter.mpr ⟨mem, uses⟩)

/-! ### The link that is lost stays as it is -/

/-- A link that is DOWN with no timer, neighbour or queued message (R155). -/
def Link.Lost (l : Link) : Prop := l.up = false ∧ l.timeout = none ∧ l.neighbour = none ∧ l.queue = []

theorem Link.lose_of_lost {l : Link} (lost : l.Lost) : l.lose = l := by
  obtain ⟨up, timeout, neighbour, queue⟩ := lost
  simp only [Link.lose, ← up, ← timeout, ← neighbour, ← queue]

theorem link_of_links (links : t.links = s.links) (d : Degree) : t.link d = s.link d := by rw [State.link, State.link, links]

theorem Edit.link_lost {g : Nat} (e : Edit g s t) (lost : (s.link d).Lost) : t.link d = s.link d := by
  have changed {k : Degree} {f : Link → Link} (fixes : f (s.link d) = s.link d) : (modLink k f s).link d = s.link d := by
    by_cases same : d = k
    · subst same
      rw [modLink_of_fixed fixes]
    · exact PerDegree.get_set_ne _ _ same
  cases e with
  | message k m _ _ =>
    have deaf : takeMessage (s.deg k).enabled m (s.link d) = s.link d := by rw [takeMessage, if_neg (by simp [lost.1])]
    exact changed deaf
  | lose k _ _ => exact changed (Link.lose_of_lost lost)
  | _ => rfl

theorem Edits.link_lost {g : Nat} (e : Edits g s t) (lost : (s.link d).Lost) : t.link d = s.link d := by
  induction e with
  | refl => rfl
  | tail _ step ih => exact (step.link_lost (ih ▸ lost)).trans ih

/-! ### The loss as a HELLO and the timeout take it -/

theorem lossAll_edits (d : Degree) (ids : List JobId) (s : State) : Edits 2 s (lossAll d ids s) :=
  .foldl (fun _ h => .onCtx h fun _ h => h.lossOf) .none

theorem lossAll_link_lost {l : Link} (ids : List JobId) (s : State) (lost : l.Lost) : (lossAll d ids (s.withLink d l)).link d = l := by
  have stays := (lossAll_edits d ids (s.withLink d l)).link_lost (d := d) (by rwa [withLink_link])
  rwa [withLink_link] at stays

/-- The jobs have taken the loss between `s` and any state whose contexts are, outside their legs, those the loss leaves (R97). -/
theorem lossTaken_of_quiet (due : LossDue d (s.usersOf d) s) (outer : t.jobs.map Context.outer = (lossAll d (s.usersOf d) s).jobs.map Context.outer)
    (params : SameParams (lossAll d (s.usersOf d) s) t) : LossTaken d s t := by
  have leaves := lossAll_leaves due
  refine ⟨fun b mem uses => ?_, fun c mem live => ?_, ?_, SameParams.trans leaves.params params⟩
  · obtain ⟨a, mem_a, same⟩ := mem_of_outer_map outer mem
    rcases (lossAll_done due).others a mem_a ((uses_of_outer_eq same d).trans uses) with none | phase
    · cases none
    · rwa [(outer_eq_iff_fields same).1] at phase
  · obtain ⟨b, mem_b, same_b⟩ := leaves.live c mem live
    obtain ⟨a, mem_a, same_a⟩ := mem_of_outer_map outer.symm mem_b
    exact ⟨a, mem_a, same_a.trans same_b⟩
  · exact (filter_outer _ (fun _ => rfl) outer).trans leaves.unused

/-- Settles O32. -/
theorem linkTimeoutTakesTheLinkDown : Obligations.LinkTimeoutTakesTheLinkDown := by
  unfold Obligations.LinkTimeoutTakesTheLinkDown
  refine ⟨fun d s running => ?_, ?_⟩
  · refine congrArg Host.Outcome.next ?_
    rw [linkTimeoutExpiry, if_neg]
    simp [ranOut_iff, running]
  intro d s up out inv lost
  have run : exec (.linkTimeoutExpiry d) s =
      .next (settleAct (announce .link (some d) 0 (lossAll d (s.usersOf d) (s.withLink d lost)))) := by
    refine congrArg Host.Outcome.next ?_
    rw [linkTimeoutExpiry, if_pos ⟨up, (ranOut_iff _).mpr out⟩, linkDown, modLink_eq_withLink, linkLoss_eq]
    rfl
  have due : LossDue d (s.usersOf d) (s.withLink d lost) := lossDue_usersOf (s := s.withLink d lost) inv d
  have leaves := lossAll_leaves due
  have at_d := lossAll_link_lost (d := d) (l := lost) (s.usersOf d) s ⟨rfl, rfl, rfl, rfl⟩
  obtain ⟨ports, links, -, outer⟩ := settleAct_quiet (announce .link (some d) 0 (lossAll d (s.usersOf d) (s.withLink d lost)))
  have params := settleAct_params (announce .link (some d) 0 (lossAll d (s.usersOf d) (s.withLink d lost)))
  have taken : LossTaken d s (settleAct (announce .link (some d) 0 (lossAll d (s.usersOf d) (s.withLink d lost)))) :=
    lossTaken_of_quiet (s := s.withLink d lost) due outer params
  refine ⟨_, _, run, (link_of_links links d).trans at_d, taken, lossAll_takes due, rfl, fun e other => ?_,
    fun q => ⟨(lossAll d (s.usersOf d) (s.withLink d lost)).port q, ?_, (leaves.ports q).1, (leaves.ports q).2⟩⟩
  · have kept : (s.withLink d lost).link e = s.link e := PerDegree.get_set_ne _ _ other
    rw [link_of_links links e, ← kept]
    exact (leaves.links e).2
  · rw [State.port, ports]
    refine (announce_port ..).trans ?_
    rw [leaves.params.2.2.2.1]
    rfl

theorem helloOk_iff (node degree : Nat) : helloOk node degree = true ↔ 1 ≤ node ∧ node ≤ 65534 ∧ 1 ≤ degree ∧ degree ≤ 4 := by
  simp [helloOk, nodeIdOk, degree_ofInt_isSome_iff, and_assoc]

theorem knows_iff (node : Nat) (l : Link) : l.knows node = true ↔ ∃ k, l.neighbour = some (node, k) := by
  cases h : l.neighbour with
  | none => simp [Link.knows, h]
  | some n => simp [Link.knows, h, Prod.ext_iff]

/-- Settles O31. -/
theorem helloRaisesOrRenewsTheLink : Obligations.HelloRaisesOrRenewsTheLink := by
  unfold Obligations.HelloRaisesOrRenewsTheLink
  intro d h node degree flags s enabled l raised
  have run : exec (.hello d h node degree flags) s = .next (takeHello d node degree flags (s.withLink d l)) :=
    congrArg Host.Outcome.next (withHeader_of_enabled enabled h _)
  have noted_fields : l.up = (s.link d).up ∧ l.neighbour = (s.link d).neighbour := by cases h <;> exact ⟨rfl, rfl⟩
  have at_d : (s.withLink d l).link d = l := withLink_link ..
  refine ⟨fun outside => ?bad, fun low high degree_low degree_high => ?good⟩
  case bad =>
    rw [run, takeHello, if_neg (by rwa [helloOk_iff]), modLink_eq_withLink, withLink_withLink, withLink_link]
    rfl
  have good : helloOk node degree = true := (helloOk_iff node degree).mpr ⟨low, high, degree_low, degree_high⟩
  refine ⟨fun down => ?_, fun k up neighbour => ?_, fun up stranger inv => ?_⟩
  · rw [run, takeHello, if_pos good, if_neg (by rw [at_d, noted_fields.1, down]; simp), linkUp, modLink_eq_withLink, withLink_withLink, withLink_link]
    rfl
  · rw [run, takeHello, if_pos good, if_pos (by rw [at_d, noted_fields.1, up]), if_pos (by rw [at_d, knows_iff, noted_fields.2]; exact ⟨k, neighbour⟩),
      modLink_eq_withLink, withLink_withLink, withLink_link]
    rfl
  · have unknown : ¬ ((s.withLink d l).link d).knows node = true := by
      rw [at_d, knows_iff, noted_fields.2]
      rintro ⟨k, neighbour⟩
      exact stranger k neighbour
    rw [takeHello, if_pos good, if_pos (by rw [at_d, noted_fields.1, up]), if_neg unknown, linkDown, modLink_eq_withLink, withLink_withLink, withLink_link,
      linkLoss_eq] at run
    have due : LossDue d (s.usersOf d) (s.withLink d l.lose) := lossDue_usersOf (s := s.withLink d l.lose) inv d
    have leaves := lossAll_leaves due
    have at_lost := lossAll_link_lost (d := d) (l := l.lose) (s.usersOf d) s ⟨rfl, rfl, rfl, rfl⟩
    have raise_eq : linkUp d node degree flags (announce .link (some d) 0 (lossAll d (s.usersOf d) (s.withLink d l.lose))) =
        announce .link (some d) 1 ((announce .link (some d) 0 (lossAll d (s.usersOf d) (s.withLink d l.lose))).withLink d
          { raised with queue := [] }) := by
      rw [linkUp, modLink_eq_withLink, announce_link, at_lost, announce_node, leaves.params.1]
      rfl
    have run' := run.trans (congrArg (fun v => Host.Outcome.next (settleAct v)) raise_eq)
    obtain ⟨ports, links, -, outer⟩ := settleAct_quiet (announce .link (some d) 1
      ((announce .link (some d) 0 (lossAll d (s.usersOf d) (s.withLink d l.lose))).withLink d { raised with queue := [] }))
    have params := settleAct_params (announce .link (some d) 1
      ((announce .link (some d) 0 (lossAll d (s.usersOf d) (s.withLink d l.lose))).withLink d { raised with queue := [] }))
    refine ⟨_, _, run', ?_, lossTaken_of_quiet (s := s.withLink d l.lose) due outer params, lossAll_takes due, rfl,
      fun q => ⟨(lossAll d (s.usersOf d) (s.withLink d l.lose)).port q, (leaves.ports q).1, (leaves.ports q).2, ?_⟩⟩
    · rw [link_of_links links d, announce_link, withLink_link]
    · have time : (lossAll d (s.usersOf d) (s.withLink d l.lose)).time = s.time := leaves.params.2.2.2.1
      rw [State.port, ports]
      refine (announce_port ..).trans ?_
      show takeNotice (.degreeEvent .link (some d) 1 (lossAll d (s.usersOf d) (s.withLink d l.lose)).time)
        ((announce .link (some d) 0 (lossAll d (s.usersOf d) (s.withLink d l.lose))).port q) = _
      rw [announce_port, time]

end Sys2Proof.Machine
end

section
/-! PROOFS. The ramp engine's operations on one leg (chapters 6 and 7), each with its state written out: joining, freezing, thawing, a
step's beginning, its scans and commands, its end. -/

namespace Sys2Proof.Machine

variable {s t : State} {r : LegRef} {l : LineLeg} {c : Context} {k : RequestKind}

/-! ### The leg that a change is of (R37, R46) -/

theorem mapLine_congr {dir : Dir} {f g : LineLeg → LineLeg} (line : c.line? dir = some l) (same : f l = g l) : c.mapLine dir f = c.mapLine dir g := by
  cases dir with
  | fwd =>
    cases leg : c.fwd <;> simp_all [Context.line?, Context.leg?, Leg.line?, Context.mapLine, Leg.mapLine]
  | rev =>
    cases rev : c.rev with
    | none => simp [Context.mapLine, rev]
    | some leg => cases leg <;> simp_all [Context.line?, Context.leg?, Leg.line?, Context.mapLine, Leg.mapLine]

/-- In a job table two changes of a leg are the same where they do the same to the leg there is. -/
theorem setLeg_congr (inv : JobInv s) (found : s.ctx? r.job = some c) (line : c.line? r.dir = some l) {f g : LineLeg → LineLeg} (same : f l = g l) :
    setLeg r f s.jobs = setLeg r g s.jobs := by
  unfold setLeg setJob
  refine List.map_congr_left fun b mem => ?_
  split
  · next named =>
    obtain rfl : b = c := Option.some.inj ((named ▸ ctx?_of_mem inv mem).symm.trans found)
    exact mapLine_congr line same
  · rfl

theorem leg_mapLine_mapLine (f g : LineLeg → LineLeg) (leg : Leg) : (leg.mapLine g).mapLine f = leg.mapLine (fun x => f (g x)) := by
  cases leg <;> rfl

theorem mapLine_mapLine (dir : Dir) (f g : LineLeg → LineLeg) (c : Context) :
    (c.mapLine dir g).mapLine dir f = c.mapLine dir (fun x => f (g x)) := by
  cases dir with
  | fwd => simp only [Context.mapLine, leg_mapLine_mapLine]
  | rev => cases rev : c.rev <;> simp [Context.mapLine, rev, leg_mapLine_mapLine]

theorem setLeg_setLeg (r : LegRef) (f g : LineLeg → LineLeg) (jobs : List Context) :
    setLeg r f (setLeg r g jobs) = setLeg r (fun x => f (g x)) jobs := by
  rw [setLeg, setLeg, setJob_setJob (fun b => mapLine_id ..)]
  simp only [mapLine_mapLine]
  rfl

theorem leg?_eq (found : s.ctx? r.job = some c) (leg : c.leg? r.dir = some (.line l)) : s.leg? r = some l := by
  rw [State.leg?, found]
  show (c.leg? r.dir).bind Leg.line? = some l
  rw [leg]
  rfl

/-! ### Joining, freezing, thawing (R102, R130 to R132) -/

theorem ingressDark_eq_false_iff : s.ingressDark l.ingress = false ↔ ∀ g, l.ingress = .line g → (s.watch g).dark = .lit := by
  cases ingress : l.ingress with
  | bank => simp [State.ingressDark]
  | line g => cases dark : (s.watch g).dark <;> simp [State.ingressDark, dark]

theorem ingressDark_iff : s.ingressDark l.ingress = true ↔ ∃ g, l.ingress = .line g ∧ (s.watch g).dark = .dark := by
  cases ingress : l.ingress with
  | bank => simp [State.ingressDark]
  | line g => cases dark : (s.watch g).dark <;> simp [State.ingressDark, dark]

theorem joinUp_of_bright (leg : s.leg? r = some l) (bright : s.ingressDark l.ingress = false) : joinUp r k s =
    { s with arbiters := s.arbiters.set l.egress { s.arb l.egress with up := (s.arb l.egress).up ++ [⟨r, k⟩] }
             jobs := setLeg r (fun x => { x with state := .queued }) s.jobs } := by
  rw [joinUp, onLeg_of_leg leg, bright]
  rfl

theorem joinUp_of_dark (leg : s.leg? r = some l) (dark : s.ingressDark l.ingress = true) : joinUp r k s = freeze r .dark k s := by
  rw [joinUp, onLeg_of_leg leg, if_pos dark]

theorem freeze_leg_eq (x : FrozenBy) (k : RequestKind) (s : State) (d : Degree) :
    LineLeg.freeze x k (s.deg d).darkTimeout = fun y =>
      { FrozenLeg s x k y with darkTimer := if x = .dark then some (s.deg d).darkTimeout else none } := by
  funext y
  cases level : y.level <;> simp only [LineLeg.freeze, FrozenLeg, LineLeg.needsRecheck, level]

theorem freeze_eq (leg : s.leg? r = some l) (x : FrozenBy) (k : RequestKind) : freeze r x k s =
    { s with
      arbiters := s.arbiters.set l.egress
        { s.arbFree l.egress r with
          down := (s.arb l.egress).down.filter (· ≠ r), up := (s.arb l.egress).up.filter (fun e => e.leg ≠ r)
          wait := (s.arb l.egress).wait.filter (fun e => e.leg ≠ r), backoff := (s.arb l.egress).backoff.filter (· ≠ r)
          held := (s.deg l.egress).holdAll && !((s.arb l.egress).backoff.filter (· ≠ r)).isEmpty }
      jobs := setLeg r (fun y =>
        { FrozenLeg s x k y with darkTimer := if x = .dark then some (s.deg l.egress).darkTimeout else none }) s.jobs
      frozenOrder := s.frozenOrder.filter (· ≠ r) ++ [r] } := by
  rw [freeze, onLeg_of_leg leg, freeze_leg_eq]
  rfl

theorem thaw_of_frozen {x : FrozenBy} (leg : s.leg? r = some l) (frozen : l.frozen = some (x, k)) : thaw r s = joinUp r k
    { s with jobs := setLeg r (fun y => { y with frozen := none, darkTimer := none }) s.jobs
             frozenOrder := s.frozenOrder.filter (· ≠ r) } := by
  rw [thaw, onLeg_of_leg leg]
  simp only [frozen]
  rfl

theorem thaw_of_unfrozen (leg : s.leg? r = some l) (frozen : l.frozen = none) : thaw r s = s := by
  rw [thaw, onLeg_of_leg leg]
  simp only [frozen]

/-- Settles O46. -/
theorem joinQueuesOrFreezes : Obligations.JoinQueuesOrFreezes := by
  unfold Obligations.JoinQueuesOrFreezes
  intro r k l s leg a rest
  exact ⟨fun lit => joinUp_of_bright leg (ingressDark_eq_false_iff.mpr lit),
    fun g ingress dark => joinUp_of_dark leg (ingressDark_iff.mpr ⟨g, ingress, dark⟩), fun x => freeze_eq leg x k,
    fun x k frozen => thaw_of_frozen leg frozen, fun frozen => thaw_of_unfrozen leg frozen⟩

/-! ### Sorting by a key (R13, R117) -/

theorem insertBy_perm {α : Type} (lt : α → α → Bool) (a : α) (as : List α) : (insertBy lt a as).Perm (a :: as) := by
  induction as with
  | nil => exact .refl _
  | cons b bs ih =>
    unfold insertBy
    split
    · exact .refl _
    · exact (ih.cons b).trans (.swap ..)

theorem sortBy_perm {α : Type} (lt : α → α → Bool) (as : List α) : (sortBy lt as).Perm as := by
  induction as with
  | nil => exact .refl _
  | cons a as ih => exact (insertBy_perm lt a _).trans (ih.cons a)

/-- Insertion keeps a list in order where the order is total and transitive. -/
theorem insertBy_pairwise {α : Type} {lt : α → α → Bool} {R : α → α → Prop} (yes : ∀ a b, lt a b = true → R a b)
    (no : ∀ a b, lt a b = false → R b a) (compose : ∀ a b c, R a b → R b c → R a c) (a : α) {as : List α} (sorted : as.Pairwise R) :
    (insertBy lt a as).Pairwise R := by
  induction as with
  | nil => simp [insertBy]
  | cons b bs ih =>
    obtain ⟨first, rest⟩ := List.pairwise_cons.mp sorted
    unfold insertBy
    split
    · next before =>
      refine List.pairwise_cons.mpr ⟨fun x mem => ?_, sorted⟩
      rcases List.mem_cons.mp mem with rfl | later
      · exact yes a x before
      · exact compose a b x (yes a b before) (first x later)
    · next after =>
      refine List.pairwise_cons.mpr ⟨fun x mem => ?_, ih rest⟩
      rcases List.mem_cons.mp ((insertBy_perm lt a bs).mem_iff.mp mem) with rfl | later
      · exact no x b (Bool.eq_false_iff.mpr after)
      · exact first x later

theorem sortBy_pairwise {α : Type} {lt : α → α → Bool} {R : α → α → Prop} (yes : ∀ a b, lt a b = true → R a b)
    (no : ∀ a b, lt a b = false → R b a) (compose : ∀ a b c, R a b → R b c → R a c) (as : List α) : (sortBy lt as).Pairwise R := by
  induction as with
  | nil => exact .nil
  | cons a as ih => exact insertBy_pairwise yes no compose a ih

/-! ### The other legs of a degree (R13, R117) -/

/-- What R13 and R117 read of a member of a degree. -/
def Member.seen (m : Member) : JobId × Nat × Nat × Int := (m.leg.job, m.first, m.count, m.level)

/-- What `State.others` takes of one line leg. -/
def otherOf (d : Degree) (r : LegRef) (c : Context) (x : Dir × LineLeg) : Option (Context × Int) :=
  match x.2.level with
  | .num v => if x.2.egress = d ∧ (⟨c.id, x.1⟩ : LegRef) ≠ r then some (c, v) else none
  | .off => none

theorem others_eq (s : State) (d : Degree) (r : LegRef) : s.others d r = s.jobs.flatMap (fun c => c.lineLegs.filterMap (otherOf d r c)) := rfl

/-- The members of a degree but one leg are the other legs the obligations speak of. -/
theorem members_seen (s : State) (d : Degree) (r : LegRef) :
    ((s.members d).filter (fun m => m.leg ≠ r)).map Member.seen =
      (s.others d r).map (fun x => (x.1.id, x.1.first, x.1.count, x.2)) := by
  have each (c : Context) : ((c.lineLegs.filterMap (memberOf d c)).filter (fun m => m.leg ≠ r)).map Member.seen =
      (c.lineLegs.filterMap (otherOf d r c)).map (fun x => (x.1.id, x.1.first, x.1.count, x.2)) := by
    induction c.lineLegs with
    | nil => rfl
    | cons x xs ih =>
      by_cases here : x.2.egress = d
      · cases level : x.2.level with
        | off => simpa [memberOf, otherOf, here, level] using ih
        | num v => by_cases own : (⟨c.id, x.1⟩ : LegRef) = r <;> simp_all [memberOf, otherOf, Member.seen]
      · cases level : x.2.level <;> simpa [memberOf, otherOf, here, level] using ih
  rw [others_eq, State.members]
  induction s.jobs with
  | nil => rfl
  | cons c cs ih => rw [List.flatMap_cons, List.flatMap_cons, List.filter_append, List.map_append, List.map_append, each, ih]

/-! ### Scans and commands of a leg's step (R118 to R121, R142) -/

theorem askScan_eq (found : s.ctx? r.job = some c) (leg : s.leg? r = some l) {st : StepState} (step : l.step = some st) : askScan r s =
    { s with monitor := { s.monitor with queue := s.monitor.queue ++ [legScan r c l st] } } := by
  rw [askScan, onCtx_of_ctx found, onLeg_of_leg leg]
  simp only [step]
  rfl

/-- The map as a command of the kind leaves it: a LIGHT_ON step lights its egress run (R27). -/
def commandedMap (c : Context) (d : Degree) (kind : StepKind) (m : SpectrumMap) : SpectrumMap :=
  if kind = .lightOn then changedMap c [(d, .outgoing)] (lit c.id) m else m

theorem commandedMap_change (c : Context) (d : Degree) (kind : StepKind) (m : SpectrumMap) :
    if kind = .lightOn then RunsChange c.first c.count [(d, .outgoing)] (lit c.id) m (commandedMap c d kind m)
      else commandedMap c d kind m = m := by
  unfold commandedMap
  split
  · exact changedMap_runsChange (lit_lit c.id) c _ m
  · rfl

theorem actuate_eq (found : s.ctx? r.job = some c) (leg : s.leg? r = some l) {st : StepState} (step : l.step = some st) : actuate r s =
    { s with
      map := commandedMap c l.egress st.kind s.map
      actuators := s.actuators.set l.egress (s.actSent l.egress r c st.requested)
      jobs := setLeg r (LineLeg.mapStep (fun st => { st with stage := .actuate })) s.jobs } := by
  rw [actuate, onCtx_of_ctx found, onLeg_of_leg leg]
  simp only [step, commandedMap]
  split
  · rw [changeFor_light]
    rfl
  · rfl

theorem modLeg_found (f : LineLeg → LineLeg) (found : s.ctx? r.job = some c) : (modLeg r f s).ctx? r.job = some (c.mapLine r.dir f) :=
  ctx?_modCtx_same (mapLine_id r.dir f) found

theorem legScan_mapLine (r : LegRef) (c : Context) (dir : Dir) (f : LineLeg → LineLeg) (l : LineLeg) (st : StepState) :
    legScan r (c.mapLine dir f) l st = legScan r c l st := by cases dir <;> rfl

theorem commandedMap_mapLine (c : Context) (dir : Dir) (f : LineLeg → LineLeg) (d : Degree) (kind : StepKind) (m : SpectrumMap) :
    commandedMap (c.mapLine dir f) d kind m = commandedMap c d kind m := by cases dir <;> rfl

theorem actSent_mapLine (s : State) (d : Degree) (r : LegRef) (c : Context) (dir : Dir) (f : LineLeg → LineLeg) (q : Level) :
    s.actSent d r (c.mapLine dir f) q = s.actSent d r c q := by cases dir <;> rfl

theorem enterVerify_eq (found : s.ctx? r.job = some c) (leg : s.leg? r = some l) {st : StepState} (step : l.step = some st) : enterVerify r s =
    { s with
      monitor := { s.monitor with queue := s.monitor.queue ++ [legScan r c l st] }
      jobs := setLeg r (LineLeg.mapStep (fun st => { st with stage := .verify })) s.jobs } := by
  rw [enterVerify, askScan_eq (modLeg_found _ found) (leg?_modLeg_same leg) (st := { st with stage := .verify }) (by rw [LineLeg.mapStep, step]; rfl),
    legScan_mapLine]
  rfl

/-- A line leg changed, then entering VERIFY (R120, R121). -/
theorem enterVerify_modLeg (f : LineLeg → LineLeg) (found : s.ctx? r.job = some c) (leg : s.leg? r = some l) {st : StepState}
    (step : (f l).step = some st) : enterVerify r (modLeg r f s) =
    { s with
      monitor := { s.monitor with queue := s.monitor.queue ++ [legScan r c (f l) st] }
      jobs := setLeg r (fun x => LineLeg.mapStep (fun st => { st with stage := .verify }) (f x)) s.jobs } := by
  rw [enterVerify_eq (modLeg_found f found) (leg?_modLeg_same leg) step, legScan_mapLine, modLeg_jobs, setLeg_setLeg]
  rfl

/-- A line leg changed, then its step's command sent (R119, R142). -/
theorem actuate_modLeg (f : LineLeg → LineLeg) (found : s.ctx? r.job = some c) (leg : s.leg? r = some l) {st : StepState}
    (step : (f l).step = some st) : actuate r (modLeg r f s) =
    { s with
      map := commandedMap c (f l).egress st.kind s.map
      actuators := s.actuators.set (f l).egress (s.actSent (f l).egress r c st.requested)
      jobs := setLeg r (fun x => LineLeg.mapStep (fun st => { st with stage := .actuate }) (f x)) s.jobs } := by
  rw [actuate_eq (modLeg_found f found) (leg?_modLeg_same leg) step, commandedMap_mapLine, actSent_mapLine, modLeg_jobs, setLeg_setLeg]
  rfl

theorem askScan_modLeg (f : LineLeg → LineLeg) (found : s.ctx? r.job = some c) (leg : s.leg? r = some l) {st : StepState}
    (step : (f l).step = some st) : askScan r (modLeg r f s) =
    { s with monitor := { s.monitor with queue := s.monitor.queue ++ [legScan r c (f l) st] }, jobs := setLeg r f s.jobs } := by
  rw [askScan_eq (modLeg_found f found) (leg?_modLeg_same leg) step, legScan_mapLine]
  rfl

/-- The next down-step (R8, R127). -/
theorem startDown_eq (found : s.ctx? r.job = some c) (leg : s.leg? r = some l) :
    let q := downRequest l.level l.probe (s.deg l.egress)
    startDown r s = { s with
      actuators := s.actuators.set l.egress (s.actSent l.egress r c q)
      jobs := setLeg r (fun x => { x with
        state := .rampingDown, step := some ⟨.down, .down, .actuate, l.level, q, [], 0, 0, none, none, none, none, none⟩ }) s.jobs } := by
  intro q
  rw [startDown, onLeg_of_leg leg]
  dsimp only
  rw [actuate_modLeg _ found leg rfl]
  rfl

/-! ### A step of the UP class begins (R104, R116 to R119) -/

/-- The observed set of R117 before it is cut to its length: the other members within the window, nearest first. -/
def nearObserved (d : Degree) (r : LegRef) (first count : Nat) (s : State) : List Observed :=
  (sortBy (fun a b : Member => decide (sliceDistance first count a.first a.count < sliceDistance first count b.first b.count
      ∨ (sliceDistance first count a.first a.count = sliceDistance first count b.first b.count ∧ a.first < b.first)))
    ((s.members d).filter (fun m =>
      m.leg ≠ r && decide (sliceDistance first count m.first m.count ≤ (s.deg d).observationWindow)))).map
    (fun m => ⟨m.leg.job, m.first, m.count, none⟩)

theorem observedSet_eq (d : Degree) (r : LegRef) (first count : Nat) (s : State) :
    observedSet d r first count s = (nearObserved d r first count s).take 16 := by
  rw [observedSet, nearObserved, List.map_take]
  rfl

theorem nearObserved_perm (d : Degree) (r : LegRef) (first count : Nat) (s : State) : (nearObserved d r first count s).Perm
    (((s.others d r).filter (fun x => decide (sliceDistance first count x.1.first x.1.count ≤ (s.deg d).observationWindow))).map
      (fun x => ⟨x.1.id, x.1.first, x.1.count, none⟩)) := by
  refine ((sortBy_perm _ _).map _).trans (.of_eq ?_)
  have seen := congrArg (fun xs => (xs.filter (fun x : JobId × Nat × Nat × Int =>
    decide (sliceDistance first count x.2.1 x.2.2.1 ≤ (s.deg d).observationWindow))).map (fun x => (⟨x.1, x.2.1, x.2.2.1, none⟩ : Observed)))
    (members_seen s d r)
  simp only [List.filter_map, List.map_map, List.filter_filter] at seen
  refine Eq.trans (congrArg (List.map _) (List.filter_congr fun m _ => ?_)) seen
  by_cases own : m.leg = r
  · simp [own]
  · simp only [Function.comp_apply, ne_eq, own, not_false_eq_true, decide_true, Bool.true_and, Bool.and_true]
    exact decide_eq_decide.mpr Iff.rfl

theorem nearObserved_pairwise (d : Degree) (r : LegRef) (first count : Nat) (s : State) : (nearObserved d r first count s).Pairwise (fun a b =>
    sliceDistance first count a.first a.count < sliceDistance first count b.first b.count
      ∨ (sliceDistance first count a.first a.count = sliceDistance first count b.first b.count ∧ a.first ≤ b.first)) := by
  refine List.pairwise_map.mpr (sortBy_pairwise (fun a b before => ?_) (fun a b after => ?_) (fun a b c ab bc => ?_) _)
  · have := of_decide_eq_true before
    dsimp only
    omega
  · have := of_decide_eq_false after
    dsimp only
    omega
  · dsimp only at ab bc ⊢
    omega

/-- The leg as a step of the UP class begins with it (R48, R104). -/
def beganUp (kind : StepKind) (request : Int) (l : LineLeg) (observed : List Observed) (stage : Stage) (x : LineLeg) : LineLeg :=
  { x with
    state := .stepping
    step := some ⟨.up, kind, stage, l.level, .num request, observed, 0, 0, none, if kind = .recheck then some (.num request) else none,
      none, none, none⟩ }

theorem beginUp_eq (found : s.ctx? r.job = some c) (leg : s.leg? r = some l) (kind : StepKind) (request : Int) :
    let observed := (nearObserved l.egress r c.first c.count s).take 16
    let s1 := modLeg r (beganUp kind request l observed .baseline) s
    beginUp r kind request s = if observed.isEmpty then afterBaseline r kind s1 else askScan r s1 := by
  intro observed s1
  rw [beginUp, onCtx_of_ctx found, onLeg_of_leg leg]
  dsimp only
  rw [observedSet_eq]
  rfl

/-- Settles O49. -/
theorem grantedStepsBegin : Obligations.GrantedStepsBegin := by
  unfold Obligations.GrantedStepsBegin
  intro r c l s found at_dir inv d p plan t
  have leg := leg?_eq found at_dir
  refine ⟨_, nearObserved d r c.first c.count s, nearObserved_perm .., nearObserved_pairwise .., rfl, ?_⟩
  intro range asking stepping
  have begins := beginUp_eq found leg plan.1 plan.2
  dsimp only at begins
  refine ⟨fun some_seen => ?_, fun none_seen recheck => ?_, fun none_seen other => ?_⟩
  · have filled : ¬ ((nearObserved l.egress r c.first c.count s).take 16).isEmpty = true := by rwa [List.isEmpty_iff]
    rw [if_neg filled, askScan_modLeg _ found leg rfl] at begins
    exact begins
  · have empty : ((nearObserved l.egress r c.first c.count s).take 16).isEmpty = true := List.isEmpty_iff.mpr none_seen
    rw [if_pos empty, afterBaseline, if_pos recheck, enterVerify_modLeg _ found leg rfl] at begins
    exact begins
  · have empty : ((nearObserved l.egress r c.first c.count s).take 16).isEmpty = true := List.isEmpty_iff.mpr none_seen
    rw [if_pos empty, afterBaseline, if_neg other, actuate_modLeg _ found leg rfl] at begins
    exact ⟨_, commandedMap_change c d plan.1 s.map, begins⟩

end Sys2Proof.Machine
end

section
/-! PROOFS. The grant pass (R99, R101, R104 to R106): what an act's end does, in order, with its checks and parked legs. -/

namespace Sys2Proof.Machine

variable {s t u : State} {r q : LegRef} {l : LineLeg} {c : Context} {d e : Degree} {id : JobId}

/-! ### Legs of a context after a change of one -/

theorem lineLegs_mapLine (dir : Dir) (f : LineLeg → LineLeg) (c : Context) :
    (c.mapLine dir f).lineLegs = c.lineLegs.map (fun x => if x.1 = dir then (x.1, f x.2) else x) := by
  cases dir <;> cases fwd : c.fwd <;> rcases rev : c.rev with _ | _ | _ <;>
    simp [Context.lineLegs, Context.legs, Context.mapLine, Leg.mapLine, Leg.line?, fwd, rev]

theorem lineLegs_filterMap_mapLine {α : Type} {g : Dir × LineLeg → Option α} {f : LineLeg → LineLeg} (same : ∀ dir l, g (dir, f l) = g (dir, l))
    (dir : Dir) (c : Context) : (c.mapLine dir f).lineLegs.filterMap g = c.lineLegs.filterMap g := by
  rw [lineLegs_mapLine, List.filterMap_map]
  refine List.filterMap_congr fun x _ => ?_
  simp only [Function.comp_apply]
  split
  · exact same x.1 x.2
  · rfl

theorem memberOf_mapLine (d : Degree) (c : Context) (dir : Dir) (f : LineLeg → LineLeg) : memberOf d (c.mapLine dir f) = memberOf d c := by
  cases dir <;> rfl

theorem members_setLeg {f : LineLeg → LineLeg} (egress : ∀ l, (f l).egress = l.egress) (level : ∀ l, (f l).level = l.level) (r : LegRef)
    (jobs : t.jobs = setLeg r f s.jobs) (d : Degree) : t.members d = s.members d := by
  have seen (c : Context) : ∀ dir l, memberOf d c (dir, f l) = memberOf d c (dir, l) := fun dir l => by simp only [memberOf, egress, level]
  rw [State.members, State.members, jobs, setLeg, setJob, List.flatMap_map]
  congr 1
  funext b
  split
  · rw [memberOf_mapLine, lineLegs_filterMap_mapLine (seen b)]
  · rfl

theorem degreeTotal_of_members (same : t.members d = s.members d) (r : LegRef) (first : Nat) (q : Int) :
    degreeTotal d r first q t = degreeTotal d r first q s := by
  simp only [degreeTotal, same]

theorem leg?_setLeg {f : LineLeg → LineLeg} (leg : s.leg? r = some l) (jobs : t.jobs = setLeg r f s.jobs) : t.leg? r = some (f l) := by
  rw [leg?_of_jobs (s := modLeg r f s) jobs]
  exact leg?_modLeg_same leg

/-! ### Parked legs (R106) -/

/-- The contexts with the legs of the entries parked. -/
def parkLegs (timeout : Nat) (ps : List UpEntry) (jobs : List Context) : List Context :=
  ps.foldl (fun jobs e => setLeg e.leg (LineLeg.park timeout) jobs) jobs

/-- The state of a pass over degree `d` that has parked the entries `ps`, its last check recorded. -/
def Parked (d : Degree) (ps : List UpEntry) (check : Option HeadroomCheck) (s : State) : State :=
  { s with
    arbiters := s.arbiters.set d { s.arb d with
      up := (s.arb d).up.filter (fun x => ps.all (fun p => x.leg ≠ p.leg)), wait := (s.arb d).wait ++ ps, lastCheck := check }
    jobs := parkLegs (s.deg d).headroomTimeout ps s.jobs }

theorem parked_nil (d : Degree) (s : State) : Parked d [] (s.arb d).lastCheck s = s := by
  have all : (s.arb d).up.filter (fun x => ([] : List UpEntry).all (fun p => x.leg ≠ p.leg)) = (s.arb d).up := by simp
  rw [Parked, all, List.append_nil]
  show { s with arbiters := s.arbiters.set d (s.arbiters.get d) } = s
  rw [PerDegree.set_get]

theorem parked_arb (d : Degree) (ps : List UpEntry) (check : Option HeadroomCheck) (s : State) : (Parked d ps check s).arb d =
    { s.arb d with up := (s.arb d).up.filter (fun x => ps.all (fun p => x.leg ≠ p.leg)), wait := (s.arb d).wait ++ ps, lastCheck := check } := by
  simp [Parked, State.arb]

theorem parked_arb_other (other : e ≠ d) (ps : List UpEntry) (check : Option HeadroomCheck) (s : State) :
    (Parked d ps check s).arb e = s.arb e := by
  simp [Parked, State.arb, PerDegree.get_set_ne _ _ other]

theorem park_parked (d : Degree) (ps : List UpEntry) (check check' : Option HeadroomCheck) (x : UpEntry) (s : State) :
    park d x (modArb d (fun a => { a with lastCheck := check' }) (Parked d ps check s)) = Parked d (ps ++ [x]) check' s := by
  simp [Parked, park, modArb, modLeg, modCtx, parkLegs, setLeg, setJob, List.foldl_append, List.all_append, List.filter_filter, State.deg, Bool.and_comm]

theorem parkLegs_members (timeout : Nat) (ps : List UpEntry) (s : State) (d : Degree) (jobs : t.jobs = parkLegs timeout ps s.jobs) :
    t.members d = s.members d := by
  induction ps generalizing s with
  | nil => simp only [State.members, jobs]; rfl
  | cons p ps ih =>
    exact (ih { s with jobs := setLeg p.leg (LineLeg.park timeout) s.jobs } jobs).trans
      (members_setLeg (f := LineLeg.park timeout) (fun _ => rfl) (fun _ => rfl) p.leg rfl d)

theorem parked_members (d e : Degree) (ps : List UpEntry) (check : Option HeadroomCheck) (s : State) :
    (Parked d ps check s).members e = s.members e := parkLegs_members _ ps s e rfl

theorem parkLegs_leg? (timeout : Nat) (ps : List UpEntry) (s : State) (q : LegRef) (jobs : t.jobs = parkLegs timeout ps s.jobs) :
    t.leg? q = (s.leg? q).map (fun l => if ps.any (fun p => p.leg = q) then LineLeg.park timeout l else l) := by
  induction ps generalizing s with
  | nil => simp [leg?_of_jobs jobs]
  | cons p ps ih =>
    rw [ih (modLeg p.leg (LineLeg.park timeout) s) jobs, leg?_modLeg]
    by_cases here : q = p.leg
    · cases s.leg? q <;> simp [here, LineLeg.park]
    · have other : p.leg ≠ q := Ne.symm here
      simp [here, other]

theorem parked_leg? (d : Degree) (ps : List UpEntry) (check : Option HeadroomCheck) (s : State) (q : LegRef) : (Parked d ps check s).leg? q =
    (s.leg? q).map (fun l => if ps.any (fun p => p.leg = q) then LineLeg.park (s.deg d).headroomTimeout l else l) :=
  parkLegs_leg? _ ps s q rfl

theorem parkLegs_ctx? (timeout : Nat) (ps : List UpEntry) (s : State) (jobs : t.jobs = parkLegs timeout ps s.jobs) :
    (s.ctx? id = none → t.ctx? id = none) ∧ ∀ c, s.ctx? id = some c → ∃ b, t.ctx? id = some b ∧ b.outer = c.outer := by
  induction ps generalizing s with
  | nil => exact ⟨fun missing => ctx?_of_jobs jobs id ▸ missing, fun c found => ⟨c, ctx?_of_jobs jobs id ▸ found, rfl⟩⟩
  | cons p ps ih =>
    obtain ⟨none, some⟩ := ih (modLeg p.leg (LineLeg.park timeout) s) jobs
    refine ⟨fun missing => none ?_, fun c found => ?_⟩
    · rw [modLeg, ctx?_modCtx (mapLine_id _ _), missing]
      rfl
    · obtain ⟨b, found_b, outer_b⟩ := modLeg_ctx? p.leg (LineLeg.park timeout) found
      obtain ⟨a, found_a, outer_a⟩ := some b found_b
      exact ⟨a, found_a, outer_a.trans outer_b⟩

/-! ### The check of one entry (R105) -/

/-- What the headroom check of an entry finds in the state, where its leg is there. -/
def checkOf (d : Degree) (e : UpEntry) (s : State) : Option HeadroomCheck :=
  match s.leg? e.leg, s.ctx? e.leg.job with
  | some l, some c =>
    let q := (planStep l (s.deg d)).2
    let total := degreeTotal d e.leg c.first q s
    some ⟨e.leg, q, total, headroomLimit (s.deg d), decide (total ≤ headroomLimit (s.deg d)), s.time⟩
  | _, _ => none

theorem checkOf_eq {x : UpEntry} (leg : s.leg? x.leg = some l) (found : s.ctx? x.leg.job = some c) : checkOf d x s =
    some ⟨x.leg, (planStep l (s.deg d)).2, degreeTotal d x.leg c.first (planStep l (s.deg d)).2 s, headroomLimit (s.deg d),
      decide (degreeTotal d x.leg c.first (planStep l (s.deg d)).2 s ≤ headroomLimit (s.deg d)), s.time⟩ := by
  simp only [checkOf, leg, found]

theorem checkOf_none {x : UpEntry} (missing : s.leg? x.leg = none) : checkOf d x s = none := by
  simp only [checkOf, missing]

theorem checkOf_isSome {x : UpEntry} (leg : s.leg? x.leg ≠ none) : (checkOf d x s).isSome = true := by
  obtain ⟨l, found_l⟩ := Option.ne_none_iff_exists'.mp leg
  obtain ⟨c, found, -⟩ := ctx?_of_leg? found_l
  rw [checkOf_eq found_l found]
  rfl

theorem granted_iff_fits {x : UpEntry} {h : HeadroomCheck} (check : checkOf d x s = some h) : h.granted = true ↔ Fits s d x := by
  cases leg : s.leg? x.leg with
  | none => rw [checkOf_none leg] at check; cases check
  | some l =>
    obtain ⟨c, found, -⟩ := ctx?_of_leg? leg
    rw [checkOf_eq leg found, Option.some.injEq] at check
    subst check
    refine ⟨fun fits l' c' leg' found' => ?_, fun fits => decide_eq_true (fits l c leg found)⟩
    obtain rfl : l = l' := Option.some.inj (leg.symm.trans leg')
    obtain rfl : c = c' := Option.some.inj (found.symm.trans found')
    exact of_decide_eq_true fits

theorem planStep_park (timeout : Nat) (l : LineLeg) (p : DegreeParams) : planStep (LineLeg.park timeout l) p = planStep l p := rfl

/-- Parking changes no check. -/
theorem checkOf_parked (d : Degree) (ps : List UpEntry) (check : Option HeadroomCheck) (x : UpEntry) (s : State) :
    checkOf d x (Parked d ps check s) = checkOf d x s := by
  have at_leg := parked_leg? d ps check s x.leg
  cases leg : s.leg? x.leg with
  | none => rw [checkOf_none leg, checkOf_none (by rw [at_leg, leg]; rfl)]
  | some l =>
    obtain ⟨c, found, -⟩ := ctx?_of_leg? leg
    obtain ⟨b, found_b, outer⟩ := (parkLegs_ctx? (t := Parked d ps check s) _ ps s rfl).2 c found
    rw [leg, Option.map_some] at at_leg
    have first : b.first = c.first := show b.outer.first = c.outer.first from congrArg Context.first outer
    have plan : planStep (if ps.any (fun p => p.leg = x.leg) then LineLeg.park (s.deg d).headroomTimeout l else l) (s.deg d) = planStep l (s.deg d) := by
      split <;> rfl
    rw [checkOf_eq leg found, checkOf_eq at_leg found_b, first, show (Parked d ps check s).deg d = s.deg d from rfl, plan,
      degreeTotal_of_members (parked_members d d ps check s)]
    rfl

/-! ### The UP class considered (R104 step 4) -/

/-- The state in which the entry's step begins: it holds the token and has left the queue (R104). -/
def Granting (d : Degree) (x : UpEntry) (s : State) : State := modArb d (Arbiter.grantUp x.leg) s

theorem considerUp_skipped {x : UpEntry} {xs : List UpEntry} (skip : skipped (s.arb d) x = true) : considerUp d (x :: xs) s = considerUp d xs s := by
  have both : x.kind = .step ∧ (s.arb d).held = true := by simpa [skipped, and_comm] using skip
  rw [considerUp, if_pos both]

theorem considerUp_missing {x : UpEntry} {xs : List UpEntry} (missing : s.leg? x.leg = none) : considerUp d (x :: xs) s = considerUp d xs s := by
  rw [considerUp]
  split
  · rfl
  · simp only [missing]

/-- One entry that is there and not skipped: granted or parked by its check, which is recorded (R105, R106). -/
theorem considerUp_checked {x : UpEntry} {xs : List UpEntry} {h : HeadroomCheck} (turn : skipped (s.arb d) x = false)
    (check : checkOf d x s = some h) :
    let s1 := modArb d (fun a => { a with lastCheck := some h }) s
    (h.granted = true → ∃ l, s.leg? x.leg = some l ∧ considerUp d (x :: xs) s =
      beginUp x.leg (planStep l (s.deg d)).1 (planStep l (s.deg d)).2 (Granting d x s1))
    ∧ (h.granted = false → considerUp d (x :: xs) s = considerUp d xs (park d x s1)) := by
  intro s1
  have neither : ¬ (x.kind = .step ∧ (s.arb d).held = true) := by
    intro both
    simp [skipped, both.1, both.2] at turn
  cases leg : s.leg? x.leg with
  | none => rw [checkOf_none leg] at check; cases check
  | some l =>
    obtain ⟨c, found, -⟩ := ctx?_of_leg? leg
    rw [checkOf_eq leg found, Option.some.injEq] at check
    subst check
    have unfolded : considerUp d (x :: xs) s = if decide (degreeTotal d x.leg c.first (planStep l (s.deg d)).2 s ≤ headroomLimit (s.deg d)) = true then
        beginUp x.leg (planStep l (s.deg d)).1 (planStep l (s.deg d)).2 (Granting d x s1) else considerUp d xs (park d x s1) := by
      rw [considerUp, if_neg neither]
      simp only [leg, found]
      rfl
    refine ⟨fun granted => ⟨l, rfl, ?_⟩, fun refused => ?_⟩
    · rw [unfolded, if_pos granted]
    · rw [unfolded, if_neg (by rw [show decide _ = false from refused]; simp)]

theorem parked_check (d : Degree) (ps : List UpEntry) (check check' : Option HeadroomCheck) (s : State) :
    modArb d (fun a => { a with lastCheck := check' }) (Parked d ps check s) = Parked d ps check' s := by
  simp [Parked, modArb, State.arb]

theorem skipped_parked (d : Degree) (ps : List UpEntry) (check : Option HeadroomCheck) (s : State) (x : UpEntry) :
    skipped ((Parked d ps check s).arb d) x = skipped (s.arb d) x := by
  rw [parked_arb]
  rfl

/-- The entries of a list that are checked and refused, or granted: neither skipped nor without a leg. -/
def checkedIn (d : Degree) (xs : List UpEntry) (s : State) : List UpEntry :=
  xs.filter (fun x => !skipped (s.arb d) x && (checkOf d x s).isSome)

/-- The last check made of a list of entries, or the one recorded before. -/
def lastOf (d : Degree) (s : State) (check : Option HeadroomCheck) (xs : List UpEntry) : Option HeadroomCheck :=
  xs.foldl (fun _ x => checkOf d x s) check

/-- The entry is not granted: it is skipped, its leg is not there, or its check fails. -/
def PassedOver (d : Degree) (s : State) (x : UpEntry) : Prop :=
  skipped (s.arb d) x = true ∨ ∀ h, checkOf d x s = some h → h.granted = false

/-- What comes of considering the entries once `ps` are parked: none is granted, or the first granted one begins its step. -/
def PassOutcome (d : Degree) (es ps : List UpEntry) (check : Option HeadroomCheck) (s t : State) : Prop :=
  ((∀ x, x ∈ es → PassedOver d s x) ∧ t = Parked d (ps ++ checkedIn d es s) (lastOf d s check (checkedIn d es s)) s)
  ∨ ∃ pre x post h l, es = pre ++ x :: post ∧ (∀ y, y ∈ pre → PassedOver d s y) ∧ skipped (s.arb d) x = false
      ∧ checkOf d x s = some h ∧ h.granted = true ∧ s.leg? x.leg = some l
      ∧ t = beginUp x.leg (planStep l (s.deg d)).1 (planStep l (s.deg d)).2
          (Granting d x (Parked d (ps ++ checkedIn d pre s) (some h) s))

theorem considerUp_outcome (d : Degree) (es ps : List UpEntry) (check : Option HeadroomCheck) (s : State) :
    PassOutcome d es ps check s (considerUp d es (Parked d ps check s)) := by
  induction es generalizing ps check with
  | nil => exact .inl ⟨nofun, by simp [considerUp, checkedIn, lastOf]⟩
  | cons x es ih =>
    have leave (passed : PassedOver d s x) (unchecked : checkedIn d (x :: es) s = checkedIn d es s)
        (unchecked_pre : ∀ pre, checkedIn d (x :: pre) s = checkedIn d pre s)
        (same : considerUp d (x :: es) (Parked d ps check s) = considerUp d es (Parked d ps check s)) :
        PassOutcome d (x :: es) ps check s (considerUp d (x :: es) (Parked d ps check s)) := by
      rcases ih ps check with ⟨all, eq⟩ | ⟨pre, y, post, h, l, split, all, rest⟩
      · exact .inl ⟨by simpa using ⟨passed, all⟩, by rw [same, eq, unchecked]⟩
      · refine .inr ⟨x :: pre, y, post, h, l, by rw [split]; rfl, by simpa using ⟨passed, all⟩, ?_⟩
        rw [same, unchecked_pre]
        exact rest
    by_cases skip : skipped (s.arb d) x = true
    · refine leave (.inl skip) (by simp [checkedIn, skip]) (fun pre => by simp [checkedIn, skip]) (considerUp_skipped ?_)
      rwa [skipped_parked]
    have turn : skipped (s.arb d) x = false := by simpa using skip
    cases checked : checkOf d x s with
    | none =>
      have missing : s.leg? x.leg = none := by
        by_contra there
        have := checkOf_isSome (d := d) there
        simp [checked] at this
      refine leave (.inr fun h some => by rw [checked] at some; cases some) (by simp [checkedIn, checked]) (fun pre => by simp [checkedIn, checked])
        (considerUp_missing ?_)
      rw [parked_leg?, missing]
      rfl
    | some h =>
      obtain ⟨grants, refuses⟩ := considerUp_checked (xs := es) (s := Parked d ps check s) (by rwa [skipped_parked]) ((checkOf_parked ..).trans checked)
      cases granted : h.granted with
      | true =>
        obtain ⟨l', leg', eq⟩ := grants granted
        rw [parked_leg?] at leg'
        obtain ⟨l, leg, rfl⟩ := Option.map_eq_some_iff.mp leg'
        refine .inr ⟨[], x, es, h, l, rfl, nofun, turn, checked, granted, leg, ?_⟩
        rw [eq, parked_check, show checkedIn d [] s = [] from rfl, List.append_nil]
        split <;> rfl
      | false =>
        have passed : PassedOver d s x := .inr fun h' some => by
          rw [checked] at some
          cases some
          exact granted
        have here : ∀ pre, checkedIn d (x :: pre) s = x :: checkedIn d pre s := fun pre => by simp [checkedIn, turn, checked]
        have next := refuses granted
        rw [park_parked] at next
        rcases ih (ps ++ [x]) (some h) with ⟨all, eq⟩ | ⟨pre, y, post, h', l, split, all, turn_y, check_y, granted_y, leg_y, eq⟩
        · refine .inl ⟨by simpa using ⟨passed, all⟩, ?_⟩
          rw [next, eq, here, List.append_assoc, lastOf, lastOf, List.foldl_cons, checked]
          rfl
        · refine .inr ⟨x :: pre, y, post, h', l, by rw [split]; rfl, by simpa using ⟨passed, all⟩, turn_y, check_y, granted_y, leg_y, ?_⟩
          rw [next, eq, here, List.append_assoc]
          rfl

/-! ### What a step's beginning leaves alone -/

/-- Between the states only the leg of the reference, the map, the devices and the scan queue have changed. -/
structure OnlyLeg (r : LegRef) (s t : State) : Prop where
  arbiters : t.arbiters = s.arbiters
  legs     : ∀ q, q ≠ r → t.leg? q = s.leg? q

theorem OnlyLeg.refl : OnlyLeg r s s := ⟨rfl, fun _ _ => rfl⟩

theorem OnlyLeg.trans (h : OnlyLeg r s t) (g : OnlyLeg r t u) : OnlyLeg r s u :=
  ⟨g.arbiters.trans h.arbiters, fun q other => (g.legs q other).trans (h.legs q other)⟩

theorem OnlyLeg.quiet (arbiters : t.arbiters = s.arbiters := by rfl) (jobs : t.jobs = s.jobs := by rfl) : OnlyLeg r s t :=
  ⟨arbiters, fun q _ => leg?_of_jobs jobs q⟩

theorem OnlyLeg.modLeg (r : LegRef) (f : LineLeg → LineLeg) (s : State) : OnlyLeg r s (modLeg r f s) := ⟨rfl, fun _ other => leg?_modLeg_other other⟩

theorem OnlyLeg.onCtx {k : Context → State → State} (acts : ∀ c, OnlyLeg r s (k c s)) : OnlyLeg r s (onCtx id k s) := by
  unfold Machine.onCtx
  split
  · exact acts _
  · exact .refl

theorem OnlyLeg.onLeg {k : LineLeg → State → State} (acts : ∀ l, OnlyLeg r s (k l s)) : OnlyLeg r s (onLeg q k s) := by
  unfold Machine.onLeg
  split
  · exact acts _
  · exact .refl

theorem askScan_onlyLeg (r : LegRef) (s : State) : OnlyLeg r s (askScan r s) := by
  refine .onCtx fun c => .onLeg fun l => ?_
  split
  · exact .quiet
  · exact .refl

theorem actuate_onlyLeg (r : LegRef) (s : State) : OnlyLeg r s (actuate r s) := by
  refine .onCtx fun c => .onLeg fun l => ?_
  split
  · next st _ =>
    have sent : OnlyLeg r s (modLeg r (LineLeg.mapStep (fun st => { st with stage := .actuate }))
        (modAct l.egress (Actuator.command r c st.requested (s.deg l.egress).actuatorTimeout) s)) := (OnlyLeg.quiet).trans (OnlyLeg.modLeg ..)
    dsimp only
    split
    · exact sent.trans .quiet
    · exact sent
  · exact .refl

theorem afterBaseline_onlyLeg (r : LegRef) (k : StepKind) (s : State) : OnlyLeg r s (afterBaseline r k s) := by
  unfold afterBaseline
  split
  · exact (OnlyLeg.modLeg ..).trans (askScan_onlyLeg ..)
  · exact actuate_onlyLeg ..

theorem startDown_onlyLeg (r : LegRef) (s : State) : OnlyLeg r s (startDown r s) :=
  .onLeg fun _ => (OnlyLeg.modLeg ..).trans (actuate_onlyLeg ..)

theorem beginUp_onlyLeg (r : LegRef) (k : StepKind) (request : Int) (s : State) : OnlyLeg r s (beginUp r k request s) := by
  refine .onCtx fun c => .onLeg fun l => ?_
  dsimp only
  split
  · exact (OnlyLeg.modLeg ..).trans (afterBaseline_onlyLeg ..)
  · exact (OnlyLeg.modLeg ..).trans (askScan_onlyLeg ..)

/-- The leg a step of the UP class has begun for (R48, R104). -/
theorem beginUp_leg (leg : s.leg? r = some l) (kind : StepKind) (request : Int) : ∃ y st, (beginUp r kind request s).leg? r = some y
    ∧ y.state = .stepping ∧ y.step = some st ∧ st.cls = .up ∧ st.kind = kind ∧ st.requested = .num request := by
  obtain ⟨c, found, -⟩ := ctx?_of_leg? leg
  have begins := beginUp_eq found leg kind request
  dsimp only at begins
  split at begins
  · rw [afterBaseline] at begins
    split at begins
    · rw [enterVerify_modLeg _ found leg rfl] at begins
      rw [begins]
      exact ⟨_, _, leg?_setLeg leg rfl, rfl, rfl, rfl, rfl, rfl⟩
    · rw [actuate_modLeg _ found leg rfl] at begins
      rw [begins]
      exact ⟨_, _, leg?_setLeg leg rfl, rfl, rfl, rfl, rfl, rfl⟩
  · rw [askScan_modLeg _ found leg rfl] at begins
    rw [begins]
    exact ⟨_, _, leg?_setLeg leg rfl, rfl, rfl, rfl, rfl, rfl⟩

/-- The leg whose next down-step has begun, and the actuator commanded (R8, R127). -/
theorem startDown_after (found : s.ctx? r.job = some c) (leg : s.leg? r = some l) :
    let q := downRequest l.level l.probe (s.deg l.egress)
    (startDown r s).leg? r = some { l with
        state := .rampingDown, step := some ⟨.down, .down, .actuate, l.level, q, [], 0, 0, none, none, none, none, none⟩ }
      ∧ (startDown r s).act l.egress = s.actSent l.egress r c q := by
  intro q
  have starts := startDown_eq found leg
  exact ⟨leg?_setLeg leg (congrArg State.jobs starts), by rw [starts]; exact PerDegree.get_set_self ..⟩

/-! ### The grant pass of a degree (R101, R104) -/

theorem OnlyLeg.arb (h : OnlyLeg r s t) (e : Degree) : t.arb e = s.arb e := congrArg (·.get e) h.arbiters

theorem grantPass_of_token (taken : (s.arb d).token ≠ none) : grantPass d s = s := by
  simp only [grantPass, if_pos (Option.isSome_iff_ne_none.mpr taken)]

theorem grantPass_of_faulted (faulted : (s.act d).faulted = true) : grantPass d s = s := by
  simp only [grantPass, if_pos faulted, ite_self]

theorem grantPass_of_monitor (empty : (s.arb d).down = []) (fault : s.monitor.state = .fault) : grantPass d s = s := by
  simp only [grantPass, empty, if_pos fault, ite_self]

theorem grantPass_down {rest : List LegRef} (free : (s.arb d).token = none) (able : (s.act d).faulted = false) (first : (s.arb d).down = r :: rest) :
    grantPass d s = startDown r (modArb d (fun a => { a with token := some ⟨r, .down⟩, down := rest }) s) := by
  simp only [grantPass, free, able, first, Option.isSome_none, Bool.false_eq_true, if_false]

theorem grantPass_up (free : (s.arb d).token = none) (able : (s.act d).faulted = false) (empty : (s.arb d).down = [])
    (working : s.monitor.state ≠ .fault) : PassOutcome d (s.arb d).up [] (s.arb d).lastCheck s (grantPass d s) := by
  have considers := considerUp_outcome d (s.arb d).up [] (s.arb d).lastCheck s
  rw [parked_nil] at considers
  simpa only [grantPass, free, able, empty, if_neg working, Option.isSome_none, Bool.false_eq_true, if_false] using considers

/-- The arbiter of a pass that grants a step of the UP class (R104). -/
theorem granting_arb (d : Degree) (x : UpEntry) (ps : List UpEntry) (h : HeadroomCheck) (s : State) :
    (Granting d x (Parked d ps (some h) s)).arb d = { s.arb d with
      token := some ⟨x.leg, .up⟩
      up := ((s.arb d).up.filter (fun y => ps.all (fun p => y.leg ≠ p.leg))).filter (fun y => y.leg ≠ x.leg)
      wait := (s.arb d).wait ++ ps, lastCheck := some h } := by
  simp only [Granting, modArb_arb, parked_arb, Arbiter.grantUp, if_true]

theorem granting_arb_other (other : e ≠ d) (x : UpEntry) (ps : List UpEntry) (check : Option HeadroomCheck) (s : State) :
    (Granting d x (Parked d ps check s)).arb e = s.arb e := by
  rw [Granting, modArb_arb, if_neg other, parked_arb_other other]

theorem passOutcome_arb_other (other : e ≠ d) {es : List UpEntry} {check : Option HeadroomCheck} (outcome : PassOutcome d es [] check s t) :
    t.arb e = s.arb e := by
  rcases outcome with ⟨-, rfl⟩ | ⟨pre, x, post, h, l, -, -, -, -, -, -, rfl⟩
  · exact parked_arb_other other ..
  · rw [(beginUp_onlyLeg ..).arb, granting_arb_other other]

theorem grantPass_arb_other (other : e ≠ d) (s : State) : (grantPass d s).arb e = s.arb e := by
  by_cases free : (s.arb d).token = none
  case neg => rw [grantPass_of_token free]
  cases able : (s.act d).faulted with
  | true => rw [grantPass_of_faulted able]
  | false =>
    cases down : (s.arb d).down with
    | cons r rest => rw [grantPass_down free able down, (startDown_onlyLeg ..).arb, modArb_arb, if_neg other]
    | nil =>
      by_cases fault : s.monitor.state = .fault
      · rw [grantPass_of_monitor down fault]
      · exact passOutcome_arb_other other (grantPass_up free able down fault)

/-! ### The entries a pass parks, with different legs (R106) -/

theorem split_unique {α : Type} {P : α → Prop} {pre pre' post post' : List α} {x x' : α} (same : pre ++ x :: post = pre' ++ x' :: post')
    (before : ∀ y, y ∈ pre → P y) (here : ¬ P x) (before' : ∀ y, y ∈ pre' → P y) (here' : ¬ P x') : pre = pre' ∧ x = x' ∧ post = post' := by
  induction pre generalizing pre' with
  | nil =>
    cases pre' with
    | nil => simpa using same
    | cons y ys =>
      obtain ⟨rfl, -⟩ := by simpa using same
      exact absurd (before' x (by simp)) here
  | cons y ys ih =>
    cases pre' with
    | nil =>
      obtain ⟨rfl, -⟩ := by simpa using same
      exact absurd (before y (by simp)) here'
    | cons z zs =>
      obtain ⟨rfl, rest⟩ : y = z ∧ ys ++ x :: post = zs ++ x' :: post' := by simpa using same
      obtain ⟨rfl, both⟩ := ih rest (fun w mem => before w (by simp [mem])) (fun w mem => before' w (by simp [mem]))
      exact ⟨rfl, both⟩

theorem checkedIn_of_legs {xs : List UpEntry} (there : ∀ x, x ∈ xs → s.leg? x.leg ≠ none) :
    checkedIn d xs s = xs.filter (fun x => !skipped (s.arb d) x) := by
  refine List.filter_congr fun x mem => ?_
  rw [checkOf_isSome (there x mem), Bool.and_true]

/-- Taking out the legs of the entries of a list leaves the others, where the legs are all different. -/
theorem filter_away {xs : List UpEntry} (distinct : (xs.map (·.leg)).Nodup) (p : UpEntry → Bool) :
    xs.filter (fun x => (xs.filter p).all (fun y => x.leg ≠ y.leg)) = xs.filter (fun x => !p x) := by
  refine List.filter_congr fun x mem => ?_
  rw [Bool.eq_iff_iff]
  simp only [List.all_eq_true, List.mem_filter, decide_eq_true_eq, Bool.not_eq_true', and_imp]
  refine ⟨fun away => ?_, fun kept y mem_y taken same => ?_⟩
  · by_contra taken
    exact away x mem (by simpa using taken) rfl
  · rw [List.inj_on_of_nodup_map distinct mem mem_y same, taken] at kept
    cases kept

theorem filter_away_of_disjoint {xs ps : List UpEntry} (disjoint : ∀ x, x ∈ xs → ∀ p, p ∈ ps → x.leg ≠ p.leg) :
    xs.filter (fun x => ps.all (fun y => x.leg ≠ y.leg)) = xs := by
  rw [List.filter_eq_self]
  intro x mem
  simpa using disjoint x mem

/-- What is left of the UP class when one entry is granted and those before it that were checked are parked. -/
theorem granted_up {pre post : List UpEntry} {x : UpEntry} (distinct : ((pre ++ x :: post).map (·.leg)).Nodup) (p : UpEntry → Bool) :
    ((pre ++ x :: post).filter (fun y => (pre.filter p).all (fun z => y.leg ≠ z.leg))).filter (fun y => y.leg ≠ x.leg)
      = pre.filter (fun y => !p y) ++ post := by
  rw [List.map_append, List.map_cons, List.nodup_append] at distinct
  obtain ⟨pre_distinct, rest_distinct, apart⟩ := distinct
  obtain ⟨x_post, -⟩ := List.nodup_cons.mp rest_distinct
  have pre_x : ∀ y, y ∈ pre → y.leg ≠ x.leg := fun y mem => apart y.leg (List.mem_map_of_mem mem) x.leg (by simp)
  have pre_post : ∀ y, y ∈ pre → ∀ z, z ∈ post → y.leg ≠ z.leg := fun y mem z mem' =>
    apart y.leg (List.mem_map_of_mem mem) z.leg (List.mem_cons_of_mem _ (List.mem_map_of_mem mem'))
  have post_x : ∀ y, y ∈ post → y.leg ≠ x.leg := fun y mem same => x_post (same ▸ List.mem_map_of_mem mem)
  have pre_kept : (pre.filter (fun y => !p y)).filter (fun y => y.leg ≠ x.leg) = pre.filter (fun y => !p y) := by
    rw [List.filter_eq_self]
    exact fun y mem => by simpa using pre_x y (List.mem_of_mem_filter mem)
  have rest_kept : (x :: post).filter (fun y => (pre.filter p).all (fun z => y.leg ≠ z.leg)) = x :: post := by
    refine filter_away_of_disjoint fun y mem z mem' => ?_
    have before := List.mem_of_mem_filter mem'
    rcases List.mem_cons.mp mem with rfl | mem
    · exact (pre_x z before).symm
    · exact (pre_post z before y mem).symm
  have post_kept : post.filter (fun y => y.leg ≠ x.leg) = post := by
    rw [List.filter_eq_self]
    exact fun y mem => by simpa using post_x y mem
  rw [List.filter_append, filter_away pre_distinct, rest_kept, List.filter_append, pre_kept, List.filter_cons_of_neg (by simp), post_kept]

/-- Every entry parked is recorded as its leg's wait (R106). -/
theorem parked_waits {ps : List UpEntry} {check : Option HeadroomCheck} {x : UpEntry} {y : LineLeg} (mem : x ∈ ps) (leg : s.leg? x.leg = some y) :
    (Parked d ps check s).leg? x.leg = some (LineLeg.park (s.deg d).headroomTimeout y) := by
  have waiting : ps.any (fun p => p.leg = x.leg) = true := List.any_eq_true.mpr ⟨x, mem, by simp⟩
  rw [parked_leg?, leg, Option.map_some, if_pos waiting]

theorem lastOf_getLast {xs : List UpEntry} {x : UpEntry} {check : Option HeadroomCheck} (last : xs.getLast? = some x) :
    lastOf d s check xs = checkOf d x s := by
  obtain ⟨ys, rfl⟩ := List.getLast?_eq_some_iff.mp last
  simp [lastOf]

/-- An entry that is there is passed over exactly where it is skipped or its check fails. -/
theorem passedOver_iff {x : UpEntry} (there : s.leg? x.leg ≠ none) : PassedOver d s x ↔ skipped (s.arb d) x = true ∨ ¬ Fits s d x := by
  obtain ⟨h, check⟩ := Option.isSome_iff_exists.mp (checkOf_isSome (d := d) there)
  refine or_congr Iff.rfl ?_
  rw [← granted_iff_fits check, check]
  simp

/-! ### The clauses of a pass of the UP class (R104 to R106) -/

theorem not_passedOver {x : UpEntry} {h : HeadroomCheck} (turn : skipped (s.arb d) x = false) (check : checkOf d x s = some h)
    (granted : h.granted = true) : ¬ PassedOver d s x := by
  rintro (skip | refused)
  · rw [turn] at skip
    cases skip
  · rw [refused h check] at granted
    cases granted

/-- What the token of a pass of the UP class stands for: the entry granted, its check made on the degree total, and no entry left of its
leg (R105). -/
theorem passOutcome_granted {es : List UpEntry} {k : Token} {check : Option HeadroomCheck} (free : (s.arb d).token = none)
    (outcome : PassOutcome d es [] check s t) (token : (t.arb d).token = some k) :
    k.cls = .up ∧ ∃ e h l c, e ∈ es ∧ e.leg = k.leg ∧ ((s.arb d).held = true → e.kind = .retry) ∧ s.leg? e.leg = some l
      ∧ s.ctx? e.leg.job = some c ∧ (t.arb d).lastCheck = some h ∧ h.leg = e.leg ∧ h.requested = (planStep l (s.deg d)).2
      ∧ h.total = degreeTotal d e.leg c.first h.requested s ∧ h.limit = (s.deg d).outputCeiling - (s.deg d).guardBand
      ∧ h.granted = true ∧ h.total ≤ h.limit ∧ h.time = s.time ∧ ∀ x, x ∈ (t.arb d).up → x.leg ≠ e.leg := by
  rcases outcome with ⟨-, rfl⟩ | ⟨pre, x, post, h, l, rfl, -, turn, check, granted, leg, rfl⟩
  · rw [parked_arb, free] at token
    cases token
  rw [(beginUp_onlyLeg ..).arb, granting_arb] at token ⊢
  obtain rfl := Option.some.inj token
  obtain ⟨c, found, -⟩ := ctx?_of_leg? leg
  rw [checkOf_eq leg found, Option.some.injEq] at check
  subst check
  refine ⟨rfl, x, _, l, c, by simp, rfl, fun holding => ?_, leg, found, rfl, rfl, rfl, rfl, rfl, granted, of_decide_eq_true granted, rfl,
    fun y mem => by simpa using (List.mem_filter.mp mem).2⟩
  cases kind : x.kind with
  | retry => rfl
  | step => simp [skipped, holding, kind] at turn

/-- Where a pass grants nothing, every entry with a leg is skipped or waits (R106). -/
theorem passOutcome_waits {es : List UpEntry} {check : Option HeadroomCheck} (outcome : PassOutcome d es [] check s t)
    (token : (t.arb d).token = none) {e : UpEntry} (mem : e ∈ es) (there : s.leg? e.leg ≠ none) :
    ((s.arb d).held = true ∧ e.kind = .step) ∨ e ∈ (t.arb d).wait := by
  rcases outcome with ⟨-, rfl⟩ | ⟨pre, x, post, h, l, -, -, -, -, -, -, rfl⟩
  · cases skip : skipped (s.arb d) e with
    | true => exact .inl (by simpa [skipped] using skip)
    | false =>
      have checked : e ∈ checkedIn d es s := List.mem_filter.mpr ⟨mem, by simp [skip, checkOf_isSome there]⟩
      rw [parked_arb]
      exact .inr (by simp [checked])
  · rw [(beginUp_onlyLeg ..).arb, granting_arb] at token
    cases token

/-- The pass where an entry is the first that is not skipped and fits. -/
theorem passOutcome_first {check : Option HeadroomCheck} {pre post : List UpEntry} {e : UpEntry} (split : (s.arb d).up = pre ++ e :: post)
    (distinct : ((s.arb d).up.map (·.leg)).Nodup) (there : ∀ e, e ∈ (s.arb d).up → s.leg? e.leg ≠ none)
    (passes : ∀ x, x ∈ pre → skipped (s.arb d) x = true ∨ ¬ Fits s d x) (turn : skipped (s.arb d) e = false) (fits : Fits s d e)
    (outcome : PassOutcome d (s.arb d).up [] check s t) :
    (t.arb d).token = some ⟨e.leg, .up⟩ ∧ (t.arb d).up = pre.filter (skipped (s.arb d)) ++ post
      ∧ (t.arb d).wait = (s.arb d).wait ++ pre.filter (fun x => !skipped (s.arb d) x)
      ∧ (∀ x, x ∈ pre.filter (fun x => !skipped (s.arb d) x) → ∀ y, s.leg? x.leg = some y →
          t.leg? x.leg = some (LineLeg.park (s.deg d).headroomTimeout y))
      ∧ ∀ l, s.leg? e.leg = some l → ∃ y st, t.leg? e.leg = some y ∧ y.state = .stepping ∧ y.step = some st
          ∧ st.cls = .up ∧ st.kind = (planStep l (s.deg d)).1 ∧ st.requested = .num (planStep l (s.deg d)).2 := by
  have there_pre : ∀ x, x ∈ pre → s.leg? x.leg ≠ none := fun x mem => there x (by rw [split]; simp [mem])
  have there_e : s.leg? e.leg ≠ none := there e (by rw [split]; simp)
  have chosen : ¬ PassedOver d s e := by
    rw [passedOver_iff there_e, turn]
    simpa using fits
  rcases outcome with ⟨all, -⟩ | ⟨pre', x, post', h, l, split', all, turn', check', granted, leg, rfl⟩
  · exact absurd (all e (by rw [split]; simp)) chosen
  obtain ⟨rfl, rfl, rfl⟩ := split_unique (split.symm.trans split') (fun y mem => (passedOver_iff (there_pre y mem)).mpr (passes y mem)) chosen
    all (not_passedOver turn' check' granted)
  rw [(beginUp_onlyLeg ..).arb, granting_arb, List.nil_append, checkedIn_of_legs there_pre]
  refine ⟨rfl, ?_, rfl, fun x mem y leg_x => ?_, fun l' leg' => ?_⟩
  · dsimp only
    rw [split] at distinct ⊢
    rw [granted_up distinct (fun x => !skipped (s.arb d) x)]
    simp
  · have other : x.leg ≠ e.leg := by
      rw [split, List.map_append, List.map_cons, List.nodup_append] at distinct
      exact distinct.2.2 x.leg (List.mem_map_of_mem (List.mem_of_mem_filter mem)) e.leg (by simp)
    rw [(beginUp_onlyLeg ..).legs _ other, Granting, leg?_of_jobs (modArb_jobs ..)]
    exact parked_waits mem leg_x
  · obtain rfl : l = l' := Option.some.inj (leg.symm.trans leg')
    have at_leg : (Granting d e (Parked d (pre.filter (fun x => !skipped (s.arb d) x)) (some h) s)).leg? e.leg ≠ none := by
      rw [Granting, leg?_of_jobs (modArb_jobs ..), parked_leg?, leg]
      simp
    obtain ⟨l'', leg''⟩ := Option.ne_none_iff_exists'.mp at_leg
    exact beginUp_leg leg'' ..

/-- The pass where no entry is granted (R106). -/
theorem passOutcome_none {check : Option HeadroomCheck} (free : (s.arb d).token = none) (distinct : ((s.arb d).up.map (·.leg)).Nodup)
    (there : ∀ e, e ∈ (s.arb d).up → s.leg? e.leg ≠ none) (passes : ∀ x, x ∈ (s.arb d).up → skipped (s.arb d) x = true ∨ ¬ Fits s d x)
    (outcome : PassOutcome d (s.arb d).up [] check s t) :
    let parked := (s.arb d).up.filter (fun x => !skipped (s.arb d) x)
    (t.arb d).token = none ∧ (t.arb d).up = (s.arb d).up.filter (skipped (s.arb d)) ∧ (t.arb d).wait = (s.arb d).wait ++ parked
      ∧ (∀ x, x ∈ parked → ∀ y, s.leg? x.leg = some y → t.leg? x.leg = some (LineLeg.park (s.deg d).headroomTimeout y))
      ∧ (parked = [] → (t.arb d).lastCheck = check)
      ∧ ∀ e l c, parked.getLast? = some e → s.leg? e.leg = some l → s.ctx? e.leg.job = some c → (t.arb d).lastCheck = some
          ⟨e.leg, (planStep l (s.deg d)).2, degreeTotal d e.leg c.first (planStep l (s.deg d)).2 s,
            (s.deg d).outputCeiling - (s.deg d).guardBand, false, s.time⟩ := by
  intro parked
  rcases outcome with ⟨-, rfl⟩ | ⟨pre, x, post, h, l, split, -, turn, check', granted, leg, -⟩
  case inr =>
    have mem : x ∈ (s.arb d).up := by rw [split]; simp
    exact absurd ((passedOver_iff (there x mem)).mpr (passes x mem)) (not_passedOver turn check' granted)
  rw [List.nil_append, checkedIn_of_legs there, parked_arb]
  refine ⟨free, ?_, rfl, fun x mem y leg_x => parked_waits mem leg_x, fun none => ?_, fun e l c last leg found => ?_⟩
  · dsimp only
    rw [filter_away distinct]
    simp
  · show lastOf d s check parked = check
    rw [none]
    rfl
  · have mem := List.mem_filter.mp (List.mem_of_getLast? last)
    have refused : ¬ Fits s d e := (passes e mem.1).resolve_left (by simpa using mem.2)
    have check := checkOf_eq (d := d) leg found
    show lastOf d s _ parked = _
    rw [lastOf_getLast last, check, decide_eq_false fun le => refused ((granted_iff_fits check).mp (decide_eq_true le))]
    rfl

/-! ### The degree total (R13) -/

theorem degreeTotal_folds (d : Degree) (r : LegRef) (first : Nat) (q : Int) (s : State) : ∃ folded : List (Nat × Int),
    folded.Perm ((first, q) :: (s.others d r).map (fun x => (x.1.first, x.2)))
      ∧ folded.Pairwise (fun a b => a.1 ≤ b.1) ∧ degreeTotal d r first q s = foldLevels (folded.map (·.2)) := by
  have seen : ((s.members d).filter (fun m => m.leg ≠ r)).map (fun m => (m.first, m.level)) = (s.others d r).map (fun x => (x.1.first, x.2)) := by
    have pairs := congrArg (List.map (fun x : JobId × Nat × Nat × Int => (x.2.1, x.2.2.2))) (members_seen s d r)
    rw [List.map_map, List.map_map] at pairs
    exact pairs
  refine ⟨_, sortBy_perm (fun a b => decide (a.1 < b.1)) _, ?_, ?_⟩
  · exact sortBy_pairwise (R := fun a b : Nat × Int => a.1 ≤ b.1) (fun a b less => le_of_lt (of_decide_eq_true less)) (fun a b not => not_lt.mp (of_decide_eq_false not))
      (fun (a b c : Nat × Int) => le_trans) _
  · rw [degreeTotal, seen]

/-- Settles O48. -/
theorem actsEndInGrantPassesAndAScan : Obligations.ActsEndInGrantPassesAndAScan := by
  unfold Obligations.ActsEndInGrantPassesAndAScan
  refine ⟨fun s => ⟨rfl, fun d => rfl, ?_, fun q rest idle able first => ?_⟩, fun d s => ?_, degreeTotal_folds⟩
  · rintro (flying | fault | empty)
    · exact issueNext_of_flight flying
    · simp [issueNext, fault]
    · simp [issueNext, empty]
  · rw [issueNext_of_queued idle able first]
    unfold markIssued
    cases q.requester <;> rfl
  · intro t p
    refine ⟨grantPass_of_token, grantPass_of_faulted, fun r rest free able first => ?_, grantPass_of_monitor, fun free able empty working => ?_,
      fun e other => grantPass_arb_other other s⟩
    · have begins : t = startDown r (modArb d (fun a => { a with token := some ⟨r, .down⟩, down := rest }) s) := grantPass_down free able first
      rw [begins, (startDown_onlyLeg ..).arb, modArb_arb_self]
      exact ⟨rfl, fun c l found at_dir => startDown_after (s := modArb d _ s) found (leg?_eq found at_dir)⟩
    · have outcome : PassOutcome d (s.arb d).up [] (s.arb d).lastCheck s t := grantPass_up free able empty working
      refine ⟨fun k => passOutcome_granted free outcome, fun token e mem there => passOutcome_waits outcome token mem there, fun distinct there => ?_⟩
      intro passes parked waits
      exact ⟨fun pre e post split passed turn fits => passOutcome_first split distinct there passed turn fits outcome,
        fun passed => passOutcome_none free distinct there passed outcome⟩

end Sys2Proof.Machine
end

section
/-! PROOFS. The leg timers (R50, R120, R121, R125, R127) and the end of a job's legs (R30, R89, R94, R95). -/

namespace Sys2Proof.Machine

variable {s t u : State} {r : LegRef} {dir : Dir} {l : LineLeg} {c : Context} {k : RequestKind} {d : Degree} {id : JobId}

/-! ### A step's end, back-off, the next down-step -/

theorem endStep_egress (v : Verdict) (l : LineLeg) : (LineLeg.endStep v l).egress = l.egress := by
  unfold LineLeg.endStep
  split <;> rfl

theorem endStep_level (v : Verdict) (l : LineLeg) : (LineLeg.endStep v l).level = l.level := by
  unfold LineLeg.endStep
  split <;> rfl

theorem endStep_probe (v : Verdict) (l : LineLeg) : (LineLeg.endStep v l).probe = l.probe := by
  unfold LineLeg.endStep
  split <;> rfl

theorem modLeg_modLeg (r : LegRef) (f g : LineLeg → LineLeg) (s : State) : modLeg r f (modLeg r g s) = modLeg r (fun x => f (g x)) s := by
  show { s with jobs := setLeg r f (setLeg r g s.jobs) } = { s with jobs := setLeg r (fun x => f (g x)) s.jobs }
  rw [setLeg_setLeg]

theorem rehold_of_joined (holdAll : Bool) (r : LegRef) (a : Arbiter) :
    Arbiter.rehold holdAll (Arbiter.releaseToken r { a with backoff := a.backoff ++ [r] })
      = { Arbiter.releaseToken r a with backoff := a.backoff ++ [r], held := holdAll } := by
  simp [Arbiter.rehold, Arbiter.releaseToken]

/-- A leg enters BACKOFF (R108, R125). -/
theorem enterBackoff_eq (leg : s.leg? r = some l) : enterBackoff r s =
    { s with
      arbiters := s.arbiters.set l.egress
        { s.arbFree l.egress r with backoff := (s.arb l.egress).backoff ++ [r], held := (s.deg l.egress).holdAll }
      jobs := setLeg r (fun x => { x with state := .backoff, retry := some (s.deg l.egress).retryInterval }) s.jobs } := by
  rw [enterBackoff, onLeg_of_leg leg]
  dsimp only
  simp only [rehold_of_joined]
  rfl

theorem downRequest_num (v probe : Int) (p : DegreeParams) :
    downRequest (.num v) probe p = if probe < v then .num (max (v - p.stepSize) probe) else .off := rfl

/-! ### The settle timer (R120, R125, R127) -/

/-- The line leg whose step has ended without a verdict at its settle timer's expiry. -/
def LineLeg.settled (l : LineLeg) : LineLeg := LineLeg.endStep .none { l with settle := none }

theorem settled_egress (l : LineLeg) : l.settled.egress = l.egress := endStep_egress ..
theorem settled_level (l : LineLeg) : l.settled.level = l.level := endStep_level ..
theorem settled_probe (l : LineLeg) : l.settled.probe = l.probe := endStep_probe ..
theorem settled_fixed (l : LineLeg) : l.settled.fixed = l.fixed := endStep_fixed ..

theorem settled_fixed_leg (l : LineLeg) : (Leg.line l.settled).fixed = (Leg.line l).fixed := by
  simp only [Leg.fixed, settled_fixed]

theorem settled_edits {g : Nat} (r : LegRef) (s : State) : Edits g s (modLeg r LineLeg.settled s) :=
  .leg .none settled_fixed fun l bounded => (({ l with settle := none } : LineLeg).endStep_keeps .none).2 bounded

theorem exec_settle (leg : s.leg? ⟨id, dir⟩ = some l) (out : l.settle = some 0) :
    exec (.settleTimerExpiry id dir) s = .next (settleAct (legSettled ⟨id, dir⟩ s)) := by
  show Host.Outcome.next (onLeg _ (settleExpiry ⟨id, dir⟩) s) = _
  rw [onLeg_of_leg leg, settleExpiry, if_pos ((ranOut_iff _).mpr out)]

section
variable {st : StepState} (leg : s.leg? r = some l) (step : l.step = some st) (running : l.settle = some 0)
include leg step running

theorem legSettled_verify (kind : st.kind = .lightOn ∨ st.kind = .up) :
    legSettled r s = enterVerify r (modLeg r (fun l => { l with settle := none }) s) := by
  rw [legSettled, onLeg_of_leg leg]
  rcases kind with kind | kind <;> simp only [step, running, kind]

theorem legSettled_backoff (kind : st.kind = .backoff) : legSettled r s = enterBackoff r (modLeg r LineLeg.settled s) := by
  rw [legSettled, onLeg_of_leg leg]
  simp only [step, running, kind, endStep, modLeg_modLeg]
  rfl

theorem legSettled_off (kind : st.kind = .down) (level : l.level = .off) : legSettled r s = reachOff r (modLeg r LineLeg.settled s) := by
  rw [legSettled, onLeg_of_leg leg]
  simp only [step, running, kind, if_pos level, endStep, modLeg_modLeg]
  rfl

theorem legSettled_down (kind : st.kind = .down) {v : Int} (level : l.level = .num v) :
    legSettled r s = startDown r (modLeg r LineLeg.settled s) := by
  have lit : ¬ l.level = .off := by rw [level]; nofun
  rw [legSettled, onLeg_of_leg leg]
  simp only [step, running, kind, if_neg lit, endStep, modLeg_modLeg]
  rfl
end

/-- The next down-step of a leg that has changed (R8, R127). -/
theorem startDown_modLeg (f : LineLeg → LineLeg) (found : s.ctx? r.job = some c) (leg : s.leg? r = some l) :
    let q := downRequest (f l).level (f l).probe (s.deg (f l).egress)
    startDown r (modLeg r f s) = { s with
      actuators := s.actuators.set (f l).egress (s.actSent (f l).egress r c q)
      jobs := setLeg r (fun x => { f x with
        state := .rampingDown, step := some ⟨.down, .down, .actuate, (f l).level, q, [], 0, 0, none, none, none, none, none⟩ }) s.jobs } := by
  intro q
  rw [startDown_eq (modLeg_found f found) (leg?_modLeg_same leg), actSent_mapLine, modLeg_jobs, setLeg_setLeg]
  rfl

/-! ### Out of the arbiters -/

/-- No arbiter's DOWN or UP class names the leg. -/
def Absent (r : LegRef) (s : State) : Prop := ∀ e, r ∉ (s.arb e).down ∧ ∀ x, x ∈ (s.arb e).up → x.leg ≠ r

theorem Absent.of_arbiters (h : Absent r s) (arbiters : t.arbiters = s.arbiters) : Absent r t := fun e => by
  rw [show t.arb e = s.arb e from congrArg (·.get e) arbiters]
  exact h e

/-- A pass that neither lowers nor considers the leg leaves it as it is. -/
def Rests (r : LegRef) (s t : State) : Prop := t.leg? r = s.leg? r ∧ Absent r t

theorem OnlyLeg.rests {q : LegRef} (h : OnlyLeg q s t) (other : r ≠ q) (absent : Absent r s) : Rests r s t :=
  ⟨h.legs r other, absent.of_arbiters h.arbiters⟩

theorem Rests.trans (h : Rests r s t) (g : Rests r t u) : Rests r s u := ⟨g.1.trans h.1, g.2⟩

theorem modArb_rests {f : Arbiter → Arbiter} (absent : Absent r s) (down : (f (s.arb d)).down ⊆ (s.arb d).down)
    (up : (f (s.arb d)).up ⊆ (s.arb d).up) : Rests r s (modArb d f s) := by
  refine ⟨leg?_of_jobs (modArb_jobs ..) r, fun e => ?_⟩
  rw [modArb_arb]
  split
  · exact ⟨fun mem => (absent d).1 (down mem), fun x mem => (absent d).2 x (up mem)⟩
  · exact absent e

theorem parked_rests {ps : List UpEntry} {check : Option HeadroomCheck} (absent : Absent r s) (others : ∀ p, p ∈ ps → p.leg ≠ r) :
    Rests r s (Parked d ps check s) := by
  refine ⟨?_, fun e => ?_⟩
  · have none : ps.any (fun p => p.leg = r) = false := by simpa using others
    rw [parked_leg?, none]
    simp
  · by_cases here : e = d
    · subst here
      rw [parked_arb]
      exact ⟨(absent e).1, fun x mem => (absent e).2 x (List.mem_of_mem_filter mem)⟩
    · rw [parked_arb_other here]
      exact absent e

theorem grantPass_rests (absent : Absent r s) (d : Degree) : Rests r s (grantPass d s) := by
  by_cases free : (s.arb d).token = none
  case neg => exact (grantPass_of_token free).symm ▸ ⟨rfl, absent⟩
  cases able : (s.act d).faulted with
  | true => exact (grantPass_of_faulted able).symm ▸ ⟨rfl, absent⟩
  | false =>
    cases down : (s.arb d).down with
    | cons q rest =>
      have other : r ≠ q := fun same => (absent d).1 (by rw [down, same]; simp)
      have taken : Rests r s (modArb d (fun a => { a with token := some ⟨q, .down⟩, down := rest }) s) :=
        modArb_rests absent (by rw [down]; exact List.subset_cons_self ..) (List.Subset.refl _)
      rw [grantPass_down free able down]
      exact taken.trans ((startDown_onlyLeg ..).rests other taken.2)
    | nil =>
      by_cases fault : s.monitor.state = .fault
      · exact (grantPass_of_monitor down fault).symm ▸ ⟨rfl, absent⟩
      · have away (xs : List UpEntry) (sub : xs ⊆ (s.arb d).up) : ∀ p, p ∈ [] ++ checkedIn d xs s → p.leg ≠ r := fun p mem =>
          (absent d).2 p (sub (List.mem_of_mem_filter mem))
        rcases grantPass_up free able down fault with ⟨-, eq⟩ | ⟨pre, x, post, h, l, split, -, -, -, -, -, eq⟩
        · rw [eq]
          exact parked_rests absent (away _ (List.Subset.refl _))
        · have parked : Rests r s (Parked d ([] ++ checkedIn d pre s) (some h) s) :=
            parked_rests absent (away pre (by rw [split]; exact List.subset_append_left ..))
          have granted := parked.trans (modArb_rests (d := d) (f := Arbiter.grantUp x.leg) parked.2 (List.Subset.refl _) (List.filter_subset_self _))
          have other : r ≠ x.leg := Ne.symm ((absent d).2 x (by rw [split]; simp))
          rw [eq]
          exact granted.trans ((beginUp_onlyLeg ..).rests other granted.2)

theorem issueNext_jobs (s : State) : (issueNext s).jobs = s.jobs := by
  unfold issueNext markIssued
  split
  · rfl
  · split
    · rfl
    · split <;> rfl

/-- An act's end leaves alone a leg that no DOWN or UP class names. -/
theorem settleAct_rests (absent : Absent r s) : (settleAct s).leg? r = s.leg? r := by
  have one := grantPass_rests absent .d1
  have two := one.trans (grantPass_rests one.2 .d2)
  have three := two.trans (grantPass_rests two.2 .d3)
  have four := three.trans (grantPass_rests three.2 .d4)
  rw [← four.1]
  exact leg?_of_jobs (issueNext_jobs ..) r

/-! ### A leg goes OFF (R47, R107) -/

theorem requeue_ctx?_of_idle (idle : ∀ x, x ∈ (s.arb d).wait → x.leg.job ≠ id) : (requeue d s).ctx? id = s.ctx? id := by
  have jobs : (requeue d s).jobs = (s.arb d).wait.foldl (fun jobs e => setLeg e.leg LineLeg.requeued jobs) s.jobs := by rw [requeue_eq]
  generalize (s.arb d).wait = es at idle jobs
  generalize requeue d s = t at jobs
  induction es generalizing s with
  | nil => exact ctx?_of_jobs jobs id
  | cons x xs ih =>
    rw [ih (s := modLeg x.leg LineLeg.requeued s) (fun y mem => idle y (List.mem_cons_of_mem _ mem)) jobs]
    exact ctx?_modCtx_other (mapLine_id x.leg.dir LineLeg.requeued) (Ne.symm (idle x (by simp)))

theorem detach_wait (d : Degree) (r : LegRef) (s : State) : ((detach d r s).arb d).wait = (s.arb d).wait.filter (fun e => e.leg ≠ r) := by
  rw [detach, modArb_arb_self]
  rfl

theorem wentOff_ctx?_of_idle (found : s.ctx? r.job = some c) (idle : ∀ x, x ∈ (s.arb l.egress).wait → x.leg.job = r.job → x.leg = r) :
    (wentOff r l s).ctx? r.job = some (c.mapLine r.dir LineLeg.off) := by
  rw [wentOff, requeue_ctx?_of_idle]
  · exact modLeg_found (s := detach l.egress r (withdraw r s)) LineLeg.off found
  · intro x mem own
    have left : x ∈ ((detach l.egress r (withdraw r s)).arb l.egress).wait := mem
    rw [detach_wait, List.mem_filter] at left
    exact of_decide_eq_true left.2 (idle x left.1 own)

theorem requeue_leg?_of_idle (idle : ∀ x, x ∈ (s.arb d).wait → x.leg ≠ r) : (requeue d s).leg? r = s.leg? r := by
  have jobs : (requeue d s).jobs = (s.arb d).wait.foldl (fun jobs e => setLeg e.leg LineLeg.requeued jobs) s.jobs := by rw [requeue_eq]
  generalize (s.arb d).wait = es at idle jobs
  generalize requeue d s = t at jobs
  induction es generalizing s with
  | nil => exact leg?_of_jobs jobs r
  | cons x xs ih =>
    rw [ih (s := modLeg x.leg LineLeg.requeued s) (fun y mem => idle y (List.mem_cons_of_mem _ mem)) jobs]
    exact leg?_modLeg_other (Ne.symm (idle x (by simp)))

theorem wentOff_leg? (leg : s.leg? r = some l) : (wentOff r l s).leg? r = some (LineLeg.off l) := by
  rw [wentOff, requeue_leg?_of_idle]
  · exact leg?_modLeg_same (s := detach l.egress r (withdraw r s)) leg
  · intro x mem
    have left : x ∈ ((detach l.egress r (withdraw r s)).arb l.egress).wait := mem
    rw [detach_wait, List.mem_filter] at left
    exact of_decide_eq_true left.2

theorem wentOff_map (r : LegRef) (l : LineLeg) (s : State) : (wentOff r l s).map = s.map := by
  rw [wentOff, requeue_eq]
  rfl

theorem requeue_arb (d e : Degree) (s : State) : (requeue d s).arb e = if e = d then (s.arb d).requeue else s.arb e := by
  rw [requeue_eq]
  exact PerDegree.get_set ..

theorem wentOff_arb (r : LegRef) (l : LineLeg) (e : Degree) (s : State) : (wentOff r l s).arb e =
    if e = l.egress then (Arbiter.releaseToken r (Arbiter.without (s.deg l.egress).holdAll r (s.arb l.egress))).requeue else s.arb e := by
  rw [wentOff, requeue_arb]
  show (if _ then Arbiter.requeue ((detach l.egress r (withdraw r s)).arb l.egress) else (detach l.egress r (withdraw r s)).arb e) = _
  rw [detach, modArb_arb, modArb_arb, if_pos rfl]
  split <;> rfl

theorem wentOff_absent (apart : ∀ e, e ≠ l.egress → r ∉ (s.arb e).down ∧ ∀ x, x ∈ (s.arb e).up → x.leg ≠ r) : Absent r (wentOff r l s) := by
  intro e
  rw [wentOff_arb]
  split
  · simp only [Arbiter.requeue, Arbiter.releaseToken, Arbiter.without, Arbiter.rehold, List.mem_append, List.mem_filter]
    simp
    tauto
  · next other => exact apart e other

/-! ### The end of a job whose line legs are OFF (R89, R94, R95) -/

theorem freeContext_ctx? (c : Context) (s : State) : (freeContext c s).ctx? c.id = none := by
  rw [freeContext, ctx?_dropCtx, if_pos rfl]

theorem releaseFailed_ctx? {f : Failure} (failure : c.failure = some f) (s : State) : (releaseFailed c s).ctx? c.id = none := by
  simp only [releaseFailed, failure]
  exact freeContext_ctx? ..

theorem releaseClosed_ctx? (c : Context) (s : State) : (releaseClosed c s).ctx? c.id = none := freeContext_ctx? ..

theorem checkEnded_failed (found : s.ctx? id = some c) (off : c.allOff = true) (fails : c.phase = .failing) : checkEnded id s = releaseFailed c s := by
  rw [checkEnded, onCtx_of_ctx found]
  simp only [off, fails, if_true]

theorem checkEnded_closed (found : s.ctx? id = some c) (off : c.allOff = true) (closing : c.phase = .teardown) :
    checkEnded id s = releaseClosed c s := by
  rw [checkEnded, onCtx_of_ctx found]
  simp only [off, closing, if_true, reduceCtorEq, if_false]

theorem checkEnded_of_none (missing : s.ctx? id = none) : checkEnded id s = s := onCtx_of_none missing

theorem checkEnded_of_legs (found : s.ctx? id = some c) (some_left : c.allOff = false) : checkEnded id s = s := by
  rw [checkEnded, onCtx_of_ctx found]
  simp only [some_left, Bool.false_eq_true, if_false]

/-- The job is freed, or nothing happens. -/
theorem checkEnded_outcome (id : JobId) (s : State) : checkEnded id s = s ∨ (checkEnded id s).ctx? id = none := by
  cases found : s.ctx? id with
  | none => exact .inl (checkEnded_of_none found)
  | some c =>
    obtain rfl := ctx?_id found
    cases off : c.allOff with
    | false => exact .inl (checkEnded_of_legs found off)
    | true =>
      by_cases fails : c.phase = .failing
      · rw [checkEnded_failed found off fails]
        cases failure : c.failure with
        | none => exact .inl (by simp only [releaseFailed, failure])
        | some f => exact .inr (releaseFailed_ctx? failure s)
      by_cases closing : c.phase = .teardown
      · rw [checkEnded_closed found off closing]
        exact .inr (releaseClosed_ctx? c s)
      · refine .inl ?_
        rw [checkEnded, onCtx_of_ctx found]
        simp only [fails, closing, if_false, ite_self]

theorem allOff_mapLine_off (others : ∀ x, x ∈ c.lineLegs → x.1 = dir ∨ x.2.state = .off) : (c.mapLine dir LineLeg.off).allOff = true := by
  rw [Context.allOff, List.all_eq_true]
  intro x mem
  rw [lineLegs_mapLine, List.mem_map] at mem
  obtain ⟨y, mem_y, rfl⟩ := mem
  split
  · rfl
  · next other => simpa using (others y mem_y).resolve_left other

theorem Context.phase_mapLine (dir : Dir) (f : LineLeg → LineLeg) (c : Context) : (c.mapLine dir f).phase = c.phase := by cases dir <;> rfl
theorem Context.failure_mapLine (dir : Dir) (f : LineLeg → LineLeg) (c : Context) : (c.mapLine dir f).failure = c.failure := by cases dir <;> rfl

theorem Context.first_mapLine (dir : Dir) (f : LineLeg → LineLeg) (c : Context) : (c.mapLine dir f).first = c.first := by cases dir <;> rfl
theorem Context.count_mapLine (dir : Dir) (f : LineLeg → LineLeg) (c : Context) : (c.mapLine dir f).count = c.count := by cases dir <;> rfl

/-- A change of one line leg leaves the others as they are. -/
theorem others_mapLine {f : LineLeg → LineLeg} (others : ∀ x, x ∈ c.lineLegs → x.1 = dir ∨ x.2.state = .off) {x : Dir × LineLeg}
    (mem : x ∈ (c.mapLine dir f).lineLegs) : x.1 = dir ∨ x.2.state = .off := by
  rw [lineLegs_mapLine, List.mem_map] at mem
  obtain ⟨y, mem_y, rfl⟩ := mem
  split
  · next here => exact .inl here
  · exact others y mem_y

theorem no_ctx_of_lowers (lowers : Lowers s t) (missing : s.ctx? id = none) : ∀ b, b ∈ t.jobs → b.id ≠ id := by
  rw [← ctx?_eq_none_iff]
  cases found : t.ctx? id with
  | none => rfl
  | some b =>
    obtain ⟨a, found_a, -⟩ := Lowers.ctx lowers found
    rw [missing] at found_a
    cases found_a

/-- The last line leg of a job in FAILING or TEARDOWN goes OFF: the job is freed in the act. -/
theorem reachOff_frees_job (found : s.ctx? r.job = some c) (leg : s.leg? r = some l)
    (ends : c.phase = .teardown ∨ (c.phase = .failing ∧ c.failure ≠ none)) (others : ∀ x, x ∈ c.lineLegs → x.1 = r.dir ∨ x.2.state = .off)
    (idle : ∀ x, x ∈ (s.arb l.egress).wait → x.leg.job = r.job → x.leg = r) : (reachOff r s).ctx? r.job = none := by
  have off := allOff_mapLine_off others
  have found' := wentOff_ctx?_of_idle found idle
  have named := ctx?_id found'
  rw [reachOff_eq found leg]
  rcases ends with closing | ⟨fails, failure⟩
  · rw [if_neg (by rw [closing]; nofun), checkEnded_closed found' off (by rw [Context.phase_mapLine, closing]), ← named]
    exact releaseClosed_ctx? ..
  · obtain ⟨f, failure⟩ := Option.ne_none_iff_exists'.mp failure
    have found'' : (changeFor c (Leg.line l).runs (SliceEntry.release c.id) (wentOff r l s)).ctx? r.job = some (c.mapLine r.dir LineLeg.off) := found'
    rw [if_pos fails, checkEnded_failed found'' off (by rw [Context.phase_mapLine, fails]), ← named]
    exact releaseFailed_ctx? (by rw [Context.failure_mapLine, failure]) _

/-- The runs of a FAILING job's leg that goes OFF are FREE (R30). -/
theorem reachOff_frees_runs (found : s.ctx? r.job = some c) (leg : s.leg? r = some l) (fails : c.phase = .failing)
    {x : Degree × MapDir} (mem : x ∈ (Leg.line l).runs) {k : Nat} (low : c.first ≤ k) (high : k < c.first + c.count) {e : SliceEntry}
    (at_k : s.entry x.1 x.2 k = some e) (named : e.job? = some r.job) : (reachOff r s).entry x.1 x.2 k = some .free := by
  obtain rfl_id := ctx?_id found
  rw [reachOff_eq found leg, if_pos fails]
  refine (Edits.checkEnded (g := 0) (.none)).free_stays ?_
  rw [funext (SliceEntry.release_eq c.id), changeFor_eq]
  have changed := changedMap_runsChange (released_released c.id) c (Leg.line l).runs (wentOff r l s).map x.1 x.2 k
  rw [if_pos ⟨mem, low, high⟩, wentOff_map, show (s.map.table x.1 x.2)[k]? = some e from at_k] at changed
  rw [wentOff_map]
  exact changed.trans (by simp [released, named, rfl_id])

/-- The leg gone OFF and out of every class, or its job freed. -/
theorem reachOff_leg (leg : s.leg? r = some l) (apart : ∀ e, e ≠ l.egress → r ∉ (s.arb e).down ∧ ∀ x, x ∈ (s.arb e).up → x.leg ≠ r) :
    (reachOff r s).ctx? r.job = none ∨ ((reachOff r s).leg? r = some (LineLeg.off l) ∧ Absent r (reachOff r s)) := by
  obtain ⟨c, found, -⟩ := ctx?_of_leg? leg
  rw [reachOff_eq found leg]
  generalize state : (if c.phase = .failing then changeFor c (Leg.line l).runs (SliceEntry.release c.id) (wentOff r l s) else wentOff r l s) = u
  have jobs : u.jobs = (wentOff r l s).jobs := by rw [← state]; split <;> rfl
  have arbiters : u.arbiters = (wentOff r l s).arbiters := by rw [← state]; split <;> rfl
  rcases checkEnded_outcome r.job u with same | freed
  · rw [same]
    exact .inr ⟨(leg?_of_jobs jobs r).trans (wentOff_leg? leg), (wentOff_absent apart).of_arbiters arbiters⟩
  · exact .inl freed

/-- An act that ends with the leg's going OFF: the job's context, where it is left, has the leg OFF. -/
theorem settleAct_reachOff (inv : JobInv s) (leg : s.leg? r = some l) (apart : ∀ e, e ≠ l.egress → r ∉ (s.arb e).down ∧ ∀ x, x ∈ (s.arb e).up → x.leg ≠ r) :
    ∀ b, b ∈ (settleAct (reachOff r s)).jobs → b.id = r.job → ∃ y, b.leg? r.dir = some (.line y) ∧ y.state = .off ∧ y.level = .off := by
  intro b mem named
  rcases reachOff_leg leg apart with freed | ⟨off, absent⟩
  · exact absurd named (no_ctx_of_lowers (settleAct_lowers _) freed b mem)
  · have acts : OneJob r.job s (settleAct (reachOff r s)) := (OneJob.reachOff r s).trans (.settleAct _)
    have inv_t : JobInv (settleAct (reachOff r s)) := (Edits.settleAct (g := 1) (.reachOff .none)).jobInv inv
    have found := ctx?_of_mem inv_t mem
    have at_leg := (settleAct_rests absent).trans off
    rw [State.leg?, ← named, found] at at_leg
    obtain ⟨x, at_dir, line⟩ := Option.bind_eq_some_iff.mp (show (b.leg? r.dir).bind Leg.line? = some _ from at_leg)
    cases x with
    | drop d => cases line
    | line y =>
      obtain rfl : y = LineLeg.off l := Option.some.inj line
      exact ⟨_, at_dir, rfl, rfl⟩

/-- Settles O50. -/
theorem legTimersMoveTheStepOn : Obligations.LegTimersMoveTheStepOn := by
  unfold Obligations.LegTimersMoveTheStepOn
  intro id dir c l s found at_dir r p a asking ended
  have leg : s.leg? ⟨id, dir⟩ = some l := leg?_eq found at_dir
  have ended_eq : ended = LineLeg.settled := rfl
  refine ⟨fun st step out => ⟨fun kind => ?_, fun kind => ?_, fun v kind level => ?_, fun kind level inv apart => ?_⟩, fun st step out => ?_,
    fun state out => ?_, fun not => ?_, fun not => ?_, fun not => ?_, fun not => ?_, fun not => ?_, fun not => ?_, fun not => ?_,
    fun not => ?_, fun not => ?_⟩
  · rw [exec_settle leg out, legSettled_verify leg step out kind, enterVerify_modLeg _ found leg step]
    rfl
  · rw [exec_settle leg out, legSettled_backoff leg step out kind, enterBackoff_eq (leg?_modLeg_same leg), settled_egress, modLeg_jobs, setLeg_setLeg]
    rfl
  · rw [exec_settle leg out, legSettled_down leg step out kind level, startDown_modLeg _ found leg, settled_egress, settled_level, settled_probe, level,
      downRequest_num]
    rfl
  · have leg' : (modLeg r LineLeg.settled s).leg? r = some l.settled := leg?_modLeg_same leg
    have found' : (modLeg r LineLeg.settled s).ctx? r.job = some (c.mapLine dir LineLeg.settled) := modLeg_found _ found
    refine ⟨_, (exec_settle leg out).trans (congrArg _ (congrArg _ (legSettled_off leg step out kind level))), ?_⟩
    have acts : OneJob id s (settleAct (reachOff r (modLeg r LineLeg.settled s))) :=
      (OneJob.quiet (settled_edits r s)).trans ((OneJob.reachOff r _).trans (.settleAct _))
    have inv' : JobInv (modLeg r LineLeg.settled s) := (settled_edits (g := 0) r s).jobInv inv
    have apart' : ∀ e, e ≠ l.settled.egress → r ∉ ((modLeg r LineLeg.settled s).arb e).down
        ∧ ∀ x, x ∈ ((modLeg r LineLeg.settled s).arb e).up → x.leg ≠ r := fun e other => apart e (settled_egress l ▸ other)
    refine ⟨acts.params, acts.others, settleAct_reachOff inv' leg' apart', fun fails x mem k e low high at_k named => ?_, fun ends others idle => ?_⟩
    · refine (Edits.settleAct (g := 0) .none).free_stays (reachOff_frees_runs found' leg' ?_ ?_ ?_ ?_ at_k named)
      · rw [Context.phase_mapLine, fails]
      · rwa [leg_runs_of_fixed (a := .line l.settled) (b := .line l) (settled_fixed_leg l)]
      · rwa [Context.first_mapLine]
      · rwa [Context.first_mapLine, Context.count_mapLine]
    · refine no_ctx_of_lowers (settleAct_lowers _) (reachOff_frees_job found' leg' ?_ ?_ ?_)
      · rwa [Context.phase_mapLine, Context.failure_mapLine]
      · exact fun x mem => others_mapLine others mem
      · rw [settled_egress]
        exact idle
  · show Host.Outcome.next (onLeg _ (spacingExpiry r) s) = _
    rw [onLeg_of_leg leg, spacingExpiry, if_pos ((ranOut_iff _).mpr out), askScan_modLeg _ found leg step]
    rfl
  · show Host.Outcome.next (onLeg _ (retryExpiry r) s) = _
    rw [onLeg_of_leg leg, retryExpiry, if_pos ⟨state, (ranOut_iff _).mpr out⟩]
    rfl
  · show Host.Outcome.next (onLeg _ (settleExpiry r) s) = _
    rw [onLeg_of_leg leg, settleExpiry, if_neg (fun out => not ((ranOut_iff _).mp out))]
  · show Host.Outcome.next (onLeg _ (spacingExpiry r) s) = _
    rw [onLeg_of_leg leg, spacingExpiry, if_neg (fun out => not ((ranOut_iff _).mp out))]
  · show Host.Outcome.next (onLeg _ (retryExpiry r) s) = _
    rw [onLeg_of_leg leg, retryExpiry, if_neg (fun out => not ((ranOut_iff _).mp out.2))]
  · show Host.Outcome.next (onLeg _ (darkExpiry r) s) = _
    rw [onLeg_of_leg leg, darkExpiry, if_neg (fun out => not ((ranOut_iff _).mp out.2))]
  · show Host.Outcome.next (onLeg _ (headroomExpiry r) s) = _
    rw [onLeg_of_leg leg, headroomExpiry, if_neg (fun out => not ((ranOut_iff _).mp out.2))]
  · show Host.Outcome.next (onCtx id holdExpiry s) = _
    rw [onCtx_of_ctx found, holdExpiry]
    simp [ranOut_iff, not]
  · show Host.Outcome.next (onCtx id pathExpiry s) = _
    rw [onCtx_of_ctx found, pathExpiry]
    simp [ranOut_iff, not]
  · show Host.Outcome.next (onCtx id lockExpiry s) = _
    rw [onCtx_of_ctx found, lockExpiry]
    simp [ranOut_iff, not]
  · show Host.Outcome.next (onCtx id teardownExpiry s) = _
    rw [onCtx_of_ctx found, teardownExpiry]
    simp [ranOut_iff, not]

end Sys2Proof.Machine
end

section
/-! PROOFS. What a job leaves at its end: its record, its notice, its released entries (R30, R89, R94, R95, R171, R172). -/

namespace Sys2Proof.Machine

variable {s t u : State} {r : LegRef} {dir : Dir} {l : LineLeg} {c : Context} {d : Degree} {id : JobId}

/-! ### Acts that no port, link or log hears of -/

/-- Ports, links, results and what belongs to the node are the same in both states. -/
structure Untold (s t : State) : Prop where
  ports   : t.ports = s.ports
  links   : t.links = s.links
  results : t.results = s.results
  params  : SameParams s t

theorem Untold.quiet (ports : t.ports = s.ports := by rfl) (links : t.links = s.links := by rfl) (results : t.results = s.results := by rfl)
    (params : SameParams s t := by exact ⟨rfl, rfl, rfl, rfl, rfl, rfl⟩) : Untold s t := ⟨ports, links, results, params⟩

theorem Untold.refl : Untold s s := .quiet

theorem Untold.trans (h : Untold s t) (g : Untold t u) : Untold s u :=
  ⟨g.ports.trans h.ports, g.links.trans h.links, g.results.trans h.results, h.params.trans g.params⟩

theorem Untold.onCtx {k : Context → State → State} (acts : ∀ c, Untold s (k c s)) : Untold s (onCtx id k s) := by
  unfold Machine.onCtx
  split
  · exact acts _
  · exact .refl

theorem Untold.onLeg {k : LineLeg → State → State} (acts : ∀ l, Untold s (k l s)) : Untold s (onLeg r k s) := by
  unfold Machine.onLeg
  split
  · exact acts _
  · exact .refl

theorem Untold.foldl {α : Type} {f : State → α → State} (step : ∀ s a, Untold s (f s a)) (l : List α) (s : State) : Untold s (l.foldl f s) := by
  induction l generalizing s with
  | nil => exact .refl
  | cons a as ih => exact (step s a).trans (ih _)

theorem Untold.port (h : Untold s t) (p : Port) : t.port p = s.port p := congrArg (·.get p) h.ports

theorem Untold.link (h : Untold s t) (d : Degree) : t.link d = s.link d := congrArg (·.get d) h.links

theorem Untold.time (h : Untold s t) : t.time = s.time := h.params.2.2.2.1

theorem requeue_untold (d : Degree) (s : State) : Untold s (requeue d s) := by
  rw [requeue_eq]
  exact .quiet

theorem askScan_untold (r : LegRef) (s : State) : Untold s (askScan r s) := by
  refine .onCtx fun c => .onLeg fun l => ?_
  split
  · exact .quiet
  · exact .refl

theorem actuate_untold (r : LegRef) (s : State) : Untold s (actuate r s) := by
  refine .onCtx fun c => .onLeg fun l => ?_
  split
  · dsimp only
    split <;> exact .quiet
  · exact .refl

theorem enterVerify_untold (r : LegRef) (s : State) : Untold s (enterVerify r s) :=
  Untold.trans (Untold.quiet (t := modLeg r _ s)) (askScan_untold ..)

theorem afterBaseline_untold (r : LegRef) (k : StepKind) (s : State) : Untold s (afterBaseline r k s) := by
  unfold afterBaseline
  split
  · exact enterVerify_untold ..
  · exact actuate_untold ..

theorem startDown_untold (r : LegRef) (s : State) : Untold s (startDown r s) :=
  .onLeg fun _ => Untold.trans (Untold.quiet (t := modLeg r _ s)) (actuate_untold ..)

theorem beginUp_untold (r : LegRef) (k : StepKind) (request : Int) (s : State) : Untold s (beginUp r k request s) := by
  refine .onCtx fun c => .onLeg fun l => ?_
  dsimp only
  split
  · exact Untold.trans (Untold.quiet (t := modLeg r _ s)) (afterBaseline_untold ..)
  · exact Untold.trans (Untold.quiet (t := modLeg r _ s)) (askScan_untold ..)

theorem grantPass_untold (d : Degree) (s : State) : Untold s (grantPass d s) := by
  by_cases free : (s.arb d).token = none
  case neg => exact (grantPass_of_token free).symm ▸ .refl
  cases able : (s.act d).faulted with
  | true => exact (grantPass_of_faulted able).symm ▸ .refl
  | false =>
    cases down : (s.arb d).down with
    | cons q rest =>
      rw [grantPass_down free able down]
      exact Untold.trans (Untold.quiet (t := modArb d _ s)) (startDown_untold ..)
    | nil =>
      by_cases fault : s.monitor.state = .fault
      · exact (grantPass_of_monitor down fault).symm ▸ .refl
      · rcases grantPass_up free able down fault with ⟨-, eq⟩ | ⟨pre, x, post, h, l, -, -, -, -, -, -, eq⟩
        · rw [eq]
          exact .quiet
        · rw [eq]
          exact Untold.trans (Untold.quiet (t := Granting d x _)) (beginUp_untold ..)

theorem issueNext_untold (s : State) : Untold s (issueNext s) := by
  unfold issueNext markIssued
  split
  · exact .refl
  · split
    · exact .refl
    · split <;> exact .quiet

theorem settleAct_untold (s : State) : Untold s (settleAct s) :=
  (grantPass_untold .d1 s).trans ((grantPass_untold .d2 _).trans ((grantPass_untold .d3 _).trans ((grantPass_untold .d4 _).trans (issueNext_untold _))))

theorem wentOff_untold (r : LegRef) (l : LineLeg) (s : State) : Untold s (wentOff r l s) :=
  Untold.trans (Untold.quiet (t := unordered r (modLeg r LineLeg.off (detach l.egress r (withdraw r s))))) (requeue_untold ..)

/-! ### What a release records and says (R89, R94, R95, R171, R172) -/

/-- The record of a job that ends in FAILING. -/
def failureRecord (c : Context) (f : Failure) (time : BitVec 32) : ResultRecord :=
  { plainRecord c (if f.cause = .aborted then .aborted else .failed) time with
    failure := some f
    failLeg := if f.cause = .aborted ∨ c.failSteps = [] then none else c.failLeg
    preceding := if f.cause = .aborted then [] else c.failSteps }

theorem writeResult_failure (c : Context) (f : Failure) (s : State) :
    writeResult c (if f.cause = .aborted then .aborted else .failed) (some f) s = Recorded (failureRecord c f s.time) s := by
  by_cases aborted : f.cause = .aborted
  · simp [writeResult, failureRecord, aborted, legEntries, modResults, Recorded, plainRecord, LineLeg.entry]
  · by_cases uncopied : c.failSteps = [] <;>
      simp [writeResult, failureRecord, aborted, uncopied, legEntries, modResults, Recorded, plainRecord, LineLeg.entry]

theorem notifyOwner_results (o : Option Port) (n : Notice) (s : State) : (notifyOwner o n s).results = s.results := by cases o <;> rfl

theorem sendOn_results (o : Option Degree) (m : Message) (s : State) : (sendOn o m s).results = s.results := by cases o <;> rfl

theorem freeContext_untold (c : Context) (s : State) : Untold s (freeContext c s) := .quiet

theorem releaseFailed_results {f : Failure} (failure : c.failure = some f) (s : State) :
    (releaseFailed c s).results = if c.reached = true then s.results.write (failureRecord c f s.time) else s.results := by
  simp only [releaseFailed, failure, (freeContext_untold ..).results, notifyOwner_results, writeResult_failure]
  split <;> rfl

theorem releaseClosed_results (c : Context) (s : State) :
    (releaseClosed c s).results = s.results.write (plainRecord c .closed s.time) := by
  rw [releaseClosed, (freeContext_untold ..).results, sendOn_results, notifyOwner_results, writeResult_plain c (o := .closed) nofun nofun]
  rfl

theorem notify_port_of_ports (ports : t.ports = s.ports) (p q : Port) (n : Notice) : (notify p n t).port q = (notify p n s).port q := by
  rw [notify, notify, modPort_port, modPort_port, State.port, State.port, State.port, State.port, ports]

theorem sendOn_ports (o : Option Degree) (m : Message) (s : State) : (sendOn o m s).ports = s.ports := by cases o <;> rfl

theorem releaseFailed_port {f : Failure} {q : Port} (failure : c.failure = some f) (owner : c.owner = some q) (s : State) :
    (releaseFailed c s).port q = (notify q (.failed c.id f) s).port q := by
  simp only [releaseFailed, failure, owner]
  rw [(freeContext_untold ..).port]
  refine notify_port_of_ports ?_ q q _
  split <;> rfl

theorem releaseClosed_port {q : Port} (owner : c.owner = some q) (s : State) :
    (releaseClosed c s).port q = (notify q (.closed c.id) s).port q := by
  rw [releaseClosed, (freeContext_untold ..).port, State.port, sendOn_ports, owner]
  exact notify_port_of_ports (s := s) rfl q q _

theorem send_link_of (links : t.links = s.links) (params : t.degrees = s.degrees) (d e : Degree) (m : Message) :
    (send d m t).link e = (send d m s).link e := by
  simp only [send, modLink, State.link, State.deg, links, params]

theorem notifyOwner_links (o : Option Port) (n : Notice) (s : State) : (notifyOwner o n s).links = s.links := by cases o <;> rfl

theorem notifyOwner_degrees (o : Option Port) (n : Notice) (s : State) : (notifyOwner o n s).degrees = s.degrees := by cases o <;> rfl

theorem releaseClosed_link {d : Degree} (up : c.place.up? = some d) (s : State) :
    (releaseClosed c s).link d = (send d (.downTurn c.id) s).link d := by
  rw [releaseClosed, State.link, (freeContext_untold ..).links, up]
  exact send_link_of (by rw [notifyOwner_links]; rfl) (by rw [notifyOwner_degrees]; rfl) d d _

theorem releaseClosed_map (c : Context) (s : State) : (releaseClosed c s).map = changedMap c c.entrySet (released c.id) s.map := by
  rw [releaseClosed, releaseSet_eq]
  show (sendOn _ _ _).map = _
  rw [sendOn_map, map_notifyOwner]
  rfl

/-! ### What the agreements say of a leg (R43, R47, R48, R101) -/

/-- A line leg that is found is a leg of a context in use, and agrees with the other units. -/
theorem Agreed.leg (agreed : Agreed s) (leg : s.leg? r = some l) : ∃ c, s.ctx? r.job = some c ∧ c ∈ s.jobs ∧ (r.dir, l) ∈ c.lineLegs
    ∧ LegAgrees s c.phase r l := by
  obtain ⟨c, found, line⟩ := ctx?_of_leg? leg
  have mem := List.mem_of_find?_eq_some found
  have mem_line := mem_lineLegs_iff.mpr line
  refine ⟨c, found, mem, mem_line, ?_⟩
  have agrees := agreed.legs c mem (r.dir, l) mem_line
  rwa [ctx?_id found] at agrees

/-- Who waits for headroom is in HEADROOM_WAIT. -/
theorem Agreed.waits (agreed : Agreed s) {x : UpEntry} (mem : x ∈ (s.arb d).wait) : ∃ l, s.leg? x.leg = some l ∧ l.state = .headroomWait := by
  have listed : x.leg ∈ (s.arb d).wait.map (·.leg) := List.mem_map_of_mem mem
  obtain ⟨l, leg, egress⟩ := (agreed.arbiters d).names x.leg (by simp only [List.mem_append]; tauto)
  obtain ⟨c, -, -, -, agrees⟩ := agreed.leg leg
  exact ⟨l, leg, agrees.wait.mpr (egress ▸ listed)⟩

/-- A line leg in a down-step is RAMPING_DOWN, and its job in TEARDOWN, or in FAILING with its cause. -/
theorem Agreed.lowering (agreed : Agreed s) (found : s.ctx? r.job = some c) (line : c.line? r.dir = some l) {st : StepState}
    (step : l.step = some st) (kind : st.kind = .down) : l.state = .rampingDown
      ∧ (c.phase = .teardown ∨ (c.phase = .failing ∧ c.failure ≠ none)) := by
  have mem := List.mem_of_find?_eq_some found
  have leg : s.leg? r = some l := by rw [State.leg?, found]; exact line
  obtain ⟨c', found', -, mem_line, agrees⟩ := agreed.leg leg
  obtain rfl : c' = c := Option.some.inj (found'.symm.trans found)
  obtain ⟨fits, -, state, -⟩ := agrees.holder st step
  rw [if_pos (fits.1.mpr kind)] at state
  refine ⟨state, ?_⟩
  have phases := agreed.phases c' mem
  have timers := (agreed.timers c' mem).2.2.2.2
  have all_at : c'.allAtTarget = true → False := fun all => by
    have := List.all_eq_true.mp all _ mem_line
    simp [state] at this
  unfold Context.PhaseAgrees at phases
  cases phase : c'.phase <;> simp only [phase] at phases
  case holding | booked | awaitLockFwd =>
    have := phases.2 _ mem_line
    simp [state] at this
  case bringupFwd =>
    have := phases.2 _ mem_line
    split at this <;> simp [state, LegState.raised] at this
  case bringupRev =>
    have := phases.2.2 _ mem_line
    split at this <;> simp [state, LegState.raised] at this
  case awaitLockRev => exact (all_at phases.2.2).elim
  case live => exact (all_at phases).elim
  case teardown => exact .inl rfl
  case failing => exact .inr ⟨rfl, Option.isSome_iff_ne_none.mp (timers.mpr phase)⟩

/-! ### The last leg of a job goes OFF (R30, R89, R94, R95) -/

theorem SliceEntry.Keeps.job?_back {e e' : SliceEntry} {j : JobId} (keeps : e.Keeps e') (named : e'.job? = some j) : e.job? = some j := by
  rcases keeps with rfl | keeps
  · exact named
  cases e with
  | held id => rcases keeps with rfl | rfl | rfl | rfl | rfl <;> simp_all [SliceEntry.job?]
  | booked id => rcases keeps with rfl | rfl | rfl | rfl <;> simp_all [SliceEntry.job?]
  | lit id => rcases keeps with rfl | rfl | rfl <;> simp_all [SliceEntry.job?]
  | live id => rcases keeps with rfl | rfl <;> simp_all [SliceEntry.job?]
  | _ => cases keeps

theorem SpectrumMap.Shaped.table_length {m : SpectrumMap} (shaped : m.Shaped) (d : Degree) (dir : MapDir) : (m.table d dir).length = 384 := by
  cases dir
  · exact (shaped d).1
  · exact (shaped d).2

/-- Every entry that names the job after the acts of jobs named it before. -/
theorem Edits.job?_back {g : Nat} (h : Edits g s t) (shaped : s.map.Shaped) (shaped' : t.map.Shaped) {d : Degree} {dir : MapDir} {k : Nat}
    {e' : SliceEntry} {j : JobId} (at_k : t.entry d dir k = some e') (named : e'.job? = some j) :
    ∃ e, s.entry d dir k = some e ∧ e.job? = some j := by
  have within : k < (s.map.table d dir).length := by
    rw [shaped.table_length d dir, ← shaped'.table_length d dir]
    exact (List.getElem?_eq_some_iff.mp at_k).1
  obtain ⟨e'', at_k', keeps⟩ := h.mapKeeps d dir k _ (List.getElem?_eq_getElem within)
  obtain rfl : e' = e'' := Option.some.inj (at_k.symm.trans at_k')
  refine ⟨_, List.getElem?_eq_getElem within, ?_⟩
  exact keeps.job?_back named

theorem Edits.blocked_stays {g : Nat} (h : Edits g s t) {d : Degree} {dir : MapDir} {k : Nat} {why : BlockReason}
    (at_k : s.entry d dir k = some (.blocked why)) : t.entry d dir k = some (.blocked why) := by
  obtain ⟨e, at_k', keeps⟩ := h.mapKeeps d dir k _ at_k
  rcases keeps with rfl | bad
  · exact at_k'
  · cases bad

/-- The whole entry set of a TEARDOWN job whose last line leg goes OFF is FREE. -/
theorem reachOff_frees_set (found : s.ctx? r.job = some c) (leg : s.leg? r = some l) (closing : c.phase = .teardown)
    (others : ∀ x, x ∈ c.lineLegs → x.1 = r.dir ∨ x.2.state = .off) (idle : ∀ x, x ∈ (s.arb l.egress).wait → x.leg.job = r.job → x.leg = r)
    {x : Degree × MapDir} (mem : x ∈ c.entrySet) {k : Nat} (low : c.first ≤ k) (high : k < c.first + c.count) {e : SliceEntry}
    (at_k : s.entry x.1 x.2 k = some e) (named : e.job? = some r.job) : (reachOff r s).entry x.1 x.2 k = some .free := by
  have named_c := ctx?_id found
  have ended := wentOff_ctx?_of_idle found idle
  have fixed : (c.mapLine r.dir LineLeg.off).fixed = c.fixed := mapLine_fixed (f := LineLeg.off) (fun _ => rfl) c
  obtain ⟨same_id, -, -, first, count, -, -⟩ := Context.fixed_fields fixed
  rw [reachOff_eq found leg, if_neg (by rw [closing]; nofun), checkEnded_closed ended (allOff_mapLine_off others) (by rw [Context.phase_mapLine, closing])]
  have changed := changedMap_runsChange (released_released (c.mapLine r.dir LineLeg.off).id) (c.mapLine r.dir LineLeg.off)
    (c.mapLine r.dir LineLeg.off).entrySet (wentOff r l s).map x.1 x.2 k
  rw [Context.entrySet_of_fixed fixed, first, count, if_pos ⟨mem, low, high⟩, wentOff_map, show (s.map.table x.1 x.2)[k]? = some e from at_k,
    ← Context.entrySet_of_fixed fixed] at changed
  rw [State.entry, releaseClosed_map, wentOff_map]
  exact changed.trans (by simp [released, named, same_id, named_c])

/-- The state in which a FAILING job's last line leg has gone OFF. -/
theorem reachOff_failed (found : s.ctx? r.job = some c) (leg : s.leg? r = some l) (fails : c.phase = .failing)
    (others : ∀ x, x ∈ c.lineLegs → x.1 = r.dir ∨ x.2.state = .off)
    (idle : ∀ x, x ∈ (s.arb l.egress).wait → x.leg.job = r.job → x.leg = r) :
    ∃ u, Untold s u ∧ reachOff r s = releaseFailed (c.mapLine r.dir LineLeg.off) u := by
  have ended : (changeFor c (Leg.line l).runs (SliceEntry.release c.id) (wentOff r l s)).ctx? r.job = some (c.mapLine r.dir LineLeg.off) :=
    wentOff_ctx?_of_idle found idle
  refine ⟨_, (wentOff_untold r l s).trans (Untold.quiet (t := changeFor c (Leg.line l).runs (SliceEntry.release c.id) (wentOff r l s))), ?_⟩
  rw [reachOff_eq found leg, if_pos fails, checkEnded_failed ended (allOff_mapLine_off others) (by rw [Context.phase_mapLine, fails])]

/-- The state in which a TEARDOWN job's last line leg has gone OFF. -/
theorem reachOff_closed (found : s.ctx? r.job = some c) (leg : s.leg? r = some l) (closing : c.phase = .teardown)
    (others : ∀ x, x ∈ c.lineLegs → x.1 = r.dir ∨ x.2.state = .off) (idle : ∀ x, x ∈ (s.arb l.egress).wait → x.leg.job = r.job → x.leg = r) :
    ∃ u, Untold s u ∧ reachOff r s = releaseClosed (c.mapLine r.dir LineLeg.off) u :=
  ⟨_, wentOff_untold r l s, by
    rw [reachOff_eq found leg, if_neg (by rw [closing]; nofun),
      checkEnded_closed (wentOff_ctx?_of_idle found idle) (allOff_mapLine_off others) (by rw [Context.phase_mapLine, closing])]⟩

/-- The lines of a record's legs once the leg that settled is OFF (R127, R170). -/
theorem settled_off_legs {st : StepState} (line : c.line? dir = some l) (step : l.step = some st)
    (off : ∀ x, x ∈ c.lineLegs → x.1 = dir ∨ x.2.level = .off) :
    ((c.mapLine dir LineLeg.settled).mapLine dir LineLeg.off).lineLegs.map (fun x => x.2.entry) = c.lineLegs.map (fun x =>
      ⟨x.2.egress, x.2.target, .off, x.2.short, if x.1 = dir then min (x.2.stepsTaken + 1) 65535 else x.2.stepsTaken,
        x.2.retryCount, x.2.lastDev, x.2.worst⟩) := by
  rw [mapLine_mapLine, lineLegs_mapLine, List.map_map]
  refine List.map_congr_left fun x mem => ?_
  by_cases here : x.1 = dir
  · obtain rfl : l = x.2 := Option.some.inj (line.symm.trans (mem_lineLegs_iff.mp (here ▸ mem)))
    simp only [Function.comp_apply, if_pos here]
    simp only [LineLeg.entry, LineLeg.off, LineLeg.settled, LineLeg.endStep, step]
    rfl
  · simp only [Function.comp_apply, if_neg here, LineLeg.entry, (off x mem).resolve_left here]

/-- What a context's record says beside its legs is not changed by one of them. -/
theorem failureRecord_mapLine (f : Failure) (g : LineLeg → LineLeg) (time : BitVec 32) : failureRecord (c.mapLine dir g) f time =
    { failureRecord c f time with legs := (c.mapLine dir g).lineLegs.map (fun x => x.2.entry) } := by
  cases dir <;> rfl

theorem plainRecord_mapLine (o : JobOutcome) (g : LineLeg → LineLeg) (time : BitVec 32) : plainRecord (c.mapLine dir g) o time =
    { plainRecord c o time with legs := (c.mapLine dir g).lineLegs.map (fun x => x.2.entry) } := by
  cases dir <;> rfl

theorem Context.others_mapLine_fields (dir : Dir) (g : LineLeg → LineLeg) (c : Context) : (c.mapLine dir g).reached = c.reached
    ∧ (c.mapLine dir g).owner = c.owner ∧ (c.mapLine dir g).place = c.place := by
  cases dir <;> exact ⟨rfl, rfl, rfl⟩

section
variable {st : StepState} (sound : Sound s) (agreed : Agreed s) (found : s.ctx? id = some c) (at_dir : c.leg? dir = some (.line l))
  (step : l.step = some st) (kind : st.kind = .down) (out : l.settle = some 0) (off : l.level = .off)
  (others : ∀ x, x ∈ c.lineLegs → x.1 = dir ∨ x.2.state = .off)
include agreed found others

theorem Agreed.idle_of_others (lowers : ∀ y, s.leg? ⟨id, dir⟩ = some y → y.state ≠ .headroomWait) :
    ∀ x, x ∈ (s.arb d).wait → x.leg.job ≠ id := by
  intro x mem own
  obtain ⟨y, leg, state⟩ := agreed.waits mem
  obtain ⟨c', found', -, line, -⟩ := agreed.leg leg
  obtain rfl : c' = c := Option.some.inj (found'.symm.trans (own ▸ found))
  rcases others _ line with here | gone
  · refine lowers y ?_ state
    have same : x.leg = ⟨id, dir⟩ := by rw [← own, ← here]
    exact same ▸ leg
  · rw [state] at gone
    cases gone

include at_dir step kind

/-- The state handed over to the last leg's going OFF: its step has ended. -/
theorem settled_before : let s1 := modLeg ⟨id, dir⟩ LineLeg.settled s
    s1.ctx? id = some (c.mapLine dir LineLeg.settled) ∧ s1.leg? ⟨id, dir⟩ = some l.settled
      ∧ (∀ x, x ∈ (c.mapLine dir LineLeg.settled).lineLegs → x.1 = dir ∨ x.2.state = .off)
      ∧ (∀ x, x ∈ (s1.arb l.settled.egress).wait → x.leg.job = id → x.leg = ⟨id, dir⟩)
      ∧ (c.phase = .teardown ∨ (c.phase = .failing ∧ c.failure ≠ none)) := by
  have leg : s.leg? ⟨id, dir⟩ = some l := leg?_eq found at_dir
  have line : c.line? dir = some l := by rw [Context.line?, at_dir]; rfl
  obtain ⟨state, ending⟩ := agreed.lowering (r := ⟨id, dir⟩) found line step kind
  refine ⟨modLeg_found (r := ⟨id, dir⟩) _ found, leg?_modLeg_same leg, fun x mem => others_mapLine others mem, fun x mem own => ?_, ending⟩
  refine absurd own (agreed.idle_of_others found others (fun y leg' => ?_) x mem)
  obtain rfl : l = y := Option.some.inj (leg.symm.trans leg')
  rw [state]
  nofun

include sound out off

/-- The settle of the last leg of a job in FAILING or TEARDOWN ends the job at this node. -/
theorem settle_ends_job :
    let legs : List LegEntry := c.lineLegs.map (fun x =>
      ⟨x.2.egress, x.2.target, .off, x.2.short, if x.1 = dir then min (x.2.stepsTaken + 1) 65535 else x.2.stepsTaken,
        x.2.retryCount, x.2.lastDev, x.2.worst⟩)
    ∃ t, exec (.settleTimerExpiry id dir) s = .next t ∧ (∀ b, b ∈ t.jobs → b.id ≠ id)
      ∧ (∀ x, x ∈ (if c.phase = .failing then (Leg.line l).runs else c.entrySet) → ∀ k e, c.first ≤ k → k < c.first + c.count →
          s.entry x.1 x.2 k = some e →
          (e.job? = some id → t.entry x.1 x.2 k = some .free) ∧ ∀ why, e = .blocked why → t.entry x.1 x.2 k = some e)
      ∧ (∀ d side (k : Nat) e, t.entry d side k = some e → e.job? ≠ some id)
      ∧ (∀ f, c.phase = .failing → c.failure = some f →
        t.results = (if c.reached = true then s.results.write { failureRecord c f s.time with legs := legs } else s.results)
        ∧ ∀ q, c.owner = some q → ((notify q (.failed id f) s).port q).tx <+: (t.port q).tx)
      ∧ (c.phase = .teardown → t.results = s.results.write { plainRecord c .closed s.time with legs := legs }
        ∧ (∀ q, c.owner = some q → ((notify q (.closed id) s).port q).tx <+: (t.port q).tx)
        ∧ ∀ u, c.place.up? = some u → ((send u (.downTurn id) s).link u).queue <+: (t.link u).queue) := by
  intro legs
  have leg : s.leg? ⟨id, dir⟩ = some l := leg?_eq found at_dir
  have line : c.line? dir = some l := by rw [Context.line?, at_dir]; rfl
  have mem := List.mem_of_find?_eq_some found
  have named := ctx?_id found
  obtain ⟨found', leg', others', idle', ending⟩ := settled_before agreed found at_dir step kind others
  have fixed : (c.mapLine dir LineLeg.settled).fixed = c.fixed := mapLine_fixed settled_fixed c
  obtain ⟨same_id, same_place, -, first, count, -, -⟩ := Context.fixed_fields fixed
  obtain ⟨reached, owner, place⟩ := Context.others_mapLine_fields dir LineLeg.settled c
  have phase := Context.phase_mapLine dir LineLeg.settled c
  have failure := Context.failure_mapLine dir LineLeg.settled c
  have edits : Edits 1 s (settleAct (reachOff ⟨id, dir⟩ (modLeg ⟨id, dir⟩ LineLeg.settled s))) := .settleAct (.reachOff (settled_edits _ s))
  have after : Edits 1 (reachOff ⟨id, dir⟩ (modLeg ⟨id, dir⟩ LineLeg.settled s)) (settleAct (reachOff ⟨id, dir⟩ (modLeg ⟨id, dir⟩ LineLeg.settled s))) :=
    .settleAct .none
  have freed : ∀ x, x ∈ (if c.phase = .failing then (Leg.line l).runs else c.entrySet) → ∀ (k : Nat) e, c.first ≤ k → k < c.first + c.count →
      s.entry x.1 x.2 k = some e → e.job? = some id →
      (settleAct (reachOff ⟨id, dir⟩ (modLeg ⟨id, dir⟩ LineLeg.settled s))).entry x.1 x.2 k = some .free := by
    intro x mem_x k e low high at_k names
    refine after.free_stays ?_
    rcases ending with closing | ⟨fails, -⟩
    · rw [if_neg (by rw [closing]; nofun), ← Context.entrySet_of_fixed fixed] at mem_x
      exact reachOff_frees_set found' leg' (phase.trans closing) others' idle' mem_x (first ▸ low) (by rw [first, count]; exact high) at_k names
    · rw [if_pos fails, ← leg_runs_of_fixed (settled_fixed_leg l)] at mem_x
      exact reachOff_frees_runs found' leg' (phase.trans fails) mem_x (first ▸ low) (by rw [first, count]; exact high) at_k names
  have levels : ∀ x, x ∈ c.lineLegs → x.1 = dir ∨ x.2.level = .off := fun x mem_x =>
    (others x mem_x).imp_right fun gone => (agreed.legs c mem x mem_x).level.1 (by simp [gone])
  have legs_eq := settled_off_legs line step levels
  refine ⟨_, (exec_settle leg out).trans (congrArg _ (congrArg _ (legSettled_off leg step out kind off))), ?gone, ?entries, ?unnamed, ?failed, ?closed⟩
  case gone =>
    exact no_ctx_of_lowers (settleAct_lowers _) (reachOff_frees_job found' leg' (by rwa [phase, failure]) others' idle')
  case entries =>
    refine fun x mem_x k e low high at_k => ⟨freed x mem_x k e low high at_k, ?_⟩
    rintro why rfl
    exact edits.blocked_stays at_k
  case unnamed =>
    intro d side k e' at_k' names'
    obtain ⟨e, at_k, names⟩ := edits.job?_back sound.map (edits.sound sound).map at_k' names'
    obtain ⟨c', mem', named', set, low, high⟩ := agreed.map.names d side k e id at_k names
    obtain rfl : c' = c := Option.some.inj ((named' ▸ ctx?_of_mem sound.jobs mem').symm.trans found)
    have not_free : ¬ (settleAct (reachOff ⟨id, dir⟩ (modLeg ⟨id, dir⟩ LineLeg.settled s))).entry d side k = some .free := by
      rw [at_k', Option.some.injEq]
      rintro rfl
      cases names'
    by_cases fails : c'.phase = .failing
    · obtain ⟨x, mem_x, run⟩ := List.mem_flatMap.mp set
      obtain ⟨e'', at_k'', fits⟩ := agreed.map.runs c' mem x mem_x (d, side) run k low high
      obtain rfl : e = e'' := Option.some.inj (at_k.symm.trans at_k'')
      have lit : ¬ x.2.isOff := by
        simp only [Context.RunFits, fails] at fits
        rcases fits with ⟨-, other⟩ | ⟨lit, -⟩
        · exact absurd (named'.symm ▸ names) other
        · exact lit
      cases line_x : x.2 with
      | drop g => exact lit (by rw [line_x]; trivial)
      | line y =>
        rcases others _ (mem_lineLegs mem_x line_x) with here | gone
        · obtain rfl : l = y := Option.some.inj (line.symm.trans (here ▸ mem_lineLegs_iff.mp (mem_lineLegs mem_x line_x)))
          exact not_free (freed (d, side) (by rw [if_pos fails, ← line_x]; exact run) k e low high at_k names)
        · exact lit (by rw [line_x]; exact gone)
    · exact not_free (freed (d, side) (by rw [if_neg fails]; exact set) k e low high at_k names)
  case failed =>
    intro f fails cause
    obtain ⟨u, untold, eq⟩ := reachOff_failed found' leg' (phase.trans fails) others' idle'
    have cause' : ((c.mapLine dir LineLeg.settled).mapLine dir LineLeg.off).failure = some f := by rw [Context.failure_mapLine, failure, cause]
    rw [eq] at after ⊢
    refine ⟨?_, fun q own => ?_⟩
    · rw [(settleAct_untold _).results, releaseFailed_results cause', (Context.others_mapLine_fields ..).1, reached, untold.results, untold.time,
        failureRecord_mapLine, failureRecord_mapLine, legs_eq]
      rfl
    · have own' : ((c.mapLine dir LineLeg.settled).mapLine dir LineLeg.off).owner = some q := by
        rw [(Context.others_mapLine_fields ..).2.1, owner, own]
      have heard := after.onlyAddsFrames.frames q
      rwa [releaseFailed_port cause' own', notify_port_of_ports untold.ports, mapLine_id, same_id, named] at heard
  case closed =>
    intro closing
    obtain ⟨u, untold, eq⟩ := reachOff_closed found' leg' (phase.trans closing) others' idle'
    rw [eq] at after ⊢
    refine ⟨?_, fun q own => ?_, fun d up => ?_⟩
    · rw [(settleAct_untold _).results, releaseClosed_results, untold.results, untold.time, plainRecord_mapLine, plainRecord_mapLine, legs_eq]
      rfl
    · have own' : ((c.mapLine dir LineLeg.settled).mapLine dir LineLeg.off).owner = some q := by
        rw [(Context.others_mapLine_fields ..).2.1, owner, own]
      have heard := after.onlyAddsFrames.frames q
      rwa [releaseClosed_port own', notify_port_of_ports untold.ports, mapLine_id, same_id, named] at heard
    · have up' : ((c.mapLine dir LineLeg.settled).mapLine dir LineLeg.off).place.up? = some d := by
        rw [(Context.others_mapLine_fields ..).2.2, place, up]
      rw [(settleAct_untold _).link, releaseClosed_link up', send_link_of untold.links untold.params.2.1, mapLine_id, same_id, named]
      exact List.prefix_rfl
end

/-! ### A FAIL frees a job whose line legs are all DARK (R89, R90) -/

/-- No headroom-wait list names a leg of the job. -/
def NoWait (id : JobId) (s : State) : Prop := ∀ e x, x ∈ (s.arb e).wait → x.leg.job ≠ id

theorem changedMap_mapLine (dir : Dir) (f : LineLeg → LineLeg) (c : Context) (runs : List (Degree × MapDir)) (g : SliceEntry → SliceEntry)
    (m : SpectrumMap) : changedMap (c.mapLine dir f) runs g m = changedMap c runs g m := by cases dir <;> rfl

/-- The state with the line leg out of what it waits in (R103). -/
def Stopped (r : LegRef) (l : LineLeg) (s : State) : State :=
  unordered r (modLeg r LineLeg.stopWaiting (modArb l.egress (Arbiter.without (s.deg l.egress).holdAll r) s))

theorem stopped_untold (r : LegRef) (l : LineLeg) (s : State) : Untold s (Stopped r l s) := .quiet

theorem stopped_ctx? (found : s.ctx? r.job = some c) : (Stopped r l s).ctx? r.job = some (c.mapLine r.dir LineLeg.stopWaiting) :=
  modLeg_found (s := modArb l.egress (Arbiter.without (s.deg l.egress).holdAll r) s) LineLeg.stopWaiting found

theorem stopped_leg? (leg : s.leg? r = some l) : (Stopped r l s).leg? r = some l.stopWaiting :=
  leg?_modLeg_same (s := modArb l.egress (Arbiter.without (s.deg l.egress).holdAll r) s) leg

theorem stopped_noWait (none : NoWait id s) : NoWait id (Stopped r l s) := by
  intro e x mem
  have left : x ∈ ((modArb l.egress (Arbiter.without (s.deg l.egress).holdAll r) s).arb e).wait := mem
  rw [modArb_arb] at left
  split at left
  · exact none _ x (List.mem_of_mem_filter left)
  · exact none e x left

theorem handOver_dark_stops (leg : s.leg? r = some l) (dark : l.state = .dark) : handOver r s = joinDown r (Stopped r l s) := by
  rw [handOver, onLeg_of_leg leg]
  simp only [dark]
  rfl

theorem joinDown_of_off (leg : s.leg? r = some l) (level : l.level = .off) :
    joinDown r s = if (s.act l.egress).faulted = true then abandonLeg r s else reachOff r s := by
  rw [joinDown, onLeg_of_leg leg, if_pos level]

theorem abandonLeg_eq (found : s.ctx? r.job = some c) (leg : s.leg? r = some l) :
    abandonLeg r s = reachOff r (changeFor c [(l.egress, .outgoing)] (SliceEntry.abandon c.id) s) := by
  rw [abandonLeg, onCtx_of_ctx found, onLeg_of_leg leg]

/-- Where a DARK line leg that is handed for ramp-down goes OFF (R103): abandoned on a faulted degree. -/
theorem handOver_of_dark (found : s.ctx? r.job = some c) (leg : s.leg? r = some l) (dark : l.state = .dark) (level : l.level = .off) :
    ∃ u, Untold s u ∧ u.ctx? r.job = some (c.mapLine r.dir LineLeg.stopWaiting) ∧ u.leg? r = some l.stopWaiting
      ∧ (NoWait r.job s → NoWait r.job u) ∧ u.actuators = s.actuators ∧ ((s.act l.egress).faulted = false → u.map = s.map)
      ∧ handOver r s = reachOff r u := by
  have found' := stopped_ctx? (l := l) found
  have leg' := stopped_leg? leg
  have untold := stopped_untold r l s
  have acts : (Stopped r l s).actuators = s.actuators := rfl
  have map : (Stopped r l s).map = s.map := rfl
  have idle : NoWait r.job s → NoWait r.job (Stopped r l s) := stopped_noWait
  rw [handOver_dark_stops leg dark]
  generalize Stopped r l s = v at found' leg' untold acts map idle
  rw [joinDown_of_off leg' level]
  by_cases faulted : (v.act l.egress).faulted = true
  · refine ⟨changeFor (c.mapLine r.dir LineLeg.stopWaiting) [(l.egress, .outgoing)] (SliceEntry.abandon (c.mapLine r.dir LineLeg.stopWaiting).id) v,
      untold.trans .quiet, found', leg', idle, acts, fun able => ?_, ?_⟩
    · rw [State.act, acts] at faulted
      rw [State.act, faulted] at able
      cases able
    · rw [if_pos (show (v.act l.stopWaiting.egress).faulted = true from faulted), abandonLeg_eq found' leg']
      rfl
  · exact ⟨v, untold, found', leg', idle, acts, fun _ => map, if_neg faulted⟩

/-- The act of a DARK leg of a FAILING job: the leg is OFF, its runs are released, and the job is ended if no leg is left. -/
theorem handOver_dark_ends (found : s.ctx? r.job = some c) (leg : s.leg? r = some l) (dark : l.state = .dark) (level : l.level = .off)
    (fails : c.phase = .failing) (idle : NoWait r.job s) :
    ∃ u, Untold s u ∧ handOver r s = checkEnded r.job u ∧ u.ctx? r.job = some (c.mapLine r.dir LineLeg.off) ∧ NoWait r.job u
      ∧ u.actuators = s.actuators
      ∧ ((s.act l.egress).faulted = false → u.map = changedMap c (Leg.line l).runs (released r.job) s.map) := by
  obtain ⟨v, untold, found_v, leg_v, idle_v, acts, map, hands⟩ := handOver_of_dark found leg dark level
  have named := ctx?_id found
  refine ⟨changeFor (c.mapLine r.dir LineLeg.stopWaiting) (Leg.line l).runs (SliceEntry.release r.job) (wentOff r l.stopWaiting v),
    untold.trans ((wentOff_untold ..).trans .quiet), ?_, ?_, ?_, ?_, fun able => ?_⟩
  · rw [hands, reachOff_eq found_v leg_v, if_pos (by rw [Context.phase_mapLine, fails]), mapLine_id, named]
    rfl
  · have gone : (wentOff r l.stopWaiting v).ctx? r.job = some _ :=
      wentOff_ctx?_of_idle found_v fun x mem own => absurd own (idle_v idle _ x mem)
    rw [mapLine_mapLine] at gone
    exact gone
  · intro e x mem
    have left : x ∈ ((wentOff r l.stopWaiting v).arb e).wait := mem
    rw [wentOff_arb] at left
    split at left
    · cases left
    · exact idle_v idle e x left
  · have wentOff_actuators : (wentOff r l.stopWaiting v).actuators = v.actuators := by
      rw [wentOff, requeue_eq]
      rfl
    exact wentOff_actuators.trans acts
  · rw [funext (SliceEntry.release_eq r.job), changeFor_eq, wentOff_map, map able, changedMap_mapLine]

theorem failureRecord_off {f : Failure} (line : c.line? dir = some l) (level : l.level = .off) (time : BitVec 32) :
    failureRecord (c.mapLine dir LineLeg.off) f time = failureRecord c f time := by
  have legs : (c.mapLine dir LineLeg.off).lineLegs.map (fun x => x.2.entry) = c.lineLegs.map (fun x => x.2.entry) := by
    rw [lineLegs_mapLine, List.map_map]
    refine List.map_congr_left fun x mem => ?_
    by_cases here : x.1 = dir
    · obtain rfl : l = x.2 := Option.some.inj (line.symm.trans (mem_lineLegs_iff.mp (here ▸ mem)))
      simp [here, LineLeg.entry, LineLeg.off, level]
    · simp [here]
  rw [failureRecord_mapLine, legs]
  rfl

/-- The same fields for what a release writes and says. -/
structure SameEnd (b c : Context) : Prop where
  id      : b.id = c.id
  failure : b.failure = c.failure
  reached : b.reached = c.reached
  owner   : b.owner = c.owner
  record  : ∀ f time, failureRecord b f time = failureRecord c f time

theorem checkEnded_of_foldl (xs : List (Dir × LineLeg)) (found : s.ctx? id = some c) (left : xs ≠ [] → c.allOff = false)
    (idem : checkEnded id (checkEnded id s) = checkEnded id s) :
    checkEnded id (xs.foldl (fun s x => handOver ⟨id, x.1⟩ s) (checkEnded id s)) = checkEnded id (xs.foldl (fun s x => handOver ⟨id, x.1⟩ s) s) := by
  cases xs with
  | nil => exact idem
  | cons x xs => rw [checkEnded_of_legs found (left nofun)]

/-- The line legs of a FAILING job that are left are all DARK: handed over one after another, they end the job. -/
theorem handOver_all_dark {f : Failure} (xs : List (Dir × LineLeg)) (found : s.ctx? id = some c) (fails : c.phase = .failing)
    (failure : c.failure = some f) (lines : ∀ x, x ∈ xs → c.line? x.1 = some x.2 ∧ x.2.state = .dark ∧ x.2.level = .off)
    (distinct : (xs.map (·.1)).Nodup) (rest : ∀ x, x ∈ c.lineLegs → x.1 ∈ xs.map (·.1) ∨ x.2.state = .off) (idle : NoWait id s) :
    ∃ u b, Untold s u ∧ SameEnd b c ∧ checkEnded id (xs.foldl (fun s x => handOver ⟨id, x.1⟩ s) s) = releaseFailed b u
      ∧ ((∀ x, x ∈ xs → (s.act x.2.egress).faulted = false) →
          u.map = xs.foldl (fun m x => changedMap c (Leg.line x.2).runs (released id) m) s.map) := by
  induction xs generalizing s c with
  | nil =>
    have off : c.allOff = true := List.all_eq_true.mpr fun x mem => by simpa using rest x mem
    exact ⟨s, c, .refl, ⟨rfl, rfl, rfl, rfl, fun _ _ => rfl⟩, checkEnded_failed found off fails, fun _ => rfl⟩
  | cons x xs ih =>
    obtain ⟨line, dark, level⟩ := lines x (by simp)
    obtain ⟨fresh, distinct⟩ := List.nodup_cons.mp (show (x.1 :: xs.map (·.1)).Nodup from distinct)
    have leg : s.leg? ⟨id, x.1⟩ = some x.2 := by rw [State.leg?, found]; exact line
    obtain ⟨u, untold, hands, found_u, idle_u, acts, map⟩ := handOver_dark_ends (r := ⟨id, x.1⟩) found leg dark level fails idle
    have lines' : ∀ y, y ∈ xs → (c.mapLine x.1 LineLeg.off).line? y.1 = some y.2 ∧ y.2.state = .dark ∧ y.2.level = .off := by
      intro y mem
      have other : y.1 ≠ x.1 := fun same => fresh (same ▸ List.mem_map_of_mem mem)
      obtain ⟨line_y, states⟩ := lines y (List.mem_cons_of_mem _ mem)
      exact ⟨by rw [line?_mapLine]; simp [other, line_y], states⟩
    have rest' : ∀ y, y ∈ (c.mapLine x.1 LineLeg.off).lineLegs → y.1 ∈ xs.map (·.1) ∨ y.2.state = .off := by
      intro y mem
      rw [lineLegs_mapLine, List.mem_map] at mem
      obtain ⟨z, mem_z, rfl⟩ := mem
      split
      · exact .inr rfl
      · next other => exact (rest z mem_z).imp_left fun listed => (List.mem_cons.mp listed).resolve_left other
    have fails' : (c.mapLine x.1 LineLeg.off).phase = .failing := by rw [Context.phase_mapLine, fails]
    have failure' : (c.mapLine x.1 LineLeg.off).failure = some f := by rw [Context.failure_mapLine, failure]
    obtain ⟨w, b, untold', same, ends, map'⟩ := ih found_u fails' failure' lines' distinct rest' idle_u
    obtain ⟨reached, owner, -⟩ := Context.others_mapLine_fields x.1 LineLeg.off c
    have same' : SameEnd b c := ⟨by rw [same.id, mapLine_id], by rw [same.failure, Context.failure_mapLine], by rw [same.reached, reached],
      by rw [same.owner, owner], fun f time => by rw [same.record, failureRecord_off line level]⟩
    refine ⟨w, b, untold.trans untold', same', ?_, fun able => ?_⟩
    · rw [List.foldl_cons, hands, checkEnded_of_foldl xs found_u ?_ ?_]
      · exact ends
      · intro some_left
        obtain ⟨y, mem⟩ := List.exists_mem_of_ne_nil xs some_left
        obtain ⟨line_y, dark_y, -⟩ := lines' y mem
        rw [Context.allOff, List.all_eq_false]
        exact ⟨y, mem_lineLegs_iff.mpr line_y, by rw [dark_y]; decide⟩
      · rcases checkEnded_outcome id u with same | gone
        · rw [same, same]
        · rw [checkEnded_of_none gone]
    · rw [map' fun y mem => by rw [State.act, acts]; exact able y (List.mem_cons_of_mem _ mem), map (able x (by simp)), List.foldl_cons]
      simp only [changedMap_mapLine]

theorem lineLegs_distinct (c : Context) : (c.lineLegs.map (·.1)).Nodup := by
  cases fwd : c.fwd <;> rcases rev : c.rev with _ | _ | _ <;> simp [Context.lineLegs, Context.legs, Leg.line?, fwd, rev]

/-- An entry of a run of one of the legs, that names the job or is FREE, is FREE once the runs of all have been released. -/
theorem foldl_changedMap_free (xs : List (Dir × LineLeg)) {m : SpectrumMap} {d : Degree} {side : MapDir} {k : Nat} (low : c.first ≤ k)
    (high : k < c.first + c.count)
    (at_k : (m.table d side)[k]? = some .free ∨ ((∃ x, x ∈ xs ∧ (d, side) ∈ (Leg.line x.2).runs)
      ∧ ∃ e, (m.table d side)[k]? = some e ∧ e.job? = some id)) :
    ((xs.foldl (fun m x => changedMap c (Leg.line x.2).runs (released id) m) m).table d side)[k]? = some .free := by
  induction xs generalizing m with
  | nil =>
    rcases at_k with free | ⟨⟨x, mem, -⟩, -⟩
    · exact free
    · cases mem
  | cons x xs ih =>
    have changed := changedMap_runsChange (released_released id) c (Leg.line x.2).runs m d side k
    rw [List.foldl_cons]
    refine ih ?_
    rw [changed]
    rcases at_k with free | ⟨⟨y, mem, run⟩, e, at_k, names⟩
    · left
      rw [free]
      split <;> rfl
    · rw [at_k]
      by_cases here : (d, side) ∈ (Leg.line x.2).runs
      · left
        rw [if_pos ⟨here, low, high⟩]
        simp [released, names]
      · right
        rw [if_neg fun h => here h.1]
        refine ⟨⟨y, (List.mem_cons.mp mem).resolve_left ?_, run⟩, e, rfl, names⟩
        rintro rfl
        exact here run

theorem sendOn_links (o : Option Degree) (m : Message) (s : State) : ∃ links, sendOn o m s = { s with links := links } := by
  cases o with
  | none => exact ⟨_, rfl⟩
  | some d => exact ⟨_, rfl⟩

/-- Sending a FAIL changes nothing but the links' queues (R88). -/
theorem sendFail_links (c : Context) (f : Failure) (arrival : Option Degree) (s : State) :
    ∃ links, sendFail c f arrival s = { s with links := links } := by
  have on (o : Option Degree) (u : State) : ∃ links,
      (if o = arrival then u else sendOn o (.fail c.id f.cause f.verdict f.origin) u) = { u with links := links } := by
    split
    · exact ⟨_, rfl⟩
    · exact sendOn_links ..
  obtain ⟨one, first⟩ := on c.place.up? s
  obtain ⟨two, second⟩ := on c.place.down? { s with links := one }
  refine ⟨two, ?_⟩
  rw [sendFail]
  dsimp only
  rw [first, second]

/-- The failing job's record, where the failure arose in no leg. -/
theorem failureRecord_failing (c : Context) (f : Failure) (time : BitVec 32) : failureRecord (Context.failing f none c) f time =
    { plainRecord c (if f.cause = .aborted then .aborted else .failed) time with failure := some f } := by
  simp [failureRecord, Context.failing, Context.copied, plainRecord]
  rfl

/-- A FAIL on a job whose line legs are all DARK frees it in the act (R89, R90, R171). -/
theorem fail_ends_dark_job {h : Header} {f : Failure} (agreed : Agreed s) (found : s.ctx? id = some c) (early : BeforeLive c)
    (dark : ∀ x, x ∈ c.lineLegs → x.2.state = .dark) :
    let t := settleAct (failJob id f none (some d) (Heard d h s))
    (∀ b, b ∈ t.jobs → b.id ≠ id)
      ∧ t.results = (if c.reached = true then
            s.results.write { plainRecord c (if f.cause = .aborted then .aborted else .failed) s.time with failure := some f }
          else s.results)
      ∧ (∀ q, c.owner = some q → ((notify q (.failed id f) s).port q).tx <+: (t.port q).tx)
      ∧ ((∀ x, x ∈ c.lineLegs → (s.act x.2.egress).faulted = false) → ∀ x, x ∈ c.entrySet → ∀ (k : Nat) e, c.first ≤ k →
          k < c.first + c.count → s.entry x.1 x.2 k = some e → e.job? = some id → t.entry x.1 x.2 k = some .free) := by
  intro t
  obtain rfl := ctx?_id found
  have mem := List.mem_of_find?_eq_some found
  have able := (canFail_iff c).mpr early
  obtain ⟨links, sends⟩ := sendFail_links c f (some d) (modCtx c.id (Context.failing f none) (Heard d h s))
  obtain ⟨v, state⟩ : ∃ v : State, v = { modCtx c.id (Context.failing f none) (Heard d h s) with
      links := links, map := changedMap c (dropRuns c) (released c.id) s.map } := ⟨_, rfl⟩
  have found_v : v.ctx? c.id = some (Context.failing f none c) := by
    rw [state]
    exact ctx?_modCtx_same (f := Context.failing f none) (fun _ => rfl) (heard_ctx_eq (d := d) (h := h) found)
  have idle : NoWait c.id v := fun e x waits own => by
    rw [state] at waits
    obtain ⟨y, leg, waiting⟩ := agreed.waits (d := e) (x := x) waits
    obtain ⟨c', found', -, line, -⟩ := agreed.leg leg
    obtain rfl : c' = c := Option.some.inj (found'.symm.trans (own ▸ found))
    rw [dark _ line] at waiting
    cases waiting
  have lines : ∀ x, x ∈ c.lineLegs → (Context.failing f none c).line? x.1 = some x.2 ∧ x.2.state = .dark ∧ x.2.level = .off := fun x mem_x =>
    ⟨mem_lineLegs_iff.mp mem_x, dark x mem_x, (agreed.legs c mem x mem_x).level.1 (by simp [dark x mem_x])⟩
  obtain ⟨u, b, untold, same, ends, map⟩ := handOver_all_dark (f := f) c.lineLegs found_v rfl rfl lines (lineLegs_distinct c)
    (fun x mem_x => .inl (List.mem_map_of_mem mem_x)) idle
  have act : t = settleAct (releaseFailed b u) := by
    rw [← ends]
    show settleAct (failJob c.id f none (some d) (Heard d h s)) = _
    rw [failJob_eq (heard_ctx_eq found) able, sends, unwind_eq, state]
    rfl
  have ports : u.ports = s.ports := untold.ports.trans (by rw [state]; rfl)
  have named : b.id = c.id := same.id
  have failure : b.failure = some f := same.failure
  have after : Edits 1 (releaseFailed b u) t := act ▸ .settleAct .none
  refine ⟨?_, ?_, fun q own => ?_, fun able x mem_x k e low high at_k names => ?_⟩
  · rw [act]
    exact no_ctx_of_lowers (settleAct_lowers _) (named ▸ releaseFailed_ctx? failure u)
  · have results : u.results = s.results := untold.results.trans (by rw [state]; rfl)
    have time : u.time = s.time := untold.time.trans (by rw [state]; rfl)
    rw [act, (settleAct_untold _).results, releaseFailed_results failure, same.reached, same.record, failureRecord_failing, results, time]
    rfl
  · have heard := after.onlyAddsFrames.frames q
    rwa [releaseFailed_port failure (same.owner.trans own), notify_port_of_ports ports, named] at heard
  · obtain ⟨y, mem_y, run⟩ := List.mem_flatMap.mp mem_x
    have dropped := changedMap_runsChange (released_released c.id) c (dropRuns c) s.map x.1 x.2 k
    have v_map : v.map = changedMap c (dropRuns c) (released c.id) s.map := by rw [state]
    rw [← v_map, show (s.map.table x.1 x.2)[k]? = some e from at_k] at dropped
    have unfaulted : ∀ x, x ∈ c.lineLegs → (v.act x.2.egress).faulted = false := by rw [state]; exact able
    refine act ▸ (Edits.settleAct (g := 1) (.releaseFailed .none)).free_stays (s := u) ?_
    rw [State.entry, map unfaulted]
    refine foldl_changedMap_free c.lineLegs low high ?_
    rw [dropped]
    cases leg : y.2 with
    | drop g =>
      rw [leg] at run
      obtain rfl : x = (g, .incoming) := by simpa [Leg.runs] using run
      left
      rw [if_pos ⟨mem_dropRuns mem_y leg, low, high⟩]
      simp [released, names]
    | line l =>
      split
      · exact .inl (by simp [released, names])
      · exact .inr ⟨⟨_, mem_lineLegs mem_y leg, by rw [← leg]; exact run⟩, e, rfl, names⟩

/-- Settles O43. -/
theorem endedJobsLeaveTheirRecord : Obligations.EndedJobsLeaveTheirRecord := by
  unfold Obligations.EndedJobsLeaveTheirRecord
  refine ⟨fun d h id cause verdict origin c s sound agreed hears found uses early dark => ?_,
    fun id dir c l st s sound agreed found at_dir step kind out off others => ?_⟩
  · have taken : takeFail d id ⟨cause, verdict, origin⟩ (Heard d h s) = settleAct (failJob id ⟨cause, verdict, origin⟩ none (some d) (Heard d h s)) := by
      rw [takeFail, onCtx_of_ctx (heard_ctx_eq found), if_pos ⟨uses, (canFail_iff c).mpr early⟩]
    exact ⟨_, (exec_fail hears cause verdict origin).trans (congrArg _ taken), fail_ends_dark_job agreed found early dark⟩
  · exact settle_ends_job sound agreed found at_dir step kind out off others

end Sys2Proof.Machine
end

section
/-! PROOFS. What a scan result does to the leg that awaits it (R16, R17, R118, R121 to R126, R136). -/

namespace Sys2Proof.Machine

variable {s t u : State} {r : LegRef} {dir : Dir} {l x y : LineLeg} {c : Context} {st : StepState} {d : Degree} {id : JobId}

/-! ### The line leg of one reference replaced -/

/-- The state with the line leg of the reference replaced. -/
def WithLeg (r : LegRef) (x : LineLeg) (s : State) : State := { s with jobs := setLeg r (fun _ => x) s.jobs }

theorem modLeg_eq_withLeg (inv : JobInv s) (leg : s.leg? r = some l) (f : LineLeg → LineLeg) : modLeg r f s = WithLeg r (f l) s := by
  obtain ⟨c, found, line⟩ := ctx?_of_leg? leg
  have jobs : setLeg r f s.jobs = setLeg r (fun _ => f l) s.jobs := setLeg_congr inv found line rfl
  show { s with jobs := setLeg r f s.jobs } = _
  rw [jobs]
  rfl

theorem modLeg_withLeg (f : LineLeg → LineLeg) : modLeg r f (WithLeg r x s) = WithLeg r (f x) s := modLeg_modLeg r f (fun _ => x) s

theorem endStep_withLeg (v : Verdict) : endStep r v (WithLeg r x s) = WithLeg r (LineLeg.endStep v x) s := modLeg_withLeg _

theorem withLeg_leg? (leg : s.leg? r = some l) : (WithLeg r x s).leg? r = some x :=
  leg?_setLeg (f := fun _ => x) leg rfl

theorem withLeg_ctx? (found : s.ctx? r.job = some c) : (WithLeg r x s).ctx? r.job = some (c.mapLine r.dir (fun _ => x)) :=
  modLeg_found (fun _ => x) found

theorem askScan_withLeg (found : s.ctx? r.job = some c) (leg : s.leg? r = some l) (step : x.step = some st) :
    askScan r (WithLeg r x s) = WithLeg r x { s with monitor := { s.monitor with queue := s.monitor.queue ++ [legScan r c x st] } } :=
  askScan_modLeg (fun _ => x) found leg step

theorem enterVerify_withLeg (found : s.ctx? r.job = some c) (leg : s.leg? r = some l) (step : x.step = some st) :
    enterVerify r (WithLeg r x s) = WithLeg r (LineLeg.mapStep (fun st => { st with stage := .verify }) x)
      { s with monitor := { s.monitor with queue := s.monitor.queue ++ [legScan r c x st] } } :=
  enterVerify_modLeg (fun _ => x) found leg step

theorem actuate_withLeg (found : s.ctx? r.job = some c) (leg : s.leg? r = some l) (step : x.step = some st) :
    actuate r (WithLeg r x s) = WithLeg r (LineLeg.mapStep (fun st => { st with stage := .actuate }) x)
      { s with map := commandedMap c x.egress st.kind s.map, actuators := s.actuators.set x.egress (s.actSent x.egress r c st.requested) } :=
  actuate_modLeg (fun _ => x) found leg step

theorem Context.place_mapLine (dir : Dir) (f : LineLeg → LineLeg) (c : Context) : (c.mapLine dir f).place = c.place := by cases dir <;> rfl

theorem reachedTarget_mapLine (f : LineLeg → LineLeg) (e : Dir) (s : State) : reachedTarget (c.mapLine dir f) e s = reachedTarget c e s := by
  cases dir <;> rfl

/-! ### The end of a verification (R77, R109, R123 to R126) -/

/-- The line leg whose step has passed at its level (R123). -/
def LineLeg.passed (v : Int) (x : LineLeg) : LineLeg := { LineLeg.endStep .pass x with unverified := false, verified := some v }

/-- The leg of a reference replaced, and its degree's token given up (R109). -/
def Released (d : Degree) (r : LegRef) (x : LineLeg) (s : State) : State :=
  { s with arbiters := s.arbiters.set d (s.arbFree d r), jobs := setLeg r (fun _ => x) s.jobs }

theorem endStep_target (v : Verdict) (l : LineLeg) : (LineLeg.endStep v l).target = l.target := by
  unfold LineLeg.endStep
  split <;> rfl

theorem endStep_short (v : Verdict) (l : LineLeg) : (LineLeg.endStep v l).short = l.short := by
  unfold LineLeg.endStep
  split <;> rfl

theorem endStep_retryCount (v : Verdict) (l : LineLeg) : (LineLeg.endStep v l).retryCount = l.retryCount := by
  unfold LineLeg.endStep
  split <;> rfl

theorem passStep_withLeg (found : s.ctx? r.job = some c) (leg : s.leg? r = some l) {v : Int} (level : x.level = .num v) :
    passStep r (WithLeg r x s) = if ladderTop x.target (s.deg x.egress) ≤ v then
        reachedTarget c r.dir (Released x.egress r { LineLeg.passed v x with state := .atTarget, short := x.short || decide (v < x.target) } s)
      else joinUp r .step (Released x.egress r (LineLeg.passed v x) s) := by
  rw [passStep, onCtx_of_ctx (withLeg_ctx? found), onLeg_of_leg (withLeg_leg? leg)]
  simp only [level, endStep_withLeg, modLeg_withLeg, reachedTarget_mapLine]
  have arrived : LineLeg.arrive v (LineLeg.passed v x) = { LineLeg.passed v x with state := .atTarget, short := x.short || decide (v < x.target) } := by
    simp only [LineLeg.arrive, LineLeg.passed, endStep_short, endStep_target]
  have placed (z : LineLeg) : releaseToken x.egress r (WithLeg r z s) = Released x.egress r z s := rfl
  have lands : modLeg r (LineLeg.arrive v) (Released x.egress r (LineLeg.passed v x) s) = Released x.egress r (LineLeg.arrive v (LineLeg.passed v x)) s :=
    modLeg_withLeg (s := { s with arbiters := s.arbiters.set x.egress (s.arbFree x.egress r) }) (LineLeg.arrive v)
  rw [← arrived, ← lands]
  rfl

/-- The leg whose back-off has begun (R124). -/
def LineLeg.backing (request : Level) (x : LineLeg) : LineLeg :=
  { x with retryCount := x.retryCount + 1, step := some (startStep .up .backoff .actuate x.level request []) }

theorem beginBackoff_withLeg (found : s.ctx? r.job = some c) (leg : s.leg? r = some l) (request : Level) :
    beginBackoff r request (WithLeg r x s) = if x.level = request then enterBackoff r (WithLeg r (LineLeg.endStep .none (x.backing request)) s)
      else WithLeg r (x.backing request) { s with actuators := s.actuators.set x.egress (s.actSent x.egress r c request) } := by
  rw [beginBackoff, onLeg_of_leg (withLeg_leg? leg)]
  simp only [modLeg_withLeg, endStep_withLeg]
  split
  · rfl
  · exact actuate_withLeg (x := x.backing request) found leg rfl

theorem enterBackoff_withLeg (leg : s.leg? r = some l) (egress : x.egress = d) : enterBackoff r (WithLeg r x s) =
    { s with
      arbiters := s.arbiters.set d { s.arbFree d r with backoff := (s.arb d).backoff ++ [r], held := (s.deg d).holdAll }
      jobs := setLeg r (fun _ => { x with state := .backoff, retry := some (s.deg d).retryInterval }) s.jobs } := by
  subst egress
  rw [enterBackoff_eq (withLeg_leg? leg)]
  simp only [WithLeg, setLeg_setLeg]
  rfl

theorem failStep_withLeg (leg : s.leg? r = some l) (step : x.step = some st) (v : Verdict) :
    failStep r v (WithLeg r x s) = if x.retryCount < (s.deg x.egress).retryLimit then
        beginBackoff r (backoffLevel x v st.fromLevel) (WithLeg r (LineLeg.endStep v x) s)
      else failByLeg r .retriesExhausted v (WithLeg r (LineLeg.endStep v x) s) := by
  rw [failStep, onLeg_of_leg (withLeg_leg? leg)]
  simp only [step, endStep_withLeg]
  rfl

/-! ### A verification result judged (R16, R17, R121, R122) -/

theorem judge_eq_pass_iff (p : DegreeParams) (dev : Int) (dist : List Int) : judge p dev dist = .pass ↔
    (∀ x, x ∈ dist → (x.natAbs : Int) ≤ p.disturbanceLimit) ∧ -p.tolerance ≤ dev ∧ dev ≤ p.tolerance := by
  unfold judge
  split
  · next disturbed =>
    obtain ⟨x, mem, beyond⟩ := List.any_eq_true.mp disturbed
    simp only [reduceCtorEq, false_iff]
    rintro ⟨all, -⟩
    exact absurd (all x mem) (not_le.mpr (of_decide_eq_true beyond))
  · next calm =>
    have within : ∀ x, x ∈ dist → (x.natAbs : Int) ≤ p.disturbanceLimit := by simpa using calm
    split
    · next low => exact ⟨nofun, fun h => absurd h.2.1 (not_le.mpr low)⟩
    · next low =>
      split
      · next high => exact ⟨nofun, fun h => absurd h.2.2 (not_le.mpr high)⟩
      · next high => exact ⟨fun _ => ⟨within, not_lt.mp low, not_lt.mp high⟩, fun _ => rfl⟩

theorem judge_disturb {p : DegreeParams} {dist : List Int} (disturbed : ∃ x, x ∈ dist ∧ p.disturbanceLimit < (x.natAbs : Int)) (dev : Int) :
    judge p dev dist = .disturb := by
  rw [judge, if_pos]
  simpa using disturbed

theorem judge_of_calm {p : DegreeParams} {dist : List Int} (calm : ¬ ∃ x, x ∈ dist ∧ p.disturbanceLimit < (x.natAbs : Int)) (dev : Int) :
    judge p dev dist = if dev < -p.tolerance then .low else if p.tolerance < dev then .high else .pass := by
  rw [judge, if_neg]
  simpa using calm

/-- The leg with a verification result taken: its per-step state by the verdict, the last deviation and the worst disturbance (R17). -/
def judgedLeg (s : State) (r : LegRef) (c : Context) (l : LineLeg) (st : StepState) (v : Int) (readings : List Int) (w : Verdict) : LineLeg :=
  { l with
    step := some (StepState.take (deviationOf s r c l st v readings) (measuredLevel r c l st readings) (disturbancesOf r c l st readings) w st)
    lastDev := some (deviationOf s r c l st v readings)
    worst := (disturbancesOf r c l st readings).foldl worseOf l.worst }

theorem verifyResult_eq (inv : JobInv s) (found : s.ctx? r.job = some c) (leg : s.leg? r = some l) (step : l.step = some st) {v : Int}
    (level : l.level = .num v) (bright : s.ingressDark l.ingress = false) (readings : List Int) {w : Verdict}
    (verdict : judge (s.deg l.egress) (deviationOf s r c l st v readings) (disturbancesOf r c l st readings) = w) :
    let j := judgedLeg s r c l st v readings w
    let run := if w = .pass then st.failingRun else if st.previous = some w then st.failingRun + 1 else 1
    verifyResult r (readings.map clampReading) s =
      if w = .pass then passStep r (WithLeg r j s)
      else if (s.deg l.egress).failRun ≤ run then failStep r w (WithLeg r j s)
      else if 8 ≤ st.scansUsed + 1 then failStep r .unstable (WithLeg r j s)
      else WithLeg r { j with spacing := some (s.deg l.egress).scanSpacing } s := by
  intro j run
  subst verdict
  have taken : modLeg r (fun x => { x with
      step := some (StepState.take (deviationOf s r c l st v readings) (measuredLevel r c l st readings) (disturbancesOf r c l st readings)
        (judge (s.deg l.egress) (deviationOf s r c l st v readings) (disturbancesOf r c l st readings)) st)
      lastDev := some (deviationOf s r c l st v readings), worst := (disturbancesOf r c l st readings).foldl worseOf x.worst }) s = WithLeg r j s :=
    modLeg_eq_withLeg inv leg _
  rw [verifyResult, onCtx_of_ctx found, onLeg_of_leg leg]
  simp only [step, level, bright, Bool.false_eq_true, if_false]
  simp only [deviationOf, measuredLevel, disturbancesOf, disturbances] at taken ⊢
  rw [taken, modLeg_withLeg]
  rfl

/-! ### A result handed over (R136) -/

theorem exec_scanResult {f : ScanFlight} (flying : s.monitor.flight = some f) (calm : s.monitor.state ≠ .retrying) (readings : List Int)
    (whole : readings.length = f.request.count) :
    exec (.scanResult f.issue readings) s = .next (settleAct (handResult f (readings.map clampReading) (Landed s))) := by
  show Host.Outcome.next (scanResult f.issue readings s) = _
  simp only [scanResult, flying]
  rw [if_pos ⟨trivial, whole⟩, if_neg calm]
  rfl

theorem handResult_leg {f : ScanFlight} (asked : f.request.requester = .leg r) (wanted : f.withdrawn = false) (rs : List Int) :
    handResult f rs s = legResult r rs s := by
  simp only [handResult, asked, wanted, Bool.false_eq_true, if_false]

theorem legResult_verify (leg : s.leg? r = some l) (step : l.step = some st) (stage : st.stage = .verify) (free : l.spacing = none)
    (rs : List Int) : legResult r rs s = verifyResult r rs s := by
  rw [legResult, onLeg_of_leg leg]
  simp only [step, stage, free, Option.isSome_none, Bool.false_eq_true, if_false]

/-- What a verification result comes to for the leg that awaits it (R122). -/
theorem exec_verifying {issue : Nat} {readings : List Int} {v : Int} (awaits : Verifying s issue readings r c l st v) (inv : JobInv s) {w : Verdict}
    (verdict : judge (s.deg l.egress) (deviationOf s r c l st v readings) (disturbancesOf r c l st readings) = w) :
    let j := judgedLeg s r c l st v readings w
    let run := if w = .pass then st.failingRun else if st.previous = some w then st.failingRun + 1 else 1
    exec (.scanResult issue readings) s = .next (settleAct (
      if w = .pass then passStep r (WithLeg r j (Landed s))
      else if (s.deg l.egress).failRun ≤ run then failStep r w (WithLeg r j (Landed s))
      else if 8 ≤ st.scansUsed + 1 then failStep r .unstable (WithLeg r j (Landed s))
      else WithLeg r { j with spacing := some (s.deg l.egress).scanSpacing } (Landed s))) := by
  intro j run
  obtain ⟨f, flying, rfl, whole, asked, wanted⟩ := awaits.flight
  have leg : (Landed s).leg? r = some l := leg?_eq awaits.job awaits.leg
  rw [exec_scanResult flying awaits.calm readings whole, handResult_leg asked wanted, legResult_verify leg awaits.step awaits.stage awaits.free,
    verifyResult_eq (s := Landed s) inv awaits.job leg awaits.step awaits.level (ingressDark_eq_false_iff.mpr awaits.bright) readings verdict]
  rfl

/-- Settles O51. -/
theorem verificationPassMovesTheLegOn : Obligations.VerificationPassMovesTheLegOn := by
  unfold Obligations.VerificationPassMovesTheLegOn
  intro s issue readings r c l st v awaits inv p dev dist calm low high top passed u topped
  have leg : (Landed s).leg? r = some l := leg?_eq awaits.job awaits.leg
  have pass := exec_verifying awaits inv ((judge_eq_pass_iff p dev dist).mpr ⟨calm, low, high⟩)
  dsimp only at pass
  rw [if_pos rfl, passStep_withLeg (s := Landed s) awaits.job leg (x := judgedLeg s r c l st v readings .pass) awaits.level] at pass
  refine ⟨fun below => ?_, fun reached => ?_⟩
  · exact pass.trans (congrArg (fun x => Host.Outcome.next (settleAct x)) (if_neg (not_le.mpr below)))
  · refine pass.trans (congrArg (fun x => Host.Outcome.next (settleAct x)) ((if_pos reached).trans ?_))
    split
    · next dir phase place => simp only [reachedTarget, dir, phase, place]; rfl
    · next dir phase place => simp only [reachedTarget, dir, phase, place]; rfl
    · next dir phase place => simp only [reachedTarget, dir, phase, place]; rfl
    · next dir phase place => simp only [reachedTarget, dir, phase, place]; rfl
    · next other1 other2 other3 other4 =>
      unfold reachedTarget
      split
      · next dir place phase => exact (other1 _ dir phase place).elim
      · next dir place phase => exact (other2 _ _ dir phase place).elim
      · next dir place phase => exact (other3 _ dir phase place).elim
      · next dir place phase => exact (other4 _ _ dir phase place).elim
      · rfl

/-! ### A step that fails (R124 to R126) -/

theorem legs_mapLine (dir : Dir) (f : LineLeg → LineLeg) (c : Context) :
    (c.mapLine dir f).legs = c.legs.map (fun x => if x.1 = dir then (x.1, x.2.mapLine f) else x) := by
  cases dir <;> cases rev : c.rev <;> simp [Context.legs, Context.mapLine, rev]

/-- Each leg of a context, and what it is once a line leg of the context has changed: of the same kind, with the same run for a drop. -/
theorem mem_legs_mapLine (dir : Dir) (f : LineLeg → LineLeg) {x : Dir × Leg} (mem : x ∈ c.legs) : ∃ leg, (x.1, leg) ∈ (c.mapLine dir f).legs
    ∧ (∀ d, x.2 = .drop d → leg = .drop d) ∧ ∀ l, x.2 = .line l → ∃ l', leg = .line l' := by
  rw [legs_mapLine]
  refine ⟨if x.1 = dir then x.2.mapLine f else x.2, List.mem_map.mpr ⟨x, mem, ?_⟩, fun d drop => ?_, fun l line => ?_⟩
  · split <;> rfl
  · rw [drop]
    split <;> rfl
  · rw [line]
    split
    · exact ⟨_, rfl⟩
    · exact ⟨_, rfl⟩

/-- A job that fails in an act has failed since a line leg of it changed alone. -/
theorem jobFails_of_modLeg {f : Failure} {leg : Option (Dir × List StepRecord)} {g : LineLeg → LineLeg} (named : r.job = id)
    (h : JobFails id f leg (modLeg r g s) t) : JobFails id f leg s t := by
  subst named
  obtain ⟨own, legs, others, params⟩ := h
  refine ⟨own, fun c found x mem => ?_, others.trans (congrArg (List.map Context.outer) (modCtx_others (fun c => mapLine_id r.dir g c) s)), params⟩
  obtain ⟨x', mem', drops, lines⟩ := mem_legs_mapLine r.dir g mem
  obtain ⟨drop', line'⟩ := legs _ (modLeg_found g found) (x.1, x') mem'
  refine ⟨fun d k e drop low high => ?_, fun l y line at_y => ?_⟩
  · exact drop' d k e (drops d drop) (by rwa [Context.first_mapLine]) (by rwa [Context.first_mapLine, Context.count_mapLine])
  · obtain ⟨l', line_x⟩ := lines l line
    exact line' l' y line_x at_y

/-- The line leg of a failed step that backs off to the level `q` (R124). -/
def LineLeg.retried (w : Verdict) (v : Int) (q : Level) (x : LineLeg) : LineLeg :=
  { LineLeg.endStep w x with
    retryCount := x.retryCount + 1, step := some ⟨.up, .backoff, .actuate, .num v, q, [], 0, 0, none, none, none, none, none⟩ }

theorem retried_eq {v : Int} (level : x.level = .num v) (w : Verdict) (q : Level) : (LineLeg.endStep w x).backing q = x.retried w v q := by
  simp only [LineLeg.backing, LineLeg.retried, endStep_level, endStep_retryCount, level]
  rfl

section
variable (found : s.ctx? r.job = some c) (leg : s.leg? r = some l) (step : x.step = some st) {v : Int} (level : x.level = .num v)
  (more : x.retryCount < (s.deg x.egress).retryLimit) {w : Verdict} {q : Level} (request : backoffLevel x w st.fromLevel = q)
include found leg step level more request

/-- The failed step that backs off under the same grant (R124). -/
theorem failStep_commands (other : q ≠ .num v) : failStep r w (WithLeg r x s) =
    WithLeg r (x.retried w v q) { s with actuators := s.actuators.set x.egress (s.actSent x.egress r c q) } := by
  have begins := beginBackoff_withLeg (x := LineLeg.endStep w x) found leg q
  rw [if_neg (by rw [endStep_level, level]; exact Ne.symm other), retried_eq level, endStep_egress] at begins
  rw [failStep_withLeg leg step, if_pos more, request, begins]

/-- The failed step that stands at the level it would back off to (R124). -/
theorem failStep_waits (same : q = .num v) : failStep r w (WithLeg r x s) =
    { s with
      arbiters := s.arbiters.set x.egress
        { s.arbFree x.egress r with backoff := (s.arb x.egress).backoff ++ [r], held := (s.deg x.egress).holdAll }
      jobs := setLeg r (fun _ => { LineLeg.endStep .none (x.retried w v q) with
        state := .backoff, retry := some (s.deg x.egress).retryInterval }) s.jobs } := by
  have begins := beginBackoff_withLeg (x := LineLeg.endStep w x) found leg q
  have kept : (LineLeg.endStep .none (x.retried w v q)).egress = x.egress := (endStep_egress ..).trans (endStep_egress ..)
  rw [if_pos (by rw [endStep_level, level, same]), retried_eq level, enterBackoff_withLeg leg kept] at begins
  rw [failStep_withLeg leg step, if_pos more, request, begins]
end

/-- The records a context of the job copies, its line leg replaced (R172). -/
theorem copied_withLeg (inv : JobInv s) (found : s.ctx? r.job = some c) (leg : c.leg? r.dir = some (.line l)) {a : Context}
    (mem : a ∈ setLeg r (fun _ => x) s.jobs) (named : a.id = r.job) : a.copied (some r.dir) = newestFour x.history := by
  obtain ⟨b, mem_b, rfl⟩ := List.mem_map.mp mem
  split at named
  · next here =>
    obtain rfl : b = c := Option.some.inj ((here ▸ ctx?_of_mem inv mem_b).symm.trans found)
    have line : b.line? r.dir = some l := by rw [Context.line?, leg]; rfl
    rw [if_pos here]
    simp [Context.copied, line?_mapLine, line, newestFour, Config.maxPreceding]
  · next other => exact absurd named other

/-- Settles O52. -/
theorem verificationFailureRetriesThenFails : Obligations.VerificationFailureRetriesThenFails := by
  unfold Obligations.VerificationFailureRetriesThenFails
  intro s issue readings r c l st v w awaits inv p dev dist disturbed cases run judged
  have leg : (Landed s).leg? r = some l := leg?_eq awaits.job awaits.leg
  have verdict : judge p dev dist = w := by
    rcases cases with ⟨yes, rfl⟩ | ⟨no, low, rfl⟩ | ⟨no, not_low, high, rfl⟩
    · exact judge_disturb yes dev
    · rw [judge_of_calm no, if_pos low]
    · rw [judge_of_calm no, if_neg (not_lt.mpr not_low), if_pos high]
  have failing : w ≠ .pass := by rcases cases with ⟨-, rfl⟩ | ⟨-, -, rfl⟩ | ⟨-, -, -, rfl⟩ <;> nofun
  have result := exec_verifying awaits inv verdict
  dsimp only at result
  rw [if_neg failing, if_neg failing] at result
  have judged_eq : judgedLeg s r c l st v readings w = judged := by
    simp only [judgedLeg, StepState.take, if_neg failing]
    rfl
  rw [judged_eq] at result
  refine ⟨fun short few => ?_, fun ends => ?_⟩
  · rw [if_neg (not_le.mpr short), if_neg (not_le.mpr few)] at result
    exact result
  · intro verdict' want q backing
    have fails : exec (.scanResult issue readings) s = .next (settleAct (failStep r verdict' (WithLeg r judged (Landed s)))) := by
      refine result.trans (congrArg (fun x => Host.Outcome.next (settleAct x)) ?_)
      by_cases reached : p.failRun ≤ run
      · rw [if_pos reached, show verdict' = w from if_pos reached]
      · rw [if_neg reached, if_pos (ends.resolve_left reached), show verdict' = .unstable from if_neg reached]
    have level_eq : judged.level = .num v := awaits.level
    have found : (Landed s).ctx? r.job = some c := awaits.job
    have request : backoffLevel judged verdict' st.fromLevel = q := by
      rw [backoffLevel, level_eq]
      show (if Level.below (.num v) want then Level.num v else want) = q
      cases wanted : want with
      | off => simp [q, wanted, Level.below]
      | num z => simp [q, wanted, Level.below]
    have act {u : State} (same : failStep r verdict' (WithLeg r judged (Landed s)) = u) :
        exec (.scanResult issue readings) s = .next (settleAct u) := fails.trans (congrArg _ (congrArg _ same))
    refine ⟨fun more other => act (failStep_commands (x := judged) found leg rfl level_eq more request other),
      fun more same => act (failStep_waits (x := judged) found leg rfl level_eq more request same), fun none_left early => ?_⟩
    have last : failStep r verdict' (WithLeg r judged (Landed s)) =
        failByLeg r .retriesExhausted verdict' (WithLeg r (LineLeg.endStep verdict' judged) (Landed s)) := by
      rw [failStep_withLeg (x := judged) leg rfl]
      exact if_neg (not_lt.mpr none_left)
    refine ⟨_, act last, ?_⟩
    have able : (c.mapLine r.dir (fun _ => LineLeg.endStep verdict' judged)).phase.canFail = true := by
      rw [Context.phase_mapLine]
      exact (canFail_iff c).mpr early
    have fails_after := failJob_jobFails (f := localFailure .retriesExhausted verdict' s) (arrival := none)
      (some (r.dir, (LineLeg.endStep verdict' judged).history))
      (withLeg_ctx? (x := LineLeg.endStep verdict' judged) found) able ?copied
    case copied =>
      exact fun a mem named => copied_withLeg inv awaits.job awaits.leg mem named
    exact jobFails_of_modLeg (g := fun _ => LineLeg.endStep verdict' judged) (s := Landed s) rfl fails_after

/-! ### The other results (R118, R122, R132, R136, R137, R140) -/

/-- A result with the ingress dark ends the step as MASKED and freezes the leg (R118, R122). -/
theorem endMasked_withLeg : endMasked r (WithLeg r x s) = freeze r .dark .step (WithLeg r (LineLeg.endStep .masked x) s) := by
  rw [endMasked, endStep_withLeg]

theorem verifyResult_of_dark (inv : JobInv s) (found : s.ctx? r.job = some c) (leg : s.leg? r = some l) (step : l.step = some st) {v : Int}
    (level : l.level = .num v) (dark : s.ingressDark l.ingress = true) (rs : List Int) : verifyResult r rs s =
      freeze r .dark .step (WithLeg r (LineLeg.endStep .masked { l with step := some { st with scansUsed := st.scansUsed + 1 } }) s) := by
  rw [verifyResult, onCtx_of_ctx found, onLeg_of_leg leg]
  simp only [step, level, dark, if_true]
  rw [modLeg_eq_withLeg inv leg, endMasked_withLeg]
  simp only [LineLeg.mapStep, step, level, Option.map_some]

theorem legResult_baseline (leg : s.leg? r = some l) (step : l.step = some st) (stage : st.stage = .baseline) (rs : List Int) :
    legResult r rs s = baselineResult r rs s := by
  rw [legResult, onLeg_of_leg leg]
  simp only [step, stage]

theorem baselineResult_of_dark (inv : JobInv s) (found : s.ctx? r.job = some c) (leg : s.leg? r = some l) (step : l.step = some st)
    (dark : s.ingressDark l.ingress = true) (rs : List Int) :
    baselineResult r rs s = freeze r .dark .step (WithLeg r (LineLeg.endStep .masked l) s) := by
  rw [baselineResult, onCtx_of_ctx found, onLeg_of_leg leg]
  simp only [step, dark, if_true]
  rw [endMasked, endStep, modLeg_eq_withLeg inv leg]

theorem baselineResult_of_bright (inv : JobInv s) (found : s.ctx? r.job = some c) (leg : s.leg? r = some l) (step : l.step = some st)
    (bright : s.ingressDark l.ingress = false) (rs : List Int) : baselineResult r rs s =
      afterBaseline r st.kind (WithLeg r { l with step := some (StepState.setBaselines (legScan r c l st).first rs st) } s) := by
  rw [baselineResult, onCtx_of_ctx found, onLeg_of_leg leg]
  simp only [step, bright, Bool.false_eq_true, if_false]
  rw [modLeg_eq_withLeg inv leg]
  simp only [LineLeg.mapStep, step, Option.map_some]

/-- A result that its leg does not await is discarded (R118, R121). -/
theorem legResult_of_idle (idle : s.leg? r = none ∨ (∃ l, s.leg? r = some l ∧ (l.step = none
      ∨ ∃ st, l.step = some st ∧ (st.stage = .actuate ∨ st.stage = .settle ∨ (st.stage = .verify ∧ l.spacing ≠ none))))) (rs : List Int) :
    legResult r rs s = s := by
  rcases idle with missing | ⟨l, leg, resting | ⟨st, step, stage⟩⟩
  · exact onLeg_of_none missing
  · rw [legResult, onLeg_of_leg leg]
    simp only [resting]
  · rw [legResult, onLeg_of_leg leg]
    rcases stage with stage | stage | ⟨stage, spaced⟩
    · simp only [step, stage]
    · simp only [step, stage]
    · simp only [step, stage, Option.isSome_iff_ne_none.mpr spaced, if_true]

theorem queueWatches_eq (s : State) : queueWatches s =
    { s with
      monitor := { s.monitor with queue := s.monitor.queue ++ [watchRequest .d1, watchRequest .d2, watchRequest .d3, watchRequest .d4] }
      watches :=
        let queued (d : Degree) : Watch := { s.watch d with state := .queued, interval := none }
        ⟨queued .d1, queued .d2, queued .d3, queued .d4⟩ } := by
  simp only [queueWatches, Degree.all, List.foldl_cons, List.foldl_nil, requestScan, modMonitor, modWatch, List.append_assoc]
  rfl

/-- What a scan covers does not change with the baselines of its observed set (R118). -/
theorem legScan_setBaselines (r : LegRef) (c : Context) (f : Nat) (rs : List Int) (st : StepState) :
    legScan r c x (StepState.setBaselines f rs st) = legScan r c x st := by
  simp only [legScan, StepState.setBaselines, List.map_map]
  rfl

theorem Level.exists_num {q : Level} (lit : q ≠ .off) : ∃ v, q = .num v := by
  cases q with
  | off => exact absurd rfl lit
  | num v => exact ⟨v, rfl⟩

/-- Settles O54. -/
theorem otherScanResultsAreTaken : Obligations.OtherScanResultsAreTaken := by
  unfold Obligations.OtherScanResultsAreTaken
  rintro issue readings f s flying rfl whole result m
  refine ⟨fun retrying => ?_, fun probe calm => ?_, fun r asked calm => ⟨fun idle => ?_, fun c l st wanted inv found at_dir step => ?_⟩⟩
  · show Host.Outcome.next (scanResult _ _ _) = Host.Outcome.next (scanResult _ _ _)
    have flying' : (announce .monitor none 0 { s with monitor := { m with state := .ok } }).monitor.flight = some f := flying
    simp only [scanResult, flying, flying', whole, and_self, if_true]
    rw [if_pos retrying]
    rfl
  · refine (exec_scanResult flying calm readings whole).trans (congrArg (fun x => Host.Outcome.next (settleAct x)) ?_)
    simp only [handResult, probe, probeResult, queueWatches_eq]
    rfl
  · refine (exec_scanResult flying calm readings whole).trans (congrArg (fun x => Host.Outcome.next (settleAct x)) ?_)
    cases withdrawn : f.withdrawn with
    | true => simp only [handResult, asked, withdrawn, if_true]
    | false =>
      rw [handResult_leg asked withdrawn]
      exact legResult_of_idle (s := Landed s) (idle.resolve_left (by simp [withdrawn])) _
  · intro masked isDark based
    have leg : (Landed s).leg? r = some l := leg?_eq found at_dir
    have act {u : State} (same : legResult r (readings.map clampReading) (Landed s) = u) : result = .next (settleAct u) := by
      refine (exec_scanResult flying calm readings whole).trans (congrArg (fun x => Host.Outcome.next (settleAct x)) ?_)
      rw [handResult_leg asked wanted, same]
    have bright (lit : ¬ isDark) : (Landed s).ingressDark l.ingress = false := by
      rw [Bool.eq_false_iff]
      exact fun dark => lit (ingressDark_iff.mp dark)
    refine ⟨fun stage free level dark => ?_, fun stage dark => ?_, fun stage lit kind => ?_, fun stage lit kind => ?_⟩
    · obtain ⟨v, height⟩ := Level.exists_num level
      exact act ((legResult_verify leg step stage free _).trans
        (verifyResult_of_dark (s := Landed s) inv found leg step height (ingressDark_iff.mpr dark) _))
    · exact act ((legResult_baseline leg step stage _).trans (baselineResult_of_dark (s := Landed s) inv found leg step (ingressDark_iff.mpr dark) _))
    · refine act ((legResult_baseline leg step stage _).trans ((baselineResult_of_bright (s := Landed s) inv found leg step (bright lit) _).trans ?_))
      rw [afterBaseline, if_pos kind, enterVerify_withLeg (s := Landed s) found leg rfl, legScan_setBaselines]
      rfl
    · refine ⟨commandedMap c l.egress st.kind s.map, ?_, act ((legResult_baseline leg step stage _).trans
        ((baselineResult_of_bright (s := Landed s) inv found leg step (bright lit) _).trans ?_))⟩
      · exact commandedMap_change c l.egress st.kind s.map
      · rw [afterBaseline, if_neg kind, actuate_withLeg (s := Landed s) found leg rfl]
        rfl

end Sys2Proof.Machine
end

section
/-! PROOFS. The freezes and thaws of many legs at once (R130 to R132, R137). -/

namespace Sys2Proof.Machine

variable {s t u : State} {r q : LegRef} {l : LineLeg} {c : Context} {d e : Degree} {id : JobId} {x : FrozenBy} {k : RequestKind}

/-! ### Acts that change legs, arbiters and the monitor port alone -/

/-- Only legs, arbiters, the order of freezing and the monitor port have changed. -/
structure LegsOnly (s t : State) : Prop where
  untold    : Untold s t
  map       : t.map = s.map
  watches   : t.watches = s.watches
  actuators : t.actuators = s.actuators
  outer     : t.jobs.map Context.outer = s.jobs.map Context.outer

theorem LegsOnly.refl : LegsOnly s s := ⟨.refl, rfl, rfl, rfl, rfl⟩

theorem LegsOnly.trans (h : LegsOnly s t) (g : LegsOnly t u) : LegsOnly s u :=
  ⟨h.untold.trans g.untold, g.map.trans h.map, g.watches.trans h.watches, g.actuators.trans h.actuators, g.outer.trans h.outer⟩

theorem mapLine_outer (dir : Dir) (f : LineLeg → LineLeg) (c : Context) : (c.mapLine dir f).outer = c.outer := by cases dir <;> rfl

theorem setLeg_outer (r : LegRef) (f : LineLeg → LineLeg) (jobs : List Context) : (setLeg r f jobs).map Context.outer = jobs.map Context.outer := by
  rw [setLeg, setJob, List.map_map]
  refine List.map_congr_left fun c _ => ?_
  simp only [Function.comp_apply]
  split
  · exact mapLine_outer ..
  · rfl

theorem LegsOnly.modLeg (r : LegRef) (f : LineLeg → LineLeg) (s : State) : LegsOnly s (modLeg r f s) :=
  ⟨.quiet, rfl, rfl, rfl, setLeg_outer ..⟩

theorem LegsOnly.quiet (untold : Untold s t) (map : t.map = s.map := by rfl) (watches : t.watches = s.watches := by rfl)
    (actuators : t.actuators = s.actuators := by rfl) (jobs : t.jobs = s.jobs := by rfl) : LegsOnly s t :=
  ⟨untold, map, watches, actuators, by rw [jobs]⟩

theorem freeze_legsOnly (r : LegRef) (x : FrozenBy) (k : RequestKind) (s : State) : LegsOnly s (freeze r x k s) := by
  unfold freeze
  cases leg : s.leg? r with
  | none => rw [onLeg_of_none leg]; exact .refl
  | some l =>
    rw [onLeg_of_leg leg]
    exact (LegsOnly.quiet (t := detach l.egress r s) .quiet).trans ((LegsOnly.modLeg ..).trans (.quiet .quiet))

theorem leg?_setLeg_other {f : LineLeg → LineLeg} (other : q ≠ r) (jobs : t.jobs = setLeg r f s.jobs) : t.leg? q = s.leg? q := by
  rw [leg?_of_jobs (s := modLeg r f s) jobs]
  exact leg?_modLeg_other other

/-! ### Legs that can be frozen (R130, R131) -/

/-- The leg is there, in no DOWN class and no backoff list, not frozen, and named by no other degree's arbiter. -/
structure Freezable (s : State) (r : LegRef) (l : LineLeg) : Prop where
  leg   : s.leg? r = some l
  fresh : r ∉ s.frozenOrder
  apart : ∀ d, r ∉ (s.arb d).down ∧ r ∉ (s.arb d).backoff
  only  : ∀ d, d ≠ l.egress → (∀ k, (s.arb d).token = some k → k.leg ≠ r) ∧ (∀ e, e ∈ (s.arb d).up → e.leg ≠ r)
            ∧ ∀ e, e ∈ (s.arb d).wait → e.leg ≠ r

/-- What an arbiter names is on its degree. -/
theorem Agreed.egress (agreed : Agreed s) (leg : s.leg? r = some l)
    (named : r ∈ ((s.arb d).token.toList.map (·.leg)) ++ (s.arb d).down ++ (s.arb d).up.map (·.leg) ++ (s.arb d).wait.map (·.leg)
      ++ (s.arb d).backoff) : l.egress = d := by
  obtain ⟨l', leg', egress⟩ := (agreed.arbiters d).names r (List.mem_append_left _ named)
  obtain rfl : l = l' := Option.some.inj (leg.symm.trans leg')
  exact egress

theorem Agreed.freezable (agreed : Agreed s) (leg : s.leg? r = some l) (moving : l.state ∈ [LegState.queued, .headroomWait, .stepping]) :
    Freezable s r l := by
  obtain ⟨c, -, -, -, agrees⟩ := agreed.leg leg
  refine ⟨leg, fun listed => ?_, fun d => ⟨fun listed => ?_, fun listed => ?_⟩, fun d other => ⟨fun k token same => other ?_, fun e mem same => other ?_,
    fun e mem same => other ?_⟩⟩
  · rw [agrees.frozen.mpr listed] at moving
    simp at moving
  · obtain rfl := agreed.egress (d := d) leg (by simp [listed])
    rw [(agrees.down.mpr listed).1] at moving
    simp at moving
  · obtain rfl := agreed.egress (d := d) leg (by simp [listed])
    rw [agrees.back.mpr listed] at moving
    simp at moving
  · exact (agreed.egress (d := d) leg (by simp [token, same])).symm
  · refine (agreed.egress (d := d) leg ?_).symm
    simp only [List.mem_append, List.mem_map]
    exact .inl (.inl (.inr ⟨e, mem, same⟩))
  · refine (agreed.egress (d := d) leg ?_).symm
    simp only [List.mem_append, List.mem_map]
    exact .inl (.inr ⟨e, mem, same⟩)

/-! ### Legs frozen one after another -/

/-- One leg frozen, a holder after its scan is withdrawn and its step ended (R130, R131, R137). -/
def freezeOne (x : FrozenBy) (r : LegRef) (s : State) : State :=
  onLeg r (fun l s => if l.step.isSome then freeze r x .step (endStep r .none (withdraw r s)) else freeze r x .step s) s

/-- The request is of one of the legs, which was in a step. -/
def stoppedBy (L : List LegRef) (s : State) (q : ScanRequest) : Bool :=
  match q.requester with
  | .leg r => decide (r ∈ L) && (s.leg? r).any (fun l => l.step.isSome)
  | _ => false

/-- From `u`, which is `s` but for monitor and watches, to `t` the legs of the list have frozen, in its order. -/
structure FrozenTo (x : FrozenBy) (L : List LegRef) (s u t : State) : Prop where
  legs    : ∀ r, t.leg? r = (s.leg? r).map (fun l => if r ∈ L then FrozenLeg s x .step (LineLeg.endStep .none l) else l)
  order   : t.frozenOrder = s.frozenOrder ++ L
  arb     : ∀ d, t.arb d = { s.arb d with
              token := if (s.arb d).token.any (fun k => decide (k.leg ∈ L)) then none else (s.arb d).token
              up := (s.arb d).up.filter (fun e => decide (e.leg ∉ L))
              wait := (s.arb d).wait.filter (fun e => decide (e.leg ∉ L)) }
  monitor : t.monitor = { u.monitor with
              queue := u.monitor.queue.filter (fun q => !stoppedBy L s q)
              flight := u.monitor.flight.map (fun y => if stoppedBy L s y.request then { y with withdrawn := true } else y) }
  rest    : LegsOnly u t

theorem FrozenTo.nil (jobs : u.jobs = s.jobs) (order : u.frozenOrder = s.frozenOrder) (arbiters : u.arbiters = s.arbiters) :
    FrozenTo x [] s u u := by
  have none (q : ScanRequest) : stoppedBy [] s q = false := by
    unfold stoppedBy
    split <;> simp
  refine ⟨fun r => ?_, by simp [order], fun d => ?_, ?_, .refl⟩
  · rw [leg?_of_jobs jobs]
    simp
  · rw [State.arb, arbiters]
    simp [State.arb]
  · simp [none]

theorem freezeOne_untouched (step : l.step = none) (leg : s.leg? r = some l) : freezeOne x r s = freeze r x .step s := by
  rw [freezeOne, onLeg_of_leg leg, step]
  rfl

theorem freezeOne_holder (step : l.step.isSome = true) (leg : s.leg? r = some l) :
    freezeOne x r s = freeze r x .step (endStep r .none (withdraw r s)) := by
  rw [freezeOne, onLeg_of_leg leg, if_pos step]

/-- The frozen leg, its timeout that of another state with the same parameters. -/
theorem frozenLeg_of_degrees (degrees : t.degrees = s.degrees) (x : FrozenBy) (k : RequestKind) (l : LineLeg) : FrozenLeg t x k l = FrozenLeg s x k l := by
  simp only [FrozenLeg, State.deg, degrees]

theorem stoppedBy_append (leg : s.leg? r = some l) (L : List LegRef) (q : ScanRequest) :
    stoppedBy (L ++ [r]) s q = (stoppedBy L s q || (decide (q.requester = .leg r) && l.step.isSome)) := by
  unfold stoppedBy
  split
  · next r' asked =>
    by_cases same : r' = r
    · subst same
      simp [asked, leg]
    · simp [asked, same]
  · next other =>
    have away : ¬ q.requester = .leg r := other r
    simp [away]

/-- The arbiter of one more frozen leg. -/
theorem arbiter_frozen {a : Arbiter} {holdAll : Bool} (agrees : a.HoldAgrees holdAll) (down : r ∉ a.down) (backoff : r ∉ a.backoff) (L : List LegRef) :
    let b : Arbiter := { a with
      token := if a.token.any (fun k => decide (k.leg ∈ L)) then none else a.token
      up := a.up.filter (fun e => decide (e.leg ∉ L)), wait := a.wait.filter (fun e => decide (e.leg ∉ L)) }
    ({ Arbiter.releaseToken r b with
        down := b.down.filter (· ≠ r), up := b.up.filter (fun e => e.leg ≠ r), wait := b.wait.filter (fun e => e.leg ≠ r),
        backoff := b.backoff.filter (· ≠ r), held := holdAll && !(b.backoff.filter (· ≠ r)).isEmpty } : Arbiter)
      = { a with
          token := if a.token.any (fun k => decide (k.leg ∈ L ++ [r])) then none else a.token
          up := a.up.filter (fun e => decide (e.leg ∉ L ++ [r])), wait := a.wait.filter (fun e => decide (e.leg ∉ L ++ [r])) } := by
  intro b
  have downs : a.down.filter (· ≠ r) = a.down := List.filter_eq_self.mpr fun q mem => by
    simp only [decide_eq_true_eq]
    rintro rfl
    exact down mem
  have backs : a.backoff.filter (· ≠ r) = a.backoff := List.filter_eq_self.mpr fun q mem => by
    simp only [decide_eq_true_eq]
    rintro rfl
    exact backoff mem
  have lists (es : List UpEntry) : (es.filter (fun e => decide (e.leg ∉ L))).filter (fun e => e.leg ≠ r) = es.filter (fun e => decide (e.leg ∉ L ++ [r])) := by
    rw [List.filter_filter]
    exact List.filter_congr fun e _ => by simp [and_comm]
  have tokens : (Arbiter.releaseToken r b).token = if a.token.any (fun k => decide (k.leg ∈ L ++ [r])) then none else a.token := by
    simp only [Arbiter.releaseToken, b]
    cases token : a.token with
    | none => rfl
    | some k => by_cases listed : k.leg ∈ L <;> simp [listed]
  have held : (holdAll && !a.backoff.isEmpty) = a.held := agrees.symm
  simp only [b] at tokens ⊢
  rw [tokens]
  simp only [Arbiter.releaseToken, downs, backs, lists, held]

/-- The state a leg of the list freezes in. -/
theorem freezeOne_before (leg : s.leg? r = some l) (x : FrozenBy) : ∃ v, freezeOne x r s = freeze r x .step v
    ∧ v.leg? r = some (LineLeg.endStep .none l) ∧ (∀ q, q ≠ r → v.leg? q = s.leg? q) ∧ v.arbiters = s.arbiters
    ∧ v.frozenOrder = s.frozenOrder ∧ LegsOnly s v
    ∧ v.monitor = if l.step.isSome then Monitor.withdraw r s.monitor else s.monitor := by
  cases step : l.step with
  | none =>
    have same : LineLeg.endStep .none l = l := by simp only [LineLeg.endStep, step]
    exact ⟨s, freezeOne_untouched step leg, leg.trans (congrArg some same.symm), fun _ _ => rfl, rfl, rfl, .refl, rfl⟩
  | some st =>
    refine ⟨_, freezeOne_holder (by rw [step]; rfl) leg, leg?_modLeg_same (s := withdraw r s) leg, fun q other => leg?_modLeg_other (s := withdraw r s) other, rfl, rfl,
      (LegsOnly.quiet (t := withdraw r s) .quiet).trans (.modLeg ..), rfl⟩

theorem FrozenTo.step {L : List LegRef} (h : FrozenTo x L s u t) (can : Freezable s r l) (later : r ∉ L) (holds : ArbiterInv s)
    (degrees : u.degrees = s.degrees) : FrozenTo x (L ++ [r]) s u (freezeOne x r t) := by
  have leg_t : t.leg? r = some l := by
    rw [h.legs, can.leg]
    simp [later]
  obtain ⟨v, freezes, leg_v, others, arbiters, order, only, monitor⟩ := freezeOne_before leg_t x
  have degrees_v : v.degrees = s.degrees := (only.untold.params.2.1.trans h.rest.untold.params.2.1).trans degrees
  have frozen := freeze_eq leg_v x .step
  rw [freezes]
  have arb_v (d : Degree) : v.arb d = t.arb d := congrArg (·.get d) arbiters
  refine ⟨fun q => ?legs, ?order, fun d => ?arb, ?monitor, h.rest.trans (only.trans (freeze_legsOnly ..))⟩
  case legs =>
    by_cases same : q = r
    · subst same
      rw [leg?_setLeg leg_v (congrArg State.jobs frozen), can.leg, frozenLeg_of_degrees degrees_v]
      simp only [State.deg, degrees_v, Option.map_some, List.mem_append, List.mem_singleton, or_true, if_true]
      rfl
    · rw [leg?_setLeg_other same (congrArg State.jobs frozen), others q same, h.legs]
      simp [same]
  case order =>
    have fresh : r ∉ s.frozenOrder ++ L := by simp [can.fresh, later]
    have kept : (s.frozenOrder ++ L).filter (· ≠ r) = s.frozenOrder ++ L := List.filter_eq_self.mpr fun q mem => by
      simp only [decide_eq_true_eq]
      rintro rfl
      exact fresh mem
    have ordered := congrArg State.frozenOrder frozen
    rw [ordered]
    show v.frozenOrder.filter (· ≠ r) ++ [r] = _
    rw [order, h.order, kept, List.append_assoc]
  case arb =>
    have at_d := congrArg (fun w : State => w.arb d) frozen
    dsimp only at at_d
    rw [at_d]
    show PerDegree.get _ d = _
    rw [PerDegree.get_set, endStep_egress]
    by_cases here : d = l.egress
    · subst here
      have holdAll : v.deg l.egress = s.deg l.egress := by simp only [State.deg, degrees_v]
      rw [if_pos rfl, ← arbiter_frozen (holds l.egress) (can.apart _).1 (can.apart _).2 L, ← h.arb l.egress, holdAll]
      simp only [State.arbFree, arb_v]
      rfl
    · rw [if_neg here]
      show v.arb d = _
      obtain ⟨token, up, wait⟩ := can.only d here
      have lists {es : List UpEntry} (away : ∀ e, e ∈ es → e.leg ≠ r) : es.filter (fun e => decide (e.leg ∉ L)) = es.filter (fun e => decide (e.leg ∉ L ++ [r])) :=
        List.filter_congr fun e mem => by simp [away e mem]
      rw [arb_v, h.arb, lists up, lists wait]
      cases held : (s.arb d).token with
      | none => rfl
      | some k => simp [token k held]
  case monitor =>
    have kept := congrArg State.monitor frozen
    rw [kept]
    show v.monitor = _
    rw [monitor, h.monitor]
    cases step : l.step.isSome with
    | false => simp only [stoppedBy_append can.leg, step, Bool.and_false, Bool.or_false, Bool.false_eq_true, if_false]
    | true =>
      simp only [stoppedBy_append can.leg, step, Bool.and_true, if_true, Monitor.withdraw, List.filter_filter, Option.map_map]
      refine congrArg₂ (fun q y => ({ u.monitor with queue := q, flight := y } : Monitor)) ?_ ?_
      · exact List.filter_congr fun q _ => by simp [Bool.not_or, Bool.and_comm]
      · cases u.monitor.flight with
        | none => rfl
        | some f => cases stopped : stoppedBy L s f.request <;> by_cases mine : f.request.requester = .leg r <;> simp [stopped, mine]

/-! ### The legs of a degree, and of all (R130, R131) -/

/-- The legs are on other degrees. -/
def OffDegree (d : Degree) (L : List LegRef) (s : State) : Prop := ∀ r, r ∈ L → ∀ l, s.leg? r = some l → l.egress ≠ d

/-- What a list of references has of legs that pass a test. -/
def caughtIn (f : LineLeg → Bool) (s : State) (rs : List LegRef) : List LegRef := rs.filter (fun r => (s.leg? r).any f)

theorem mem_caughtIn {f : LineLeg → Bool} {rs : List LegRef} : r ∈ caughtIn f s rs ↔ r ∈ rs ∧ ∃ l, s.leg? r = some l ∧ f l = true := by
  simp [caughtIn, Option.any_eq_true]

theorem FrozenTo.leg_of_not_mem {L : List LegRef} (h : FrozenTo x L s u t) (later : r ∉ L) : t.leg? r = s.leg? r := by
  rw [h.legs]
  cases s.leg? r <;> simp [later]

theorem FrozenTo.token_of_off {L : List LegRef} (h : FrozenTo x L s u t) (agreed : Agreed s) (off : OffDegree d L s) :
    (t.arb d).token = (s.arb d).token := by
  rw [h.arb]
  cases token : (s.arb d).token with
  | none => simp
  | some k =>
    obtain ⟨l, leg, egress⟩ := (agreed.arbiters d).names k.leg (by simp [token])
    have later : k.leg ∉ L := fun mem => off k.leg mem l leg egress
    simp [later]

/-- Every UP or waiting entry of an arbiter is of a leg in that state, in no step. -/
theorem Agreed.entry (agreed : Agreed s) {e : UpEntry} (mem : e ∈ (s.arb d).up ∨ e ∈ (s.arb d).wait) : ∃ l, s.leg? e.leg = some l
    ∧ l.egress = d ∧ l.step = none ∧ (e ∈ (s.arb d).up → l.state = .queued) ∧ (e ∈ (s.arb d).wait → l.state = .headroomWait)
    ∧ l.state ∈ [LegState.queued, .headroomWait] := by
  have listed : e ∈ (s.arb d).up → e.leg ∈ (s.arb d).up.map (·.leg) := fun mem => List.mem_map_of_mem mem
  have waiting : e ∈ (s.arb d).wait → e.leg ∈ (s.arb d).wait.map (·.leg) := fun mem => List.mem_map_of_mem mem
  obtain ⟨l, leg, rfl⟩ := (agreed.arbiters d).names e.leg (by simp only [List.mem_append]; tauto)
  obtain ⟨c, -, -, -, agrees⟩ := agreed.leg leg
  have up : e ∈ (s.arb l.egress).up → l.state = .queued := fun mem => agrees.up.mpr (listed mem)
  have wait : e ∈ (s.arb l.egress).wait → l.state = .headroomWait := fun mem => agrees.wait.mpr (waiting mem)
  have state : l.state ∈ [LegState.queued, .headroomWait] := by
    rcases mem with mem | mem
    · simp [up mem]
    · simp [wait mem]
  refine ⟨l, leg, rfl, ?_, up, wait, state⟩
  cases step : l.step with
  | none => rfl
  | some st =>
    have moving := (agrees.holder st step).2.2.1
    split at moving <;> simp [moving] at state

theorem FrozenTo.lists_of_off {L : List LegRef} (h : FrozenTo x L s u t) (agreed : Agreed s) (off : OffDegree d L s) :
    (t.arb d).up = (s.arb d).up ∧ (t.arb d).wait = (s.arb d).wait := by
  rw [h.arb]
  have later {e : UpEntry} (mem : e ∈ (s.arb d).up ∨ e ∈ (s.arb d).wait) : e.leg ∉ L := fun listed => by
    obtain ⟨l, leg, egress, -⟩ := agreed.entry mem
    exact off e.leg listed l leg egress
  exact ⟨List.filter_eq_self.mpr fun e mem => by simp [later (.inl mem)], List.filter_eq_self.mpr fun e mem => by simp [later (.inr mem)]⟩

theorem freezable_iff (st : StepState) : (st.kind.freezable && st.stage != .actuate) =
    ((st.kind == .lightOn || st.kind == .up || st.kind == .recheck) && st.stage != .actuate) := by
  cases st.kind <;> rfl

/-- What the token of a degree stands for: a leg in a step. -/
theorem Agreed.holder (agreed : Agreed s) {k : Token} (token : (s.arb d).token = some k) : ∃ l st, s.leg? k.leg = some l ∧ l.egress = d
    ∧ l.step = some st ∧ l.state = (if st.cls = .down then .rampingDown else .stepping) ∧ (st.cls = .down ↔ st.kind = .down) := by
  obtain ⟨l, leg, rfl⟩ := (agreed.arbiters d).names k.leg (by simp [token])
  obtain ⟨c, -, -, -, agrees⟩ := agreed.leg leg
  obtain ⟨st, step⟩ := Option.isSome_iff_exists.mp (agrees.token.mpr ⟨k, token, rfl⟩)
  obtain ⟨fits, -, state, -⟩ := agrees.holder st step
  exact ⟨l, st, leg, rfl, step, state, fits.1⟩

section
variable {L : List LegRef} (agreed : Agreed s) (holds : ArbiterInv s) (degrees : u.degrees = s.degrees)
include agreed holds degrees

theorem FrozenTo.holder (h : FrozenTo x L s u t) (off : OffDegree d L s) (concerns : LineLeg → Bool) :
    FrozenTo x (L ++ caughtIn (fun l => concerns l && stoppedHolder l) s ((s.arb d).token.toList.map (·.leg))) s u
      (freezeHolder d x concerns t) := by
  unfold freezeHolder
  rw [h.token_of_off agreed off]
  cases token : (s.arb d).token with
  | none => simpa [caughtIn] using h
  | some k =>
    obtain ⟨l, st, leg, egress, step, state, kinds⟩ := agreed.holder token
    have later : k.leg ∉ L := fun mem => off k.leg mem l leg egress
    have leg_t : t.leg? k.leg = some l := (h.leg_of_not_mem later).trans leg
    have test : (concerns l && st.kind.freezable && st.stage != .actuate) = (concerns l && stoppedHolder l) := by
      rw [Bool.and_assoc, freezable_iff, stoppedHolder, step]
      rfl
    dsimp only
    rw [onLeg_of_leg leg_t]
    simp only [step, test]
    cases stops : concerns l && stoppedHolder l with
    | false => simpa [caughtIn, leg, stops] using h
    | true =>
      have up : l.state = .stepping := by
        rw [state, if_neg]
        rw [kinds]
        have := (Bool.and_eq_true_iff.mp stops).2
        rw [stoppedHolder, step] at this
        rintro down
        simp [down] at this
      have froze := h.step (agreed.freezable leg (by simp [up])) later holds degrees
      rw [freezeOne_holder (by rw [step]; rfl) leg_t] at froze
      simpa [caughtIn, leg, stops] using froze

end

theorem freezeEntries_cons (concerns : LineLeg → Bool) (e : UpEntry) (es : List UpEntry) (s : State) : freezeEntries concerns (e :: es) s =
    freezeEntries concerns es (if (s.leg? e.leg).any concerns then freeze e.leg .dark .step s else s) := rfl

theorem FrozenTo.entries {L : List LegRef} (agreed : Agreed s) (holds : ArbiterInv s) (degrees : u.degrees = s.degrees)
    (concerns : LineLeg → Bool) (es : List UpEntry) (h : FrozenTo .dark L s u t) (listed : ∀ e, e ∈ es → e ∈ (s.arb d).up ∨ e ∈ (s.arb d).wait)
    (distinct : (es.map (·.leg)).Nodup) (later : ∀ e, e ∈ es → e.leg ∉ L) :
    FrozenTo .dark (L ++ caughtIn concerns s (es.map (·.leg))) s u (freezeEntries concerns es t) := by
  induction es generalizing L t with
  | nil => simpa [caughtIn, freezeEntries] using h
  | cons e es ih =>
    obtain ⟨fresh, distinct⟩ := List.nodup_cons.mp (show (e.leg :: es.map (·.leg)).Nodup from distinct)
    obtain ⟨l, leg, -, step, -, -, state⟩ := agreed.entry (listed e (by simp))
    have leg_t : t.leg? e.leg = some l := (h.leg_of_not_mem (later e (by simp))).trans leg
    have rest : ∀ e, e ∈ es → e ∈ (s.arb d).up ∨ e ∈ (s.arb d).wait := fun e mem => listed e (List.mem_cons_of_mem _ mem)
    have later' : ∀ e, e ∈ es → e.leg ∉ L := fun e mem => later e (List.mem_cons_of_mem _ mem)
    rw [freezeEntries_cons, leg_t, Option.any_some]
    cases concerned : concerns l with
    | false => simpa [caughtIn, leg, concerned] using ih h rest distinct later'
    | true =>
      have froze := h.step (agreed.freezable leg (by simp at state ⊢; tauto)) (later e (by simp)) holds degrees
      rw [freezeOne_untouched step leg_t] at froze
      have next := ih froze rest distinct (fun e' mem => by
        simp only [List.mem_append, List.mem_singleton, not_or]
        exact ⟨later' e' mem, fun same => fresh (same ▸ List.mem_map_of_mem mem)⟩)
      simpa [caughtIn, leg, concerned] using next

/-- The legs of a degree's arbiter that pass a test, in the order in which they freeze (log 6). -/
def frozenOn (f : LineLeg → Bool) (s : State) (d : Degree) : List LegRef :=
  caughtIn f s ((s.arb d).token.toList.map (·.leg) ++ (s.arb d).up.map (·.leg) ++ (s.arb d).wait.map (·.leg))

theorem frozenOn_egress (agreed : Agreed s) {f : LineLeg → Bool} (mem : r ∈ frozenOn f s d) (leg : s.leg? r = some l) : l.egress = d := by
  refine agreed.egress leg ?_
  have := (mem_caughtIn.mp mem).1
  simp only [List.mem_append] at this ⊢
  tauto

theorem caughtIn_append (f : LineLeg → Bool) (s : State) (as bs : List LegRef) : caughtIn f s (as ++ bs) = caughtIn f s as ++ caughtIn f s bs :=
  List.filter_append ..

theorem caughtIn_congr {f g : LineLeg → Bool} {rs : List LegRef} (same : ∀ r, r ∈ rs → ∀ l, s.leg? r = some l → f l = g l) :
    caughtIn f s rs = caughtIn g s rs := by
  refine List.filter_congr fun r mem => ?_
  cases leg : s.leg? r with
  | none => rfl
  | some l => simp [same r mem l leg]

section
variable {L : List LegRef} (agreed : Agreed s) (holds : ArbiterInv s) (degrees : u.degrees = s.degrees)
include agreed holds degrees

/-- The legs of one degree that a dark ingress concerns freeze: the holder, the UP class, the headroom-wait list (R130). -/
theorem FrozenTo.dark (g : Degree) (h : FrozenTo .dark L s u t) (off : OffDegree d L s) :
    FrozenTo .dark (L ++ frozenOn (frozenByDark g) s d) s u (freezeDarkOn (fun l => l.ingress == .line g) d t) := by
  obtain ⟨ups, waits⟩ := h.lists_of_off agreed off
  have first := h.holder agreed holds degrees off (fun l => l.ingress == .line g)
  have once := (agreed.arbiters d).once
  have up_once : ((s.arb d).up.map (·.leg)).Nodup := ((List.nodup_append.mp (List.nodup_append.mp (List.nodup_append.mp once).1).1).2.1)
  have wait_once : ((s.arb d).wait.map (·.leg)).Nodup := (List.nodup_append.mp (List.nodup_append.mp once).1).2.1
  have apart : ∀ e, e ∈ (s.arb d).wait → ∀ e', e' ∈ (s.arb d).up → e.leg ≠ e'.leg := fun e mem e' mem' =>
    Ne.symm ((List.nodup_append.mp (List.nodup_append.mp once).1).2.2 _ (List.mem_append_right _ (List.mem_map_of_mem mem')) _ (List.mem_map_of_mem mem))
  have not_holder : ∀ e, (e ∈ (s.arb d).up ∨ e ∈ (s.arb d).wait) →
      e.leg ∉ L ++ caughtIn (fun l => l.ingress == .line g && stoppedHolder l) s ((s.arb d).token.toList.map (·.leg)) := by
    intro e mem listed
    obtain ⟨l, leg, egress, step, -⟩ := agreed.entry mem
    rcases List.mem_append.mp listed with listed | listed
    · exact off _ listed l leg egress
    · obtain ⟨-, l', leg', stops⟩ := mem_caughtIn.mp listed
      obtain rfl : l = l' := Option.some.inj (leg.symm.trans leg')
      simp [stoppedHolder, step] at stops
  have second := FrozenTo.entries agreed holds degrees (fun l => l.ingress == .line g) (s.arb d).up first (fun e mem => .inl mem) up_once
    (fun e mem => not_holder e (.inl mem))
  have third := FrozenTo.entries agreed holds degrees (fun l => l.ingress == .line g) (s.arb d).wait second (fun e mem => .inr mem) wait_once
    (fun e mem listed => (List.mem_append.mp listed).elim (not_holder e (.inr mem)) fun listed => by
      obtain ⟨e', mem', same⟩ := List.mem_map.mp (mem_caughtIn.mp listed).1
      exact apart e mem e' mem' same.symm)
  have holders : caughtIn (fun l => l.ingress == .line g && stoppedHolder l) s ((s.arb d).token.toList.map (·.leg))
      = caughtIn (frozenByDark g) s ((s.arb d).token.toList.map (·.leg)) := by
    refine caughtIn_congr fun r mem l leg => ?_
    cases token : (s.arb d).token with
    | none => simp [token] at mem
    | some k =>
      obtain rfl : r = k.leg := by simpa [token] using mem
      obtain ⟨l', st, leg', -, -, state, -⟩ := agreed.holder token
      obtain rfl : l' = l := Option.some.inj (leg'.symm.trans leg)
      have moving : l'.state ≠ .queued ∧ l'.state ≠ .headroomWait := by rw [state]; split <;> exact ⟨nofun, nofun⟩
      simp [frozenByDark, beq_eq_false_iff_ne.mpr moving.1, beq_eq_false_iff_ne.mpr moving.2]
  have waiting (es : List UpEntry) (listed : ∀ e, e ∈ es → e ∈ (s.arb d).up ∨ e ∈ (s.arb d).wait) :
      caughtIn (fun l => l.ingress == .line g) s (es.map (·.leg)) = caughtIn (frozenByDark g) s (es.map (·.leg)) := by
    refine caughtIn_congr fun r mem l leg => ?_
    obtain ⟨e, mem_e, rfl⟩ := List.mem_map.mp mem
    obtain ⟨l', leg', -, -, -, -, state⟩ := agreed.entry (listed e mem_e)
    obtain rfl : l' = l := Option.some.inj (leg'.symm.trans leg)
    rcases (by simpa using state : l'.state = .queued ∨ l'.state = .headroomWait) with state | state <;> simp [frozenByDark, state]
  rw [freezeDarkOn, ups, waits, frozenOn, caughtIn_append, caughtIn_append, ← holders, ← waiting _ fun e mem => .inl mem, ← waiting _ fun e mem => .inr mem,
    ← List.append_assoc, ← List.append_assoc]
  exact third

/-- The holder of one degree that a monitor fault concerns freezes (R131). -/
theorem FrozenTo.fault (h : FrozenTo .monitor L s u t) (off : OffDegree d L s) :
    FrozenTo .monitor (L ++ frozenOn stoppedHolder s d) s u (freezeHolder d .monitor (fun _ => true) t) := by
  have first := h.holder agreed holds degrees off (fun _ => true)
  have none (es : List UpEntry) (listed : ∀ e, e ∈ es → e ∈ (s.arb d).up ∨ e ∈ (s.arb d).wait) :
      caughtIn stoppedHolder s (es.map (·.leg)) = [] := by
    rw [caughtIn, List.filter_eq_nil_iff]
    intro r mem
    obtain ⟨e, mem_e, rfl⟩ := List.mem_map.mp mem
    obtain ⟨l, leg, -, step, -⟩ := agreed.entry (listed e mem_e)
    simp [leg, stoppedHolder, step]
  rw [frozenOn, caughtIn_append, caughtIn_append, none _ fun e mem => .inl mem, none _ fun e mem => .inr mem, List.append_nil, List.append_nil]
  simpa using first
end

/-- What the frozen legs of all degrees come to (R130, R131, R137). -/
theorem FrozenTo.legsFrozen {f : LineLeg → Bool} (agreed : Agreed s) (m : Monitor) (w : PerDegree Watch)
    (moving : ∀ l, f l = true → l.state = .queued ∨ l.state = .headroomWait ∨ l.step.isSome = true)
    (h : FrozenTo x ([Degree.d1, .d2, .d3, .d4].flatMap (frozenOn f s)) s { s with monitor := m, watches := w } t) :
    LegsFrozen x f s { s with monitor := m, watches := w } t := by
  have caught (r : LegRef) : r ∈ [Degree.d1, .d2, .d3, .d4].flatMap (frozenOn f s) ↔ (s.leg? r).any f = true := by
    rw [Option.any_eq_true]
    refine ⟨fun mem => ?_, fun ⟨l, leg, yes⟩ => ?_⟩
    · obtain ⟨d, -, mem⟩ := List.mem_flatMap.mp mem
      exact (mem_caughtIn.mp mem).2
    · refine List.mem_flatMap.mpr ⟨l.egress, by cases l.egress <;> simp, mem_caughtIn.mpr ⟨?_, l, leg, yes⟩⟩
      obtain ⟨c, -, -, -, agrees⟩ := agreed.leg leg
      simp only [List.mem_append]
      rcases moving l yes with state | state | step
      · exact .inl (.inr (agrees.up.mp state))
      · exact .inr (agrees.wait.mp state)
      · obtain ⟨k, token, rfl⟩ := agrees.token.mp step
        exact .inl (.inl (by simp [token]))
  have decides (r : LegRef) : decide (r ∈ [Degree.d1, .d2, .d3, .d4].flatMap (frozenOn f s)) = (s.leg? r).any f := by
    rw [Bool.eq_iff_iff, decide_eq_true_eq, caught]
  have stopped (q : ScanRequest) : stoppedBy ([Degree.d1, .d2, .d3, .d4].flatMap (frozenOn f s)) s q = (match q.requester with
      | .leg r => (s.leg? r).any f && (s.leg? r).any (fun l => l.step.isSome)
      | _ => false) := by
    unfold stoppedBy
    split
    · next r asked => rw [decides]
    · next other => rfl
  refine ⟨fun r l leg => ?_, h.order, fun d => ?_, ?_, h.rest.untold.params, h.rest.outer, h.rest.untold.ports, h.rest.untold.links, h.rest.map,
    h.rest.watches, h.rest.actuators, h.rest.untold.results⟩
  · rw [h.legs, leg, Option.map_some]
    simp only [caught, leg, Option.any_some]
  · rw [h.arb]
    simp only [decides, decide_not]
  · rw [h.monitor]
    simp only [stopped] <;> rfl

theorem stoppedHolder_step (l : LineLeg) (stops : stoppedHolder l = true) : l.step.isSome = true := by
  rw [stoppedHolder, Option.any_eq_true] at stops
  obtain ⟨st, step, -⟩ := stops
  rw [step]
  rfl

theorem OffDegree.flatMap (agreed : Agreed s) {f : LineLeg → Bool} {d : Degree} {ds : List Degree} (other : d ∉ ds) : OffDegree d (ds.flatMap (frozenOn f s)) s := by
  intro r mem l leg
  obtain ⟨e, mem_e, mem⟩ := List.mem_flatMap.mp mem
  rw [frozenOn_egress agreed mem leg]
  rintro rfl
  exact other mem_e

section
variable (sound : Sound s) (agreed : Agreed s) (m : Monitor) (w : PerDegree Watch)
include sound agreed

theorem freezeDark_legs (g : Degree) : LegsFrozen .dark (frozenByDark g) s { s with monitor := m, watches := w } (freezeDark g { s with monitor := m, watches := w }) := by
  have moving : ∀ l, frozenByDark g l = true → l.state = .queued ∨ l.state = .headroomWait ∨ l.step.isSome = true := by
    intro l yes
    have : (l.state = .queued ∨ l.state = .headroomWait) ∨ stoppedHolder l = true := by
      simpa using (Bool.and_eq_true_iff.mp yes).2
    exact or_assoc.mp (this.imp_right (stoppedHolder_step l))
  have start : FrozenTo .dark (([] : List Degree).flatMap (frozenOn (frozenByDark g) s)) s { s with monitor := m, watches := w } { s with monitor := m, watches := w } :=
    FrozenTo.nil rfl rfl rfl
  have step {ds : List Degree} {d : Degree} {t : State} (other : d ∉ ds)
      (h : FrozenTo .dark (ds.flatMap (frozenOn (frozenByDark g) s)) s { s with monitor := m, watches := w } t) :
      FrozenTo .dark ((ds ++ [d]).flatMap (frozenOn (frozenByDark g) s)) s { s with monitor := m, watches := w } (freezeDarkOn (fun l => l.ingress == .line g) d t) := by
    rw [List.flatMap_append, List.flatMap_cons, List.flatMap_nil, List.append_nil]
    exact FrozenTo.dark (u := { s with monitor := m, watches := w }) agreed sound.arbiters rfl g h (.flatMap agreed other)
  have all := step (d := .d4) (by simp) (step (d := .d3) (by simp) (step (d := .d2) (by simp) (step (d := .d1) (by simp) start)))
  exact FrozenTo.legsFrozen agreed m w moving all

theorem freezeMonitor_legs : LegsFrozen .monitor stoppedHolder s { s with monitor := m, watches := w } (freezeMonitor { s with monitor := m, watches := w }) := by
  have start : FrozenTo .monitor (([] : List Degree).flatMap (frozenOn stoppedHolder s)) s { s with monitor := m, watches := w } { s with monitor := m, watches := w } :=
    FrozenTo.nil rfl rfl rfl
  have step {ds : List Degree} {d : Degree} {t : State} (other : d ∉ ds)
      (h : FrozenTo .monitor (ds.flatMap (frozenOn stoppedHolder s)) s { s with monitor := m, watches := w } t) :
      FrozenTo .monitor ((ds ++ [d]).flatMap (frozenOn stoppedHolder s)) s { s with monitor := m, watches := w } (freezeHolder d .monitor (fun _ => true) t) := by
    rw [List.flatMap_append, List.flatMap_cons, List.flatMap_nil, List.append_nil]
    exact FrozenTo.fault (u := { s with monitor := m, watches := w }) agreed sound.arbiters rfl h (.flatMap agreed other)
  have all := step (d := .d4) (by simp) (step (d := .d3) (by simp) (step (d := .d2) (by simp) (step (d := .d1) (by simp) start)))
  exact FrozenTo.legsFrozen agreed m w (fun l yes => .inr (.inr (stoppedHolder_step l yes))) all
end

/-! ### Frozen legs thawed one after another (R102, R132) -/

theorem joinUp_legsOnly (r : LegRef) (k : RequestKind) (s : State) : LegsOnly s (joinUp r k s) := by
  cases leg : s.leg? r with
  | none => rw [joinUp, onLeg_of_none leg]; exact .refl
  | some l =>
    cases dark : s.ingressDark l.ingress with
    | true => rw [joinUp_of_dark leg dark]; exact freeze_legsOnly ..
    | false =>
      rw [joinUp_of_bright leg dark]
      exact ⟨.quiet, rfl, rfl, rfl, setLeg_outer ..⟩

/-- A frozen leg's watch-dark ingress, in the state it thaws in. -/
def darkIn (u : State) (l : LineLeg) : Bool := u.ingressDark l.ingress

/-- The leg as its thaw leaves it: QUEUED, or frozen again at a DARK ingress (R102, R132). -/
def thawedLeg (s u : State) (l : LineLeg) : LineLeg :=
  match l.frozen with
  | some (_, k) => if darkIn u l then FrozenLeg s .dark k l else { l with state := .queued, frozen := none, darkTimer := none }
  | none => l

/-- The entry a thawed leg joins the UP class of degree `d` with (R132). -/
def joins (u : State) (d : Degree) (r : LegRef) (l : LineLeg) : Option UpEntry :=
  if !darkIn u l && l.egress == d then l.frozen.map (fun y => ⟨r, y.2⟩) else none

/-- From `u`, which is `s` but for monitor and watches, to `t` the legs of the list have thawed, in its order. -/
structure ThawedTo (L : List LegRef) (s u t : State) : Prop where
  legs    : ∀ r, t.leg? r = (s.leg? r).map (fun l => if r ∈ L then thawedLeg s u l else l)
  order   : t.frozenOrder = s.frozenOrder.filter (fun r => decide (r ∉ L)) ++ L.filter (fun r => (s.leg? r).any (darkIn u))
  arb     : ∀ d, t.arb d = { s.arb d with up := (s.arb d).up ++ L.filterMap (fun r => (s.leg? r).bind (joins u d r)) }
  monitor : t.monitor = u.monitor
  rest    : LegsOnly u t

theorem ThawedTo.nil (jobs : u.jobs = s.jobs) (order : u.frozenOrder = s.frozenOrder) (arbiters : u.arbiters = s.arbiters) : ThawedTo [] s u u := by
  refine ⟨fun r => ?_, by simp [order], fun d => ?_, rfl, .refl⟩
  · rw [leg?_of_jobs jobs]
    simp
  · rw [State.arb, arbiters]
    simp [State.arb]

/-- A frozen leg is named by no collection of an arbiter. -/
structure Unlisted (s : State) (r : LegRef) : Prop where
  token   : ∀ d k, (s.arb d).token = some k → k.leg ≠ r
  down    : ∀ d, r ∉ (s.arb d).down
  up      : ∀ d e, e ∈ (s.arb d).up → e.leg ≠ r
  wait    : ∀ d e, e ∈ (s.arb d).wait → e.leg ≠ r
  backoff : ∀ d, r ∉ (s.arb d).backoff

theorem Agreed.unlisted (agreed : Agreed s) (leg : s.leg? r = some l) (state : l.state = .frozen) : Unlisted s r := by
  obtain ⟨c, -, -, -, agrees⟩ := agreed.leg leg
  refine ⟨fun d k token same => ?_, fun d listed => ?_, fun d e mem same => ?_, fun d e mem same => ?_, fun d listed => ?_⟩
  · obtain ⟨l', st, leg', -, -, moving, -⟩ := agreed.holder token
    obtain rfl : l = l' := Option.some.inj (leg.symm.trans (same ▸ leg'))
    rw [state] at moving
    split at moving <;> cases moving
  · obtain rfl := agreed.egress (d := d) leg (by simp [listed])
    have := (agrees.down.mpr listed).1
    rw [state] at this
    cases this
  · obtain ⟨l', leg', -, -, -, -, moving⟩ := agreed.entry (.inl mem)
    obtain rfl : l = l' := Option.some.inj (leg.symm.trans (same ▸ leg'))
    simp [state] at moving
  · obtain ⟨l', leg', -, -, -, -, moving⟩ := agreed.entry (.inr mem)
    obtain rfl : l = l' := Option.some.inj (leg.symm.trans (same ▸ leg'))
    simp [state] at moving
  · obtain rfl := agreed.egress (d := d) leg (by simp [listed])
    have := agrees.back.mpr listed
    rw [state] at this
    cases this

/-- An arbiter that names a leg nowhere is left as it is when the leg is taken out of it. -/
theorem arbiter_without_unlisted {a : Arbiter} {holdAll : Bool} (agrees : a.HoldAgrees holdAll) (token : ∀ k, a.token = some k → k.leg ≠ r)
    (down : r ∉ a.down) (up : ∀ e, e ∈ a.up → e.leg ≠ r) (wait : ∀ e, e ∈ a.wait → e.leg ≠ r) (backoff : r ∉ a.backoff) :
    ({ Arbiter.releaseToken r a with
        down := a.down.filter (· ≠ r), up := a.up.filter (fun e => e.leg ≠ r), wait := a.wait.filter (fun e => e.leg ≠ r),
        backoff := a.backoff.filter (· ≠ r), held := holdAll && !(a.backoff.filter (· ≠ r)).isEmpty } : Arbiter) = a := by
  have refs {rs : List LegRef} (away : r ∉ rs) : rs.filter (· ≠ r) = rs := List.filter_eq_self.mpr fun q mem => by
    simp only [decide_eq_true_eq]
    rintro rfl
    exact away mem
  have lists {es : List UpEntry} (away : ∀ e, e ∈ es → e.leg ≠ r) : es.filter (fun e => e.leg ≠ r) = es :=
    List.filter_eq_self.mpr fun e mem => by simpa using away e mem
  have kept : (Arbiter.releaseToken r a).token = a.token := by
    simp only [Arbiter.releaseToken]
    cases held : a.token with
    | none => rfl
    | some k => simp [token k held]
  simp only [Arbiter.releaseToken] at kept ⊢
  rw [refs down, refs backoff, lists up, lists wait, kept, ← show a.held = (holdAll && !a.backoff.isEmpty) from agrees]

theorem ThawedTo.step {L : List LegRef} (h : ThawedTo L s u t) (leg : s.leg? r = some l) (frozen : l.frozen = some (x, k)) (later : r ∉ L)
    (listed : r ∈ s.frozenOrder) (unlisted : Unlisted s r) (holds : ArbiterInv s) (degrees : u.degrees = s.degrees) :
    ThawedTo (L ++ [r]) s u (thaw r t) := by
  have leg_t : t.leg? r = some l := by
    rw [h.legs, leg]
    simp [later]
  rw [thaw_of_frozen leg_t frozen]
  obtain ⟨v, thaws⟩ : ∃ v : State, v = { t with
      jobs := setLeg r (fun y => { y with frozen := none, darkTimer := none }) t.jobs
      frozenOrder := t.frozenOrder.filter (· ≠ r) } := ⟨_, rfl⟩
  rw [← thaws]
  have leg_v : v.leg? r = some { l with frozen := none, darkTimer := none } := leg?_setLeg leg_t (congrArg State.jobs thaws)
  have others (q : LegRef) (other : q ≠ r) : v.leg? q = t.leg? q := leg?_setLeg_other other (congrArg State.jobs thaws)
  have only : LegsOnly t v := by
    rw [thaws]
    exact ⟨.quiet, rfl, rfl, rfl, setLeg_outer ..⟩
  have degrees_v : v.degrees = s.degrees := (only.untold.params.2.1.trans h.rest.untold.params.2.1).trans degrees
  have watches_v : v.watches = u.watches := only.watches.trans h.rest.watches
  have dark_v : v.ingressDark l.ingress = darkIn u l := by simp only [darkIn, State.ingressDark, State.watch, watches_v]
  have arb_v (d : Degree) : v.arb d = t.arb d := by rw [thaws]; rfl
  have order_v : v.frozenOrder = s.frozenOrder.filter (fun q => decide (q ∉ L ++ [r])) ++ L.filter (fun r => (s.leg? r).any (darkIn u)) := by
    rw [thaws]
    show t.frozenOrder.filter (· ≠ r) = _
    have before : (s.frozenOrder.filter (fun q => decide (q ∉ L))).filter (· ≠ r) = s.frozenOrder.filter (fun q => decide (q ∉ L ++ [r])) := by
      rw [List.filter_filter]
      exact List.filter_congr fun q _ => by simp [and_comm]
    have after : (L.filter (fun r => (s.leg? r).any (darkIn u))).filter (· ≠ r) = L.filter (fun r => (s.leg? r).any (darkIn u)) :=
      List.filter_eq_self.mpr fun q mem => by
        simp only [decide_eq_true_eq]
        rintro rfl
        exact later (List.mem_of_mem_filter mem)
    rw [h.order, List.filter_append, before, after]
  have thawed : thawedLeg s u l = if darkIn u l then FrozenLeg s .dark k l else { l with state := .queued, frozen := none, darkTimer := none } := by
    simp only [thawedLeg, frozen]
  have legs_of (w : State) (y : LineLeg) (own : w.leg? r = some y) (same : y = thawedLeg s u l) (rest : ∀ q, q ≠ r → w.leg? q = v.leg? q) (q : LegRef) :
      w.leg? q = (s.leg? q).map (fun l => if q ∈ L ++ [r] then thawedLeg s u l else l) := by
    by_cases here : q = r
    · subst here
      rw [own, same, leg]
      simp
    · rw [rest q here, others q here, h.legs]
      simp [here]
  cases dark : darkIn u l with
  | false =>
    have joined := joinUp_of_bright (k := k) leg_v (dark_v.trans dark)
    rw [dark, if_neg (by simp)] at thawed
    refine ⟨legs_of _ _ (leg?_setLeg leg_v (congrArg State.jobs joined)) thawed.symm
      fun q other => leg?_setLeg_other other (congrArg State.jobs joined), ?_, fun d => ?_, ?_, h.rest.trans (only.trans (joinUp_legsOnly ..))⟩
    · rw [joined]
      show v.frozenOrder = _
      rw [order_v, List.filter_append, List.filter_cons_of_neg (by simp [leg, dark]), List.filter_nil, List.append_nil]
    · rw [joined]
      show PerDegree.get _ d = _
      rw [PerDegree.get_set, List.filterMap_append]
      by_cases here : d = l.egress
      · subst here
        have own : joins u l.egress r l = some ⟨r, k⟩ := by simp [joins, dark, frozen]
        rw [if_pos rfl]
        simp only [arb_v, h.arb, List.filterMap_cons, List.filterMap_nil, leg, Option.bind_some, own, List.append_assoc]
      · have none : joins u d r l = none := by simp [joins, Ne.symm here]
        rw [if_neg here]
        show v.arb d = _
        simp only [arb_v, h.arb, List.filterMap_cons, List.filterMap_nil, leg, Option.bind_some, none, List.append_nil]
    · rw [joined]
      show v.monitor = _
      rw [thaws]
      exact h.monitor
  | true =>
    have froze := freeze_eq leg_v .dark k
    rw [dark, if_pos rfl] at thawed
    rw [joinUp_of_dark leg_v (dark_v.trans dark)]
    refine ⟨legs_of _ _ (leg?_setLeg leg_v (congrArg State.jobs froze)) ?_
      fun q other => leg?_setLeg_other other (congrArg State.jobs froze), ?_, fun d => ?_, ?_, h.rest.trans (only.trans (freeze_legsOnly ..))⟩
    · rw [thawed, frozenLeg_of_degrees degrees_v]
      simp only [State.deg, degrees_v]
      rfl
    · rw [froze]
      show v.frozenOrder.filter (· ≠ r) ++ [r] = _
      rw [order_v, List.filter_eq_self.mpr fun q mem => ?_, List.filter_append (p := fun r => (s.leg? r).any (darkIn u)),
        List.filter_cons_of_pos (by simp [leg, dark]), List.filter_nil, List.append_assoc]
      simp only [decide_eq_true_eq]
      rintro rfl
      simp [later] at mem
    · rw [froze]
      show PerDegree.get _ d = _
      have none (e : Degree) : joins u e r l = none := by simp [joins, dark]
      rw [PerDegree.get_set, List.filterMap_append]
      simp only [List.filterMap_cons, List.filterMap_nil, leg, Option.bind_some, none, List.append_nil]
      rw [← h.arb]
      split
      · next here =>
        subst here
        have agrees : Arbiter.HoldAgrees (v.deg l.egress).holdAll (t.arb l.egress) := by
          have holdAll : v.deg l.egress = s.deg l.egress := by simp only [State.deg, degrees_v]
          rw [holdAll, h.arb]
          exact holds l.egress
        have joined : ∀ e, e ∈ (t.arb l.egress).up → e.leg ≠ r := by
          rw [h.arb]
          intro e mem
          rcases List.mem_append.mp mem with mem | mem
          · exact unlisted.up _ e mem
          · obtain ⟨q, mem_q, at_q⟩ := List.mem_filterMap.mp mem
            obtain ⟨y, -, joined⟩ := Option.bind_eq_some_iff.mp at_q
            have : e.leg = q := by
              unfold joins at joined
              split at joined
              · obtain ⟨z, -, rfl⟩ := Option.map_eq_some_iff.mp joined
                rfl
              · cases joined
            rw [this]
            rintro rfl
            exact later mem_q
        have away := arbiter_without_unlisted agrees (r := r) (by rw [h.arb]; exact unlisted.token _) (by rw [h.arb]; exact unlisted.down _) joined
          (by rw [h.arb]; exact unlisted.wait _) (by rw [h.arb]; exact unlisted.backoff _)
        simp only [State.arbFree, arb_v]
        exact away
      · exact arb_v d
    · rw [froze]
      show v.monitor = _
      rw [thaws]
      exact h.monitor

/-- What the thawed legs of a list come to (R102, R132). -/
theorem ThawedTo.foldl {L : List LegRef} (agreed : Agreed s) (holds : ArbiterInv s) (degrees : u.degrees = s.degrees) (rs : List LegRef)
    (h : ThawedTo L s u t) (distinct : rs.Nodup) (later : ∀ r, r ∈ rs → r ∉ L) (listed : ∀ r, r ∈ rs → r ∈ s.frozenOrder) :
    ThawedTo (L ++ rs) s u (rs.foldl (fun s r => thaw r s) t) := by
  induction rs generalizing L t with
  | nil => simpa using h
  | cons r rs ih =>
    obtain ⟨fresh, distinct⟩ := List.nodup_cons.mp distinct
    obtain ⟨l, leg⟩ := Option.isSome_iff_exists.mp (agreed.frozen.2 r (listed r (by simp)))
    obtain ⟨c, -, -, -, agrees⟩ := agreed.leg leg
    have state : l.state = .frozen := agrees.frozen.mpr (listed r (by simp))
    obtain ⟨⟨x, k⟩, frozen⟩ := Option.isSome_iff_exists.mp (agrees.timers.2.2.2.2.1.mpr state)
    have next := ih (h.step leg frozen (later r (by simp)) (listed r (by simp)) (agreed.unlisted leg state) holds degrees) distinct
      (fun q mem => by
        simp only [List.mem_append, List.mem_singleton, not_or]
        exact ⟨later q (by simp [mem]), fun same => fresh (same ▸ mem)⟩)
      (fun q mem => listed q (by simp [mem]))
    rw [List.foldl_cons]
    simpa using next

theorem thawWhere_legs (sound : Sound s) (agreed : Agreed s) (m : Monitor) (w : PerDegree Watch) {f : LineLeg → Bool}
    (frozen : ∀ l, f l = true → l.frozen.isSome = true) :
    LegsThawed f s { s with monitor := m, watches := w } (thawWhere f { s with monitor := m, watches := w }) := by
  have all : ThawedTo ([] ++ s.frozenOrder.filter (fun r => (s.leg? r).any f)) s { s with monitor := m, watches := w }
      (thawWhere f { s with monitor := m, watches := w }) :=
    ThawedTo.foldl (u := { s with monitor := m, watches := w }) agreed sound.arbiters rfl _ (.nil rfl rfl rfl) (agreed.frozen.1.filter _) (fun _ _ => by simp) (fun r mem => List.mem_of_mem_filter mem)
  rw [List.nil_append] at all
  have listed (l : LineLeg) {r : LegRef} (leg : s.leg? r = some l) (yes : f l = true) : r ∈ s.frozenOrder := by
    obtain ⟨c, -, -, -, agrees⟩ := agreed.leg leg
    exact agrees.frozen.mp (agrees.timers.2.2.2.2.1.mp (frozen l yes))
  refine ⟨fun r l leg => ⟨fun no => ?_, fun yes x k cause => ?_⟩, ?_, fun d => ?_, all.monitor, all.rest.untold.params, all.rest.outer, all.rest.untold.ports,
    all.rest.untold.links, all.rest.map, all.rest.watches, all.rest.actuators, all.rest.untold.results⟩
  · rw [all.legs, leg, Option.map_some, if_neg (by simp [leg, no])]
  · rw [all.legs, leg, Option.map_some, if_pos (List.mem_filter.mpr ⟨listed l leg yes, by simp [leg, yes]⟩)]
    show some (thawedLeg s _ l) = some (if darkIn { s with monitor := m, watches := w } l then FrozenLeg s .dark k l
      else { l with state := .queued, frozen := none, darkTimer := none })
    simp only [thawedLeg, cause]
  · rw [all.order, List.filter_filter]
    refine congrArg₂ (· ++ ·) (List.filter_congr fun r mem => ?_) (List.filter_congr fun r _ => ?_)
    · cases caught : (s.leg? r).any f <;> simp [mem, caught]
    · show ((s.leg? r).any (darkIn { s with monitor := m, watches := w }) && (s.leg? r).any f)
        = (s.leg? r).any (fun l => f l && darkIn { s with monitor := m, watches := w } l)
      cases s.leg? r with
      | none => rfl
      | some l => exact Bool.and_comm ..
  · rw [all.arb, List.filterMap_filter]
    refine congrArg (fun es => ({ s.arb d with up := (s.arb d).up ++ es } : Arbiter)) (congrArg (List.filterMap · s.frozenOrder) (funext fun r => ?_))
    show (if (s.leg? r).any f = true then (s.leg? r).bind (joins { s with monitor := m, watches := w } d r) else none)
      = (s.leg? r).bind (fun l => if f l && !darkIn { s with monitor := m, watches := w } l && l.egress == d then l.frozen.map (fun y => ⟨r, y.2⟩) else none)
    cases s.leg? r with
    | none => rfl
    | some l => cases yes : f l <;> simp [yes, joins]

/-- Settles O47: the legs named are frozen, and thawed, one after another, each by what one freeze or one thaw does. -/
theorem freezesAndThawsFollowTheirTables : Obligations.FreezesAndThawsFollowTheirTables := by
  intro g m w s sound agreed
  refine ⟨freezeDark_legs sound agreed m w g, freezeMonitor_legs sound agreed m w, thawWhere_legs sound agreed m w fun l yes => ?_,
    thawWhere_legs sound agreed m w fun l yes => ?_⟩
  · obtain ⟨-, yes⟩ := Bool.and_eq_true_iff.mp yes
    exact Option.isSome_of_any yes
  · exact Option.isSome_of_any yes

end Sys2Proof.Machine
end

section
/-! PROOFS. Watch results and scan timeouts: the dark state of a degree and the state of the monitor (R14, R15, R130, R138 to R141). -/

namespace Sys2Proof.Machine

variable {s t u : State} {r q : LegRef} {l : LineLeg} {c : Context} {d e g : Degree} {id : JobId}

/-! ### What grant passes and scan issues leave of watches and monitor -/

theorem onCtx_field {α : Type} {p : State → α} {k : Context → State → State} (acts : ∀ c, p (k c s) = p s) : p (onCtx id k s) = p s := by
  unfold onCtx
  split
  · exact acts _
  · rfl

theorem onLeg_field {α : Type} {p : State → α} {k : LineLeg → State → State} (acts : ∀ l, p (k l s) = p s) : p (onLeg r k s) = p s := by
  unfold onLeg
  split
  · exact acts _
  · rfl

theorem askScan_watches (r : LegRef) (s : State) : (askScan r s).watches = s.watches := by
  refine onCtx_field fun c => onLeg_field fun l => ?_
  split <;> rfl

theorem actuate_devices (r : LegRef) (s : State) : ((actuate r s).watches, (actuate r s).monitor) = (s.watches, s.monitor) := by
  refine onCtx_field (p := fun s => (s.watches, s.monitor)) fun c => onLeg_field (p := fun s => (s.watches, s.monitor)) fun l => ?_
  split
  · dsimp only
    split <;> rfl
  · rfl

theorem startDown_devices (r : LegRef) (s : State) : ((startDown r s).watches, (startDown r s).monitor) = (s.watches, s.monitor) :=
  onLeg_field (p := fun s => (s.watches, s.monitor)) fun _ => actuate_devices ..

theorem beginUp_watches (r : LegRef) (k : StepKind) (request : Int) (s : State) : (beginUp r k request s).watches = s.watches := by
  refine onCtx_field fun c => onLeg_field fun l => ?_
  dsimp only
  split
  · unfold afterBaseline
    split
    · exact askScan_watches ..
    · exact (Prod.mk.inj (actuate_devices ..)).1
  · exact askScan_watches ..

theorem grantPass_watches (d : Degree) (s : State) : (grantPass d s).watches = s.watches := by
  by_cases free : (s.arb d).token = none
  case neg => rw [grantPass_of_token free]
  cases able : (s.act d).faulted with
  | true => rw [grantPass_of_faulted able]
  | false =>
    cases down : (s.arb d).down with
    | cons q rest =>
      rw [grantPass_down free able down]
      exact (Prod.mk.inj (startDown_devices ..)).1
    | nil =>
      by_cases fault : s.monitor.state = .fault
      · rw [grantPass_of_monitor down fault]
      · rcases grantPass_up free able down fault with ⟨-, eq⟩ | ⟨pre, x, post, h, l, -, -, -, -, -, -, eq⟩
        · rw [eq]
          rfl
        · rw [eq]
          exact beginUp_watches ..

/-- In FAULT a grant pass asks for no scan. -/
theorem grantPass_monitor_of_fault (fault : s.monitor.state = .fault) (d : Degree) : (grantPass d s).monitor = s.monitor := by
  by_cases free : (s.arb d).token = none
  case neg => rw [grantPass_of_token free]
  cases able : (s.act d).faulted with
  | true => rw [grantPass_of_faulted able]
  | false =>
    cases down : (s.arb d).down with
    | cons q rest =>
      rw [grantPass_down free able down]
      exact (Prod.mk.inj (startDown_devices ..)).2
    | nil => rw [grantPass_of_monitor down fault]

theorem issueNext_of_fault (fault : s.monitor.state = .fault) : issueNext s = s := by
  rw [issueNext, fault]
  simp

theorem settleAct_of_fault (fault : s.monitor.state = .fault) : (settleAct s).monitor = s.monitor ∧ (settleAct s).watches = s.watches := by
  have m1 := grantPass_monitor_of_fault fault .d1
  have m2 := (grantPass_monitor_of_fault (m1 ▸ fault) .d2).trans m1
  have m3 := (grantPass_monitor_of_fault (m2 ▸ fault) .d3).trans m2
  have m4 := (grantPass_monitor_of_fault (m3 ▸ fault) .d4).trans m3
  have all : settleAct s = grantPass .d4 (grantPass .d3 (grantPass .d2 (grantPass .d1 s))) := issueNext_of_fault (m4 ▸ fault)
  rw [all]
  exact ⟨m4, by simp only [grantPass_watches]⟩

/-- The issue of a scan leaves dark states and their runs. -/
theorem issueNext_watch_dark (d : Degree) (s : State) : ((issueNext s).watch d).dark = (s.watch d).dark ∧ ((issueNext s).watch d).run = (s.watch d).run := by
  unfold issueNext
  split
  · exact ⟨rfl, rfl⟩
  · split
    · exact ⟨rfl, rfl⟩
    · next request rest _ =>
      unfold markIssued
      split
      · rw [modWatch_watch]
        split <;> exact ⟨by subst_vars; rfl, by subst_vars; rfl⟩
      · exact ⟨rfl, rfl⟩

theorem settleAct_watch_dark (d : Degree) (s : State) : ((settleAct s).watch d).dark = (s.watch d).dark ∧ ((settleAct s).watch d).run = (s.watch d).run := by
  obtain ⟨dark, run⟩ := issueNext_watch_dark d (grantAll s)
  have same : (grantAll s).watch d = s.watch d := by simp only [State.watch, grantAll, grantPass_watches]
  exact ⟨dark.trans (congrArg Watch.dark same), run.trans (congrArg Watch.run same)⟩

/-! ### SCAN_TIMEOUT (R138, R139) -/

theorem freeze_monitor (r : LegRef) (x : FrozenBy) (k : RequestKind) (s : State) : (freeze r x k s).monitor = s.monitor :=
  onLeg_field (p := State.monitor) fun _ => rfl

/-- With nothing queued and nothing in flight a freeze of the holders leaves the monitor port. -/
theorem freezeHolder_idle {m : Monitor} (d : Degree) (x : FrozenBy) (concerns : LineLeg → Bool) (monitor : s.monitor = m) (empty : m.queue = [])
    (idle : m.flight = none) : (freezeHolder d x concerns s).monitor = m := by
  unfold freezeHolder
  split
  · refine (onLeg_field (p := State.monitor) fun l => ?_).trans monitor
    split
    · split
      · next token _ =>
        rw [freeze_monitor]
        show Monitor.withdraw _ s.monitor = s.monitor
        simp [Monitor.withdraw, monitor, empty, idle]
        cases m
        simp_all
      · rfl
    · rfl
  · exact monitor

theorem freezeMonitor_idle {m : Monitor} (monitor : s.monitor = m) (empty : m.queue = []) (idle : m.flight = none) : (freezeMonitor s).monitor = m := by
  refine freezeHolder_idle .d4 _ _ (freezeHolder_idle .d3 _ _ (freezeHolder_idle .d2 _ _ (freezeHolder_idle .d1 _ _ monitor empty idle) empty idle) empty idle)
    empty idle

theorem LegsOnly.onLeg {k : LineLeg → State → State} (acts : ∀ l, LegsOnly s (k l s)) : LegsOnly s (onLeg r k s) := by
  unfold Machine.onLeg
  split
  · exact acts _
  · exact .refl

theorem freezeHolder_legsOnly (d : Degree) (x : FrozenBy) (concerns : LineLeg → Bool) (s : State) : LegsOnly s (freezeHolder d x concerns s) := by
  unfold freezeHolder
  split
  · refine LegsOnly.onLeg fun l => ?_
    split
    · split
      · exact (LegsOnly.quiet (t := withdraw _ s) .quiet).trans ((LegsOnly.modLeg ..).trans (freeze_legsOnly ..))
      · exact .refl
    · exact .refl
  · exact .refl

theorem freezeMonitor_legsOnly (s : State) : LegsOnly s (freezeMonitor s) :=
  (freezeHolder_legsOnly .d1 _ _ s).trans ((freezeHolder_legsOnly .d2 _ _ _).trans ((freezeHolder_legsOnly .d3 _ _ _).trans (freezeHolder_legsOnly .d4 _ _ _)))

theorem settleAct_outer (s : State) : (settleAct s).jobs.map Context.outer = s.jobs.map Context.outer :=
  (settleAct_quiet s).2.2.2

/-- The state that a reissued scan's timeout leaves before its holders freeze (R139). -/
def Faulted (s : State) : State :=
  { s with
    monitor := ⟨[], none, s.monitor.nextIssue, .fault, some 1000⟩
    watches :=
      let stopped (d : Degree) : Watch := ⟨(s.watch d).dark, 0, .stopped, none⟩
      ⟨stopped .d1, stopped .d2, stopped .d3, stopped .d4⟩ }

theorem Faulted_eq (s : State) : Faulted s = stopWatches (modMonitor Monitor.fail s) := rfl

theorem exec_scanTimeout (s : State) : exec .scanTimeout s = .next (scanTimeout s) := rfl

/-- Settles O55. -/
theorem scanTimeoutReissuesThenFaults : Obligations.ScanTimeoutReissuesThenFaults := by
  unfold Obligations.ScanTimeoutReissuesThenFaults
  intro s
  simp only [exec_scanTimeout]
  refine ⟨fun idle => ?_, fun f flying => ⟨fun running => ?_, fun out probe => ?_, fun out other first => ?_, fun out other again => ?_⟩⟩
  · simp only [scanTimeout, idle]
  · simp only [scanTimeout, flying, if_pos running]
  · simp only [scanTimeout, flying, out, probe, ne_eq, not_true, if_false, if_true]
    rfl
  · simp only [scanTimeout, flying, out, other, first, ne_eq, not_true, if_false, Bool.false_eq_true]
    rfl
  · have act : scanTimeout s = settleAct (announce .monitor none 2 (freezeMonitor (Faulted s))) := by
      simp only [scanTimeout, flying, out, other, again, ne_eq, not_true, if_false, if_true]
      rfl
    have monitor : (freezeMonitor (Faulted s)).monitor = ⟨[], none, s.monitor.nextIssue, .fault, some 1000⟩ := freezeMonitor_idle rfl rfl rfl
    have only := freezeMonitor_legsOnly (Faulted s)
    have told := settleAct_untold (announce .monitor none 2 (freezeMonitor (Faulted s)))
    obtain ⟨kept, watches⟩ := settleAct_of_fault (s := announce .monitor none 2 (freezeMonitor (Faulted s))) (by rw [announce_monitor, monitor])
    refine ⟨_, congrArg Host.Outcome.next act, rfl, kept.trans monitor, fun d => ?_, fun q => ?_, ?_, ?_, ?_, ?_⟩
    · rw [State.watch, watches, announce_watches, only.watches]
      cases d <;> rfl
    · rw [told.port, announce_port, only.untold.time, only.untold.port]
      rfl
    · exact (only.untold.params).trans told.params
    · exact told.links.trans only.untold.links
    · exact told.results.trans only.untold.results
    · exact (settleAct_outer _).trans only.outer

/-! ### Watch results (R14, R15, R141) -/

/-- What a watch total says against the dark state that stands (R15). -/
def againstDark (low : Bool) (w : Watch) : Bool := if w.dark = .lit then low else !low

theorem Watch.decide_of_stays {low : Bool} {w : Watch} (stays : (againstDark low w && w.run != 0) = false) :
    Watch.decide low w = { w with run := if againstDark low w then 1 else 0 } := by
  unfold Watch.decide againstDark at *
  cases dark : w.dark <;> cases low <;> simp_all

theorem Watch.decide_of_turns {low : Bool} {w : Watch} (turns : (againstDark low w && w.run != 0) = true) :
    Watch.decide low w = { w with dark := if w.dark = .lit then .dark else .lit, run := 0 } := by
  unfold Watch.decide againstDark at *
  cases dark : w.dark <;> cases low <;> simp_all

/-- The state with a watch's result taken and its dark state decided (R141). -/
def Watched (g : Degree) (x : Dark) (run : Nat) (s : State) : State :=
  { Landed s with watches := s.watches.set g ⟨x, run, .waiting, some s.node.watchInterval⟩ }

theorem watchResult_eq {rs : List Int} {low : Bool} (total : watchLow (foldLevels rs) (s.deg g) = low)
    (taken : modWatch g (Watch.taken low s.node.watchInterval) s = t) : watchResult g rs s =
      if (s.watch g).dark = (t.watch g).dark then t
      else if (t.watch g).dark = .dark then announce .dark (some g) 1 (freezeDark g t)
      else announce .dark (some g) 0 (thawLit g t) := by
  subst total taken
  rfl

theorem watched_dark (g : Degree) (x : Dark) (run : Nat) (s : State) : ((Watched g x run s).watch g).dark = x :=
  congrArg Watch.dark (PerDegree.get_set_self s.watches g ⟨x, run, .waiting, some s.node.watchInterval⟩)

theorem watchResult_of_stays {rs : List Int} {low : Bool} (total : watchLow (foldLevels rs) (s.deg g) = low)
    (stays : (againstDark low (s.watch g) && (s.watch g).run != 0) = false) :
    watchResult g rs (Landed s) = Watched g (s.watch g).dark (if againstDark low (s.watch g) then 1 else 0) s := by
  have taken : Watch.taken low s.node.watchInterval (s.watch g) = ⟨(s.watch g).dark, if againstDark low (s.watch g) then 1 else 0, .waiting, some s.node.watchInterval⟩ := by
    rw [Watch.taken, Watch.decide_of_stays stays]
  have state : modWatch g (Watch.taken low s.node.watchInterval) (Landed s) = Watched g (s.watch g).dark (if againstDark low (s.watch g) then 1 else 0) s := by
    rw [Watched, ← taken]
    rfl
  rw [watchResult_eq (s := Landed s) total state, watched_dark]
  exact if_pos rfl

theorem watchResult_of_turns {rs : List Int} {low : Bool} (total : watchLow (foldLevels rs) (s.deg g) = low)
    (turns : (againstDark low (s.watch g) && (s.watch g).run != 0) = true) :
    ((s.watch g).dark = .dark → watchResult g rs (Landed s) = announce .dark (some g) 0 (thawLit g (Watched g .lit 0 s)))
    ∧ ((s.watch g).dark = .lit → watchResult g rs (Landed s) = announce .dark (some g) 1 (freezeDark g (Watched g .dark 0 s))) := by
  have taken (x : Dark) (dark : (if (s.watch g).dark = .lit then Dark.dark else .lit) = x) :
      modWatch g (Watch.taken low s.node.watchInterval) (Landed s) = Watched g x 0 s := by
    have own : Watch.taken low s.node.watchInterval (s.watch g) = ⟨x, 0, .waiting, some s.node.watchInterval⟩ := by
      rw [Watch.taken, Watch.decide_of_turns turns, dark]
    rw [Watched, ← own]
    rfl
  refine ⟨fun dark => ?_, fun dark => ?_⟩
  · rw [watchResult_eq (s := Landed s) total (taken .lit (by rw [dark]; rfl)), watched_dark]
    show (if (s.watch g).dark = _ then _ else _) = _
    rw [dark, if_neg nofun, if_neg nofun]
  · rw [watchResult_eq (s := Landed s) total (taken .dark (by rw [dark]; rfl)), watched_dark]
    show (if (s.watch g).dark = _ then _ else _) = _
    rw [dark, if_neg nofun, if_pos rfl]

/-! ### A degree that turns DARK freezes the waiting legs it feeds (R130) -/

/-- The leg of the reference is still the one of `l`, fed by degree `g`. -/
structure FedBy (g : Degree) (l : LineLeg) (r : LegRef) (s : State) (y : LineLeg) : Prop where
  leg     : s.leg? r = some y
  ingress : y.ingress = .line g
  level   : y.level = l.level
  egress  : y.egress = l.egress

/-- The leg has frozen for a DARK ingress. -/
structure Iced (timeout : Nat) (y : LineLeg) : Prop where
  state  : y.state = .frozen
  frozen : y.frozen = some (.dark, .step)
  timer  : y.darkTimer = some timeout

/-- From one state to a later one the leg stays the fed one, and iced once it is. -/
def StaysFed (g : Degree) (l : LineLeg) (r : LegRef) (s t : State) : Prop :=
  t.degrees = s.degrees ∧ ∀ y, FedBy g l r s y → ∃ y', FedBy g l r t y' ∧ (Iced (s.deg l.egress).darkTimeout y → Iced (s.deg l.egress).darkTimeout y')

theorem StaysFed.refl : StaysFed g l r s s := ⟨rfl, fun y fed => ⟨y, fed, id⟩⟩

theorem StaysFed.trans (h : StaysFed g l r s t) (k : StaysFed g l r t u) : StaysFed g l r s u := by
  refine ⟨k.1.trans h.1, fun y fed => ?_⟩
  obtain ⟨y', fed', iced'⟩ := h.2 y fed
  obtain ⟨y'', fed'', iced''⟩ := k.2 y' fed'
  have same : t.deg l.egress = s.deg l.egress := congrArg (·.get l.egress) h.1
  exact ⟨y'', fed'', fun iced => same ▸ iced'' (same ▸ iced' iced)⟩

theorem freeze_degrees (r : LegRef) (x : FrozenBy) (k : RequestKind) (s : State) : (freeze r x k s).degrees = s.degrees :=
  (freeze_legsOnly r x k s).untold.params.2.1

/-- A fed leg freezes. -/
theorem FedBy.freeze {y : LineLeg} (fed : FedBy g l r s y) : ∃ y', FedBy g l r (freeze r .dark .step s) y' ∧ Iced (s.deg l.egress).darkTimeout y' := by
  have frozen := freeze_eq fed.leg .dark .step
  refine ⟨_, ⟨leg?_setLeg fed.leg (congrArg State.jobs frozen), fed.ingress, fed.level, fed.egress⟩, rfl, rfl, ?_⟩
  rw [← fed.egress]
  rfl

theorem freeze_staysFed (g : Degree) (l : LineLeg) (r q : LegRef) (s : State) : StaysFed g l r s (freeze q .dark .step s) := by
  refine ⟨freeze_degrees .., fun y fed => ?_⟩
  by_cases same : q = r
  · subst same
    obtain ⟨y', fed', iced⟩ := fed.freeze
    exact ⟨y', fed', fun _ => iced⟩
  · cases leg : s.leg? q with
    | none =>
      rw [Machine.freeze, onLeg_of_none leg]
      exact ⟨y, fed, id⟩
    | some z =>
      exact ⟨y, ⟨(leg?_setLeg_other (Ne.symm same) (congrArg State.jobs (freeze_eq leg .dark .step))).trans fed.leg, fed.ingress, fed.level, fed.egress⟩, id⟩

theorem endStep_staysFed (g : Degree) (l : LineLeg) (r q : LegRef) (s : State) : StaysFed g l r s (endStep q .none (withdraw q s)) := by
  refine ⟨rfl, fun y fed => ?_⟩
  by_cases same : q = r
  · subst same
    refine ⟨LineLeg.endStep .none y, ⟨leg?_modLeg_same (s := withdraw q s) fed.leg, ?_, ?_, (endStep_egress ..).trans fed.egress⟩, fun iced => ?_⟩
    · rw [← fed.ingress]
      unfold LineLeg.endStep
      split <;> rfl
    · exact (endStep_level ..).trans fed.level
    · unfold LineLeg.endStep
      split <;> exact ⟨iced.state, iced.frozen, iced.timer⟩
  · exact ⟨y, ⟨(leg?_modLeg_other (s := withdraw q s) (Ne.symm same)).trans fed.leg, fed.ingress, fed.level, fed.egress⟩, id⟩

theorem freezeHolder_staysFed (g : Degree) (l : LineLeg) (r : LegRef) (d : Degree) (concerns : LineLeg → Bool) (s : State) :
    StaysFed g l r s (freezeHolder d .dark concerns s) := by
  unfold freezeHolder
  split
  · unfold onLeg
    split
    · dsimp only
      split
      · split
        · exact (endStep_staysFed ..).trans (freeze_staysFed ..)
        · exact .refl
      · exact .refl
    · exact .refl
  · exact .refl

theorem freezeEntries_staysFed (g : Degree) (l : LineLeg) (r : LegRef) (concerns : LineLeg → Bool) (es : List UpEntry) (s : State) :
    StaysFed g l r s (freezeEntries concerns es s) := by
  induction es generalizing s with
  | nil => exact .refl
  | cons e es ih =>
    rw [freezeEntries_cons]
    split
    · exact (freeze_staysFed ..).trans (ih _)
    · exact ih s

/-- A fed leg named by an entry of the list is iced once the list is through. -/
theorem FedBy.freezeEntries {es : List UpEntry} {y : LineLeg} (fed : FedBy g l r s y) {x : UpEntry} (mem : x ∈ es) (named : x.leg = r) :
    ∃ y', FedBy g l r (freezeEntries (fun l => l.ingress == .line g) es s) y' ∧ Iced (s.deg l.egress).darkTimeout y' := by
  induction es generalizing s y with
  | nil => cases mem
  | cons e es ih =>
    rw [freezeEntries_cons]
    by_cases first : e.leg = r
    · rw [first, fed.leg, Option.any_some, if_pos (by simp [fed.ingress])]
      obtain ⟨y', fed', iced⟩ := fed.freeze
      obtain ⟨y'', fed'', stays⟩ := (freezeEntries_staysFed g l r (fun l => l.ingress == .line g) es (Machine.freeze r .dark .step s)).2 y' fed'
      have same : (Machine.freeze r .dark .step s).deg l.egress = s.deg l.egress := congrArg (·.get l.egress) (freeze_degrees r .dark .step s)
      exact ⟨y'', fed'', same ▸ stays (same ▸ iced)⟩
    · have later : x ∈ es := (List.mem_cons.mp mem).resolve_left fun same => first (same ▸ named)
      split
      · obtain ⟨degrees, stays⟩ := freeze_staysFed g l r e.leg s
        obtain ⟨y', fed', -⟩ := stays y fed
        have same : (Machine.freeze e.leg .dark .step s).deg l.egress = s.deg l.egress := congrArg (·.get l.egress) degrees
        exact same ▸ ih fed' later
      · exact ih fed later

/-- Entries of other legs stay listed where one leg freezes. -/
theorem freeze_keeps_listed {x : UpEntry} (other : x.leg ≠ q) (listed : x ∈ (s.arb e).up ++ (s.arb e).wait) :
    x ∈ ((freeze q .dark .step s).arb e).up ++ ((freeze q .dark .step s).arb e).wait := by
  cases leg : s.leg? q with
  | none => rwa [Machine.freeze, onLeg_of_none leg]
  | some z =>
    have arb := congrArg (fun w : State => w.arb e) (freeze_eq leg .dark .step)
    dsimp only at arb
    rw [arb]
    rw [State.arb, PerDegree.get_set]
    split
    · next here =>
      subst here
      simpa [other] using listed
    · exact listed

/-- The leg is the fed one, and iced or still listed by the arbiter of degree `e`. -/
def Caught (g : Degree) (l : LineLeg) (e : Degree) (x : UpEntry) (n : Nat) (s : State) : Prop :=
  (s.deg l.egress).darkTimeout = n ∧ ∃ y, FedBy g l x.leg s y ∧ (Iced n y ∨ x ∈ (s.arb e).up ++ (s.arb e).wait)

section
variable {x : UpEntry} {n : Nat}

/-- The leg is the fed one, and iced. -/
def CaughtIced (g : Degree) (l : LineLeg) (r : LegRef) (n : Nat) (s : State) : Prop :=
  (s.deg l.egress).darkTimeout = n ∧ ∃ y, FedBy g l r s y ∧ Iced n y

theorem CaughtIced.stays (h : CaughtIced g l r n s) (stays : StaysFed g l r s t) : CaughtIced g l r n t := by
  obtain ⟨rfl, y, fed, iced⟩ := h
  obtain ⟨y', fed', iced'⟩ := stays.2 y fed
  have same : t.deg l.egress = s.deg l.egress := congrArg (·.get l.egress) stays.1
  exact ⟨by rw [same], y', fed', iced' iced⟩

theorem CaughtIced.caught (h : CaughtIced g l x.leg n s) : Caught g l e x n s := by
  obtain ⟨timeout, y, fed, iced⟩ := h
  exact ⟨timeout, y, fed, .inl iced⟩

theorem Caught.stays (h : Caught g l e x n s) (stays : StaysFed g l x.leg s t)
    (listed : x ∈ (s.arb e).up ++ (s.arb e).wait → x ∈ (t.arb e).up ++ (t.arb e).wait) : Caught g l e x n t := by
  obtain ⟨rfl, y, fed, iced | mem⟩ := h
  · exact CaughtIced.caught (.stays ⟨rfl, y, fed, iced⟩ stays)
  · obtain ⟨y', fed', -⟩ := stays.2 y fed
    have same : t.deg l.egress = s.deg l.egress := congrArg (·.get l.egress) stays.1
    exact ⟨by rw [same], y', fed', .inr (listed mem)⟩

theorem Caught.freeze (h : Caught g l e x n s) (q : LegRef) : Caught g l e x n (freeze q .dark .step s) := by
  by_cases same : x.leg = q
  · obtain ⟨rfl, y, fed, -⟩ := h
    obtain ⟨y', fed', iced⟩ := fed.freeze
    refine CaughtIced.caught ⟨?_, y', same ▸ fed', iced⟩
    rw [State.deg, freeze_degrees]
    rfl
  · exact h.stays (freeze_staysFed ..) (freeze_keeps_listed same)

theorem Caught.freezeHolder (h : Caught g l e x n s) (d : Degree) (concerns : LineLeg → Bool) : Caught g l e x n (freezeHolder d .dark concerns s) := by
  unfold Machine.freezeHolder
  split
  · unfold onLeg
    split
    · dsimp only
      split
      · split
        · exact (h.stays (endStep_staysFed ..) id).freeze _
        · exact h
      · exact h
    · exact h
  · exact h

theorem Caught.freezeEntries (h : Caught g l e x n s) (concerns : LineLeg → Bool) (es : List UpEntry) : Caught g l e x n (freezeEntries concerns es s) := by
  induction es generalizing s with
  | nil => exact h
  | cons q es ih =>
    rw [freezeEntries_cons]
    split
    · exact ih (h.freeze _)
    · exact ih h

theorem Caught.freezeDarkOn (h : Caught g l e x n s) (d : Degree) (concerns : LineLeg → Bool) : Caught g l e x n (freezeDarkOn concerns d s) :=
  ((h.freezeHolder d concerns).freezeEntries ..).freezeEntries ..

theorem freezeDarkOn_staysFed (g : Degree) (l : LineLeg) (r : LegRef) (d : Degree) (concerns : LineLeg → Bool) (s : State) :
    StaysFed g l r s (freezeDarkOn concerns d s) :=
  (freezeHolder_staysFed ..).trans ((freezeEntries_staysFed ..).trans (freezeEntries_staysFed ..))

theorem FedBy.iced {es : List UpEntry} {y : LineLeg} (fed : FedBy g l x.leg s y) (timeout : (s.deg l.egress).darkTimeout = n) (mem : x ∈ es) :
    CaughtIced g l x.leg n (Machine.freezeEntries (fun l => l.ingress == .line g) es s) := by
  obtain ⟨y', fed', iced⟩ := fed.freezeEntries mem rfl
  refine ⟨?_, y', fed', timeout ▸ iced⟩
  rw [State.deg, (freezeEntries_staysFed g l x.leg (fun l => l.ingress == .line g) es s).1]
  exact timeout

/-- The degree that lists the leg ices it. -/
theorem Caught.iced (h : Caught g l e x n s) : CaughtIced g l x.leg n (Machine.freezeDarkOn (fun l => l.ingress == .line g) e s) := by
  obtain ⟨timeout, y, fed, iced | mem⟩ := h
  · exact CaughtIced.stays ⟨timeout, y, fed, iced⟩ (freezeDarkOn_staysFed ..)
  · obtain ⟨degrees, stays⟩ := freezeHolder_staysFed g l x.leg e (fun l => l.ingress == .line g) s
    obtain ⟨y1, fed1, -⟩ := stays y fed
    have timeout1 : ((Machine.freezeHolder e .dark (fun l => l.ingress == .line g) s).deg l.egress).darkTimeout = n := by
      rw [State.deg, degrees]
      exact timeout
    rcases List.mem_append.mp mem with mem | mem
    · exact (fed1.iced timeout1 mem).stays (freezeEntries_staysFed ..)
    · obtain ⟨degrees2, stays2⟩ := freezeEntries_staysFed g l x.leg (fun l => l.ingress == .line g) (s.arb e).up
        (Machine.freezeHolder e .dark (fun l => l.ingress == .line g) s)
      obtain ⟨y2, fed2, -⟩ := stays2 y1 fed1
      refine fed2.iced ?_ mem
      rw [State.deg, degrees2]
      exact timeout1

theorem Caught.freezeDark (h : Caught g l e x n s) : CaughtIced g l x.leg n (Machine.freezeDark g s) := by
  have on (d : Degree) (s : State) := freezeDarkOn_staysFed g l x.leg d (fun l => l.ingress == .line g) s
  cases e with
  | d1 => exact ((h.iced.stays (on .d2 _)).stays (on .d3 _)).stays (on .d4 _)
  | d2 => exact (((h.freezeDarkOn .d1 _).iced.stays (on .d3 _))).stays (on .d4 _)
  | d3 => exact ((h.freezeDarkOn .d1 _).freezeDarkOn .d2 _).iced.stays (on .d4 _)
  | d4 => exact (((h.freezeDarkOn .d1 _).freezeDarkOn .d2 _).freezeDarkOn .d3 _).iced

end

theorem thaw_legsOnly (r : LegRef) (s : State) : LegsOnly s (thaw r s) := by
  cases leg : s.leg? r with
  | none => rw [thaw, onLeg_of_none leg]; exact .refl
  | some l =>
    cases frozen : l.frozen with
    | none => rw [thaw_of_unfrozen leg frozen]; exact .refl
    | some y =>
      rw [thaw_of_frozen (x := y.1) (k := y.2) leg frozen]
      have cleared : LegsOnly s { s with
          jobs := setLeg r (fun y => { y with frozen := none, darkTimer := none }) s.jobs
          frozenOrder := s.frozenOrder.filter (· ≠ r) } := ⟨.quiet, rfl, rfl, rfl, setLeg_outer ..⟩
      exact cleared.trans (joinUp_legsOnly ..)

theorem LegsOnly.foldl {α : Type} {f : State → α → State} (step : ∀ s a, LegsOnly s (f s a)) (as : List α) (s : State) : LegsOnly s (as.foldl f s) := by
  induction as generalizing s with
  | nil => exact .refl
  | cons a as ih => exact (step s a).trans (ih _)

theorem thawWhere_legsOnly (f : LineLeg → Bool) (s : State) : LegsOnly s (thawWhere f s) := LegsOnly.foldl (fun s r => thaw_legsOnly r s) _ s

/-- Settles O53. -/
theorem watchResultDecidesTheDarkState : Obligations.WatchResultDecidesTheDarkState := by
  unfold Obligations.WatchResultDecidesTheDarkState
  intro issue readings s
  refine ⟨fun discarded => ?_, ?_⟩
  · show Host.Outcome.next (scanResult issue readings s) = _
    rcases discarded with idle | ⟨f, flying, other⟩
    · simp only [scanResult, idle]
    · rw [scanResult, flying]
      exact congrArg Host.Outcome.next (if_neg (by tauto))
  · intro f g flying same whole asked calm low against turns u
    subst same
    have act : exec (.scanResult f.issue readings) s = .next (settleAct (watchResult g (readings.map clampReading) (Landed s))) := by
      rw [exec_scanResult flying calm readings whole, handResult, asked]
    have total : watchLow (foldLevels (readings.map clampReading)) (s.deg g) = low := rfl
    have named : against = againstDark low (s.watch g) := rfl
    have acts {x : State} (eq : watchResult g (readings.map clampReading) (Landed s) = x) :
        exec (.scanResult f.issue readings) s = .next (settleAct x) := act.trans (congrArg (fun x => Host.Outcome.next (settleAct x)) eq)
    refine ⟨fun stays => acts (watchResult_of_stays total stays), fun turn dark => acts ((watchResult_of_turns total turn).1 dark),
      fun turn dark => ⟨_, acts ((watchResult_of_turns total turn).1 dark), ?_⟩, fun turn lit => ⟨acts ((watchResult_of_turns total turn).2 lit), ?_⟩⟩
    · have only := thawWhere_legsOnly (fun l => l.ingress == .line g && l.frozen.any (fun x => x.1 == .dark)) (Watched g .lit 0 s)
      have told := settleAct_untold (announce .dark (some g) 0 (thawLit g (Watched g .lit 0 s)))
      have watch : (announce .dark (some g) 0 (thawLit g (Watched g .lit 0 s))).watch g = (Watched g .lit 0 s).watch g := by
        rw [announce_watch]
        exact congrArg (·.get g) only.watches
      obtain ⟨dark', run'⟩ := settleAct_watch_dark g (announce .dark (some g) 0 (thawLit g (Watched g .lit 0 s)))
      have own : (Watched g .lit 0 s).watch g = ⟨.lit, 0, .waiting, some s.node.watchInterval⟩ := PerDegree.get_set_self s.watches g _
      refine ⟨?_, ?_, ?_, ?_, ?_, fun q => ?_⟩
      · rw [dark', watch, own]
      · rw [run', watch, own]
      · exact only.untold.params.trans told.params
      · exact told.links.trans only.untold.links
      · exact told.results.trans only.untold.results
      · rw [told.port, announce_port]
        show takeNotice (.degreeEvent .dark (some g) 0 (thawLit g (Watched g .lit 0 s)).time) _ = _
        rw [show (thawLit g (Watched g .lit 0 s)).time = s.time from only.untold.time,
          show (thawLit g (Watched g .lit 0 s)).port q = s.port q from only.untold.port q]
    · rintro e r l x leg fed mem rfl
      have caught : Caught g l e x (s.deg l.egress).darkTimeout (Watched g .dark 0 s) :=
        ⟨rfl, l, ⟨(leg?_of_jobs (s := s) (t := Watched g .dark 0 s) rfl x.leg).trans leg, fed, rfl, rfl⟩, .inr mem⟩
      obtain ⟨-, y, fed', iced⟩ := caught.freezeDark
      exact ⟨y, fed'.leg, iced.state, iced.frozen, fed'.level, iced.timer⟩

end Sys2Proof.Machine
end

section
/-! PROOFS. Completions and timeouts of actuators (R9, R18, R31, R107, R111, R119, R128, R129, R142, R143). -/

namespace Sys2Proof.Machine

variable {s t u : State} {r q : LegRef} {l y : LineLeg} {c : Context} {st : StepState} {d e : Degree} {id : JobId}

/-! ### The headroom-wait list re-queued (R107) -/

/-- A re-queued leg is QUEUED without a headroom timer, any other as it was. -/
theorem requeue_leg? (d : Degree) (r : LegRef) (s : State) : (requeue d s).leg? r =
    (s.leg? r).map (fun y => if r ∈ (s.arb d).wait.map (·.leg) then LineLeg.requeued y else y) := by
  have jobs : (requeue d s).jobs = (s.arb d).wait.foldl (fun jobs e => setLeg e.leg LineLeg.requeued jobs) s.jobs := by rw [requeue_eq]
  generalize (s.arb d).wait = es at jobs
  generalize requeue d s = t at jobs
  induction es generalizing s with
  | nil =>
    rw [leg?_of_jobs jobs]
    simp
  | cons x xs ih =>
    rw [ih (s := modLeg x.leg LineLeg.requeued s) jobs, leg?_modLeg]
    by_cases here : r = x.leg
    · subst here
      simp only [List.map_cons, List.mem_cons, true_or, if_true, Option.map_map]
      refine congrArg (Option.map · (s.leg? x.leg)) (funext fun y => ?_)
      simp only [Function.comp_apply]
      split <;> rfl
    · rw [if_neg here]
      simp [here]

theorem requeue_outer (d : Degree) (s : State) : (requeue d s).jobs.map Context.outer = s.jobs.map Context.outer :=
  (Edits.none (g := 0)).requeue.quiet.2.2.2

theorem requeue_arb_self (d : Degree) (s : State) : (requeue d s).arb d = (s.arb d).requeue := by
  rw [requeue_eq]
  exact PerDegree.get_set_self ..

/-! ### A completion taken (R9, R18, R119, R142) -/

theorem recordedLevel_off (q : Int) (p : DegreeParams) : recordedLevel q .off p = min q p.levelFloor := by
  simp only [recordedLevel, appliedBound]
  split <;> omega

theorem recordedLevel_num (q v : Int) (p : DegreeParams) : recordedLevel q (.num v) p = max (min q p.levelFloor) (min v q) := by
  simp only [recordedLevel, appliedBound]
  split
  · omega
  · split <;> split <;> omega

theorem settleTime_eq (k : StepKind) (p : DegreeParams) :
    settleTime k p = min ((if k = .lightOn then 2 else 1) * (p.settleBase + p.settlePerAmp * p.amplifierCount)) 5000 := by
  rw [settleTime]
  split <;> simp [Config.settleMax]

theorem enterSettle_eq (leg : s.leg? r = some l) : enterSettle r s = modLeg r (LineLeg.enterSettle (s.deg l.egress)) s := by
  rw [enterSettle, onLeg_of_leg leg]

theorem LineLeg.record_fixed (reported : Level) (p : DegreeParams) (l : LineLeg) :
    (l.record reported p).egress = l.egress ∧ (l.record reported p).ingress = l.ingress := by
  unfold LineLeg.record
  split
  · exact ⟨rfl, rfl⟩
  · split <;> exact ⟨rfl, rfl⟩

theorem LineLeg.record_step (reported : Level) (p : DegreeParams) (step : l.step = some st) :
    ∃ st', (l.record reported p).step = some st' ∧ st'.kind = st.kind := by
  simp only [LineLeg.record, step]
  split <;> exact ⟨_, rfl, rfl⟩

/-- What a completion comes to for the leg in its step (R107, R119, R128, R130, R131). -/
theorem legApplied_eq (inv : JobInv s) (found : s.ctx? r.job = some c) (leg : s.leg? r = some l) (step : l.step = some st) (reported : Level) :
    let u := WithLeg r (l.record reported (s.deg l.egress)) s
    legApplied r reported s =
      if st.cls = .down then enterSettle r (requeue l.egress u)
      else if c.phase = .failing then turnDown r (endStep r .none u)
      else if st.kind = .backoff then enterSettle r u
      else if u.ingressDark l.ingress then freeze r .dark .step (endStep r .none u)
      else if u.monitor.state = .fault then freeze r .monitor .step (endStep r .none u)
      else enterSettle r u := by
  intro u
  have recorded : modLeg r (LineLeg.record reported (s.deg l.egress)) s = u := modLeg_eq_withLeg inv leg _
  rw [legApplied, onCtx_of_ctx found, onLeg_of_leg leg]
  simp only [step, recorded]

theorem exec_completion {f : ActuatorFlight} {applied : Applied} {level : Level} (flying : (s.act d).flight = some f) (reported : reportedLevel applied = some level) :
    exec (.actuatorCompletion d f.issue applied) s =
      .next (settleAct (legApplied f.leg level { s with actuators := s.actuators.set d { s.act d with flight := none } })) := by
  show Host.Outcome.next (actuatorCompletion d f.issue applied s) = _
  rw [actuatorCompletion, flying, reported]
  simp only [if_true]
  rfl

/-- Settles O56. -/
theorem completionRecordsTheLevel : Obligations.CompletionRecordsTheLevel := by
  unfold Obligations.CompletionRecordsTheLevel
  intro d issue applied s
  refine ⟨fun discarded => ?_, ?_⟩
  · show Host.Outcome.next (actuatorCompletion d issue applied s) = _
    rcases discarded with idle | rfl | ⟨f, flying, other⟩
    · rw [actuatorCompletion, idle]
    · rw [actuatorCompletion]
      cases (s.act d).flight <;> rfl
    · rw [actuatorCompletion, flying]
      cases reported : reportedLevel applied with
      | none => rfl
      | some level => exact congrArg Host.Outcome.next (if_neg other)
  · intro f c l st flying same carries inv found line step r p time landed level recorded u settling isDark result
    subst same
    obtain ⟨reported, reports⟩ : ∃ reported, reportedLevel applied = some reported := by
      cases applied with
      | num v => exact ⟨_, rfl⟩
      | off => exact ⟨_, rfl⟩
      | neither => exact absurd rfl carries
    have leg : landed.leg? r = some l := leg?_eq (s := landed) found line
    have taken : l.record reported p = recorded := by
      simp only [LineLeg.record, step, recorded]
      cases st.requested with
      | off => rfl
      | num q =>
        have same : recordedLevel q reported p = level q := by
          cases applied with
          | num v =>
            cases reports
            exact recordedLevel_num ..
          | off =>
            cases reports
            exact recordedLevel_off ..
          | neither => exact absurd rfl carries
        simp only [same]
    obtain ⟨egress, ingress⟩ := LineLeg.record_fixed reported p l
    obtain ⟨st', step', kind'⟩ := LineLeg.record_step reported p step
    rw [taken] at egress ingress step'
    have acts : result = .next (settleAct (legApplied r reported landed)) := exec_completion flying reports
    rw [legApplied_eq (s := landed) inv found leg step reported] at acts
    have dark : (u recorded).ingressDark l.ingress = true ↔ isDark := ingressDark_iff
    have timed : settleTime st'.kind p = time := by
      rw [kind']
      exact settleTime_eq ..
    have settled : LineLeg.enterSettle p recorded = settling := by
      simp only [LineLeg.enterSettle, step', timed, settling]
      rfl
    have leg_u : (u recorded).leg? r = some recorded := withLeg_leg? leg
    have settles : enterSettle r (u recorded) = u settling := by
      rw [enterSettle_eq leg_u, egress]
      refine (modLeg_withLeg (s := landed) (LineLeg.enterSettle p)).trans ?_
      rw [settled]
      rfl
    have ended : endStep r .none (u recorded) = u (LineLeg.endStep .none recorded) := endStep_withLeg (s := landed) .none
    have state : WithLeg r (l.record reported (landed.deg l.egress)) landed = u recorded := congrArg u taken
    rw [state, settles, ended] at acts
    have take {x : State} (eq : (if st.cls = .down then enterSettle r (requeue l.egress (u recorded))
        else if c.phase = .failing then turnDown r (u (LineLeg.endStep .none recorded))
        else if st.kind = .backoff then u settling
        else if (u recorded).ingressDark l.ingress = true then freeze r .dark .step (u (LineLeg.endStep .none recorded))
        else if (u recorded).monitor.state = .fault then freeze r .monitor .step (u (LineLeg.endStep .none recorded))
        else u settling) = x) : result = .next (settleAct x) := acts.trans (congrArg (fun x => Host.Outcome.next (settleAct x)) eq)
    refine ⟨fun up alive goes => take ?_, fun up failing => take ?_, fun up alive kind isdark => take ?_, fun up alive kind bright fault => take ?_,
      fun down idle => ⟨_, take (if_pos down), ?_⟩⟩
    · rw [if_neg (by rw [up]; nofun), if_neg alive]
      rcases goes with kind | ⟨bright, calm⟩
      · rw [if_pos kind]
      · rw [if_neg (mt dark.mp bright), if_neg calm, ite_self]
    · rw [if_neg (by rw [up]; nofun), if_pos failing]
    · rw [if_neg (by rw [up]; nofun), if_neg alive, if_neg kind, if_pos (dark.mpr isdark)]
    · rw [if_neg (by rw [up]; nofun), if_neg alive, if_neg kind, if_neg (mt dark.mp bright), if_pos fault]
    · have apart : r ∉ ((u recorded).arb l.egress).wait.map (·.leg) := by
        intro mem
        obtain ⟨e, mem, same⟩ := List.mem_map.mp mem
        exact idle e mem same
      have leg_q : (requeue l.egress (u recorded)).leg? r = some recorded := by
        rw [requeue_leg?, leg_u, Option.map_some, if_neg apart]
      have told := requeue_untold l.egress (u recorded)
      have deg_q : (requeue l.egress (u recorded)).deg recorded.egress = p := by
        rw [egress]
        exact congrArg (·.get l.egress) told.params.2.1
      have arb_q : ((requeue l.egress (u recorded)).arb l.egress) = (s.arb l.egress).requeue := requeue_arb_self l.egress (u recorded)
      have sets := enterSettle_eq leg_q
      rw [deg_q] at sets
      rw [sets]
      refine ⟨?_, ?_, ?_, fun e mem y leg_e => ?_, ?_, ?_⟩
      · rw [leg?_modLeg_same leg_q, settled]
      · rw [modLeg_arb, arb_q]
        rfl
      · rw [modLeg_arb, arb_q]
        rfl
      · have leg_v : (u recorded).leg? e.leg = some y := (leg?_modLeg_other (s := landed) (idle e mem)).trans ((leg?_of_jobs rfl e.leg).trans leg_e)
        have listed : e.leg ∈ ((u recorded).arb l.egress).wait.map (·.leg) := List.mem_map_of_mem mem
        rw [leg?_modLeg_other (idle e mem), requeue_leg?, leg_v, Option.map_some, if_pos listed]
        rfl
      · exact told.params
      · exact (setLeg_outer ..).trans ((requeue_outer ..).trans (setLeg_outer ..))

end Sys2Proof.Machine
end

section
/-! PROOFS. Runs of slices, targets and the level ladder (R2, R4 to R8, R116). -/

namespace Sys2Proof.Machine

variable {l : LineLeg} {p : DegreeParams}

theorem sliceDistance_eq {f c g n : Nat} (some_c : 1 ≤ c) (some_n : 1 ≤ n) :
    sliceDistance f c g n = if f + c ≤ g then g - (f + c - 1) else if g + n ≤ f then f - (g + n - 1) else 0 := by
  simp only [sliceDistance, lastSlice]
  have first : (f + c - 1 < g) = (f + c ≤ g) := by simp only [eq_iff_iff]; omega
  have second : (g + n - 1 < f) = (g + n ≤ f) := by simp only [eq_iff_iff]; omega
  simp only [first, second]

/-- The lowest of a list of numbers and a first one. -/
theorem foldl_min_spec {α : Type} (f : α → Nat) (xs : List α) (a : Nat) : let m := xs.foldl (fun m x => min m (f x)) a
    m ≤ a ∧ (∀ x, x ∈ xs → m ≤ f x) ∧ (m = a ∨ ∃ x, x ∈ xs ∧ m = f x) := by
  induction xs generalizing a with
  | nil => simp
  | cons x xs ih =>
    obtain ⟨low, all, one⟩ := ih (min a (f x))
    refine ⟨low.trans (min_le_left ..), fun y mem => ?_, ?_⟩
    · rcases List.mem_cons.mp mem with rfl | mem
      · exact low.trans (min_le_right ..)
      · exact all y mem
    · rcases one with same | ⟨y, mem, same⟩
      · rcases min_choice a (f x) with here | here
        · exact .inl (same.trans here)
        · exact .inr ⟨x, by simp, same.trans here⟩
      · exact .inr ⟨y, List.mem_cons_of_mem _ mem, same⟩

/-- The highest of a list of numbers and a first one. -/
theorem foldl_max_spec {α : Type} (f : α → Nat) (xs : List α) (a : Nat) : let m := xs.foldl (fun m x => max m (f x)) a
    a ≤ m ∧ (∀ x, x ∈ xs → f x ≤ m) ∧ (m = a ∨ ∃ x, x ∈ xs ∧ m = f x) := by
  induction xs generalizing a with
  | nil => simp
  | cons x xs ih =>
    obtain ⟨high, all, one⟩ := ih (max a (f x))
    refine ⟨(le_max_left ..).trans high, fun y mem => ?_, ?_⟩
    · rcases List.mem_cons.mp mem with rfl | mem
      · exact (le_max_right ..).trans high
      · exact all y mem
    · rcases one with same | ⟨y, mem, same⟩
      · rcases max_choice a (f x) with here | here
        · exact .inl (same.trans here)
        · exact .inr ⟨x, by simp, same.trans here⟩
      · exact .inr ⟨y, List.mem_cons_of_mem _ mem, same⟩

/-- The covering range goes from the lowest first slice to the highest last one (R2). -/
theorem covering_spec {f c : Nat} {runs : List (Nat × Nat)} (some_c : 1 ≤ c) (some_runs : ∀ r, r ∈ runs → 1 ≤ r.2) :
    (∀ r, r ∈ (f, c) :: runs → (covering f c runs).1 ≤ r.1 ∧ r.1 + r.2 ≤ (covering f c runs).1 + (covering f c runs).2)
      ∧ (∃ r, r ∈ (f, c) :: runs ∧ (covering f c runs).1 = r.1)
      ∧ ∃ r, r ∈ (f, c) :: runs ∧ (covering f c runs).1 + (covering f c runs).2 = r.1 + r.2 := by
  obtain ⟨low, lows, least⟩ := foldl_min_spec (fun r : Nat × Nat => r.1) runs f
  obtain ⟨high, highs, greatest⟩ := foldl_max_spec (fun r : Nat × Nat => lastSlice r.1 r.2) runs (lastSlice f c)
  simp only [covering]
  generalize runs.foldl (fun m r => min m r.1) f = lo at *
  generalize runs.foldl (fun m r => max m (lastSlice r.1 r.2)) (lastSlice f c) = hi at *
  simp only [lastSlice] at *
  refine ⟨fun r mem => ?_, ?_, ?_⟩
  · clear least greatest
    rcases List.mem_cons.mp mem with rfl | mem
    · exact ⟨low, by simp only; omega⟩
    · have := lows r mem
      have := highs r mem
      have := some_runs r mem
      omega
  · rcases least with same | ⟨r, mem, same⟩
    · exact ⟨(f, c), by simp, same⟩
    · exact ⟨r, List.mem_cons_of_mem _ mem, same⟩
  · rcases greatest with same | ⟨r, mem, same⟩
    · exact ⟨(f, c), by simp, by simp only; omega⟩
    · have := some_runs r mem
      exact ⟨r, List.mem_cons_of_mem _ mem, by omega⟩

/-- The width term of every count is 1000 log10 of it, rounded (R5). -/
theorem widthTerm_rounds : ∀ n, n ∈ List.range' 2 15 →
    10 ^ (2 * (widthTerm n).toNat - 1) ≤ n ^ 2000 ∧ n ^ 2000 ≤ 10 ^ (2 * (widthTerm n).toNat + 1) := by decide +kernel

theorem downRequest_above {v probe : Int} (above : probe < v) (p : DegreeParams) : downRequest (.num v) probe p = .num (max (v - p.stepSize) probe) :=
  if_pos above

/-- The down-steps of constant size from a level, none of them begun at the probe level (R8). -/
theorem downRequest_iterate {v probe : Int} (k : Nat) (above : ∀ j : Nat, j < k → probe < v - j * p.stepSize) (start : probe < v) :
    (fun x => downRequest x probe p)^[k] (.num v) = .num (max (v - k * p.stepSize) probe) := by
  induction k with
  | zero =>
    simp only [Function.iterate_zero, id_eq, Level.num.injEq]
    omega
  | succ k ih =>
    have here := above k (Nat.lt_succ_self k)
    rw [Function.iterate_succ_apply', ih fun j less => above j (Nat.lt_succ_of_lt less), max_eq_left (le_of_lt here), downRequest_above here]
    congr 2
    push_cast
    ring

/-- Settles O44. -/
theorem gridTargetsAndLadder : Obligations.GridTargetsAndLadder := by
  unfold Obligations.GridTargetsAndLadder
  refine ⟨fun f c g n some_c some_n => ⟨sliceDistance_eq some_c some_n, ?_, ?_⟩, fun f c runs some_c some_runs => covering_spec some_c some_runs,
    by decide, fun n low high => widthTerm_rounds n (by simp; omega), fun density n p => ⟨rfl, rfl⟩, fun l p => ?_⟩
  · rw [sliceDistance_eq some_c some_n, sliceDistance_eq some_n some_c]
    split <;> split <;> omega
  · rw [sliceDistance_eq some_c some_n]
    constructor
    · intro zero
      have : ¬ f + c ≤ g ∧ ¬ g + n ≤ f := by
        split at zero
        · omega
        · split at zero <;> omega
      exact ⟨max f g, by omega⟩
    · rintro ⟨k, bounds⟩
      rw [if_neg (by omega), if_neg (by omega)]
  · intro ceiling down
    have top : workingCeiling p = ceiling := by
      simp only [workingCeiling, ceiling]
      split <;> omega
    refine ⟨fun off => ?_, fun v level => ?_, fun v => rfl, fun v n some_step start before reached => ?_⟩
    · simp only [planStep, off, lightOnLevel, top]
    · intro up
      have request : upRequest v l.target p = up := by
        simp only [upRequest, ladderTop, top, up]
        omega
      simp only [planStep, level, request]
      cases l.unverified with
      | true => simp
      | false => by_cases below : v < up <;> simp [below, not_le]
    · have above (k : Nat) (less : k < n) : l.probe < v - k * p.stepSize := by
        have : (k : Int) * p.stepSize ≤ (n - 1 : Int) * p.stepSize := by
          apply mul_le_mul_of_nonneg_right _ (le_of_lt some_step)
          omega
        omega
      have at_n : down^[n] (.num v) = .num l.probe := by
        have := downRequest_iterate (p := p) n above start
        rwa [max_eq_right (by omega)] at this
      refine ⟨at_n, ?_, fun k less => ⟨v - k * p.stepSize, ?_, above k less⟩⟩
      · rw [Function.iterate_succ_apply', at_n]
        exact if_neg (lt_irrefl _)
      · have := downRequest_iterate (p := p) k (fun j lt => above j (lt.trans less)) start
        rwa [max_eq_left (le_of_lt (above k less))] at this

end Sys2Proof.Machine
end

section
/-! PROOFS. The header code of supervisory messages (R150): the check bits are linear in the data bits, so what a receiver decides
depends on the inverted bits alone. -/

namespace Sys2Proof.Machine

variable {h m : BitVec 24} {c k : BitVec 6}

/-! ### The exclusive-or of a list of bits -/

theorem foldl_xor (bits : List Bool) (a : Bool) : bits.foldl xor a = (a ^^ xorAll bits) := by
  induction bits generalizing a with
  | nil => simp [xorAll]
  | cons b bits ih =>
    rw [xorAll, List.foldl_cons, List.foldl_cons, ih, ih (false ^^ b)]
    simp

theorem xorAll_cons (b : Bool) (bits : List Bool) : xorAll (b :: bits) = (b ^^ xorAll bits) := by
  rw [xorAll, List.foldl_cons, foldl_xor, Bool.false_xor]

theorem xorAll_append (as bs : List Bool) : xorAll (as ++ bs) = (xorAll as ^^ xorAll bs) := by
  rw [xorAll, List.foldl_append, foldl_xor]
  rfl

theorem xorAll_map_xor {α : Type} (f g : α → Bool) (xs : List α) :
    xorAll (xs.map (fun x => f x ^^ g x)) = (xorAll (xs.map f) ^^ xorAll (xs.map g)) := by
  induction xs with
  | nil => rfl
  | cons x xs ih =>
    simp only [List.map_cons, xorAll_cons, ih]
    cases f x <;> cases g x <;> simp

/-! ### Check bits and parity are linear (R150) -/

/-- The position of each data bit with its number. -/
def dataPlaces : List (Nat × Nat) := dataPositions.zip (List.range 24)

theorem placedBits_map (f : Nat × Bool → Bool) (h : BitVec 24) : (placedBits h).map f = dataPlaces.map (fun x => f (x.1, h.getLsbD x.2)) := by
  rw [placedBits, List.zip_map_right, List.map_map]
  rfl

theorem hammingBit_xor (h m : BitVec 24) (i : Nat) : hammingBit (h ^^^ m) i = (hammingBit h i ^^ hammingBit m i) := by
  simp only [hammingBit, placedBits_map, BitVec.getLsbD_xor, Bool.and_xor_distrib_right, xorAll_map_xor]

/-- The exclusive-or of the data bits and the first five check bits. -/
def parityBit (h : BitVec 24) : Bool := xorAll ((placedBits h).map (·.2) ++ (List.range 5).map (hammingBit h))

theorem parityBit_xor (h m : BitVec 24) : parityBit (h ^^^ m) = (parityBit h ^^ parityBit m) := by
  simp only [parityBit, placedBits_map, xorAll_append, BitVec.getLsbD_xor, xorAll_map_xor, funext (hammingBit_xor h m)]
  simp only [Bool.xor_assoc, Bool.xor_left_comm]

/-- Check bit `i` (R150). -/
def checkBit (h : BitVec 24) (i : Nat) : Bool := if i < 5 then hammingBit h i else parityBit h

theorem checkBits_getLsbD (h : BitVec 24) {i : Nat} (low : i < 6) : (checkBits h).getLsbD i = checkBit h i := by
  refine (BitVec.getLsbD_ofBoolListLE (bs := (List.range 5).map (hammingBit h) ++ [parityBit h]) (i := i)).trans ?_
  interval_cases i <;> rfl

theorem checkBit_xor (h m : BitVec 24) (i : Nat) : checkBit (h ^^^ m) i = (checkBit h i ^^ checkBit m i) := by
  unfold checkBit
  split
  · exact hammingBit_xor ..
  · exact parityBit_xor ..

theorem checkBits_xor (h m : BitVec 24) : checkBits (h ^^^ m) = checkBits h ^^^ checkBits m := by
  refine BitVec.eq_of_getLsbD_eq fun i low => ?_
  rw [BitVec.getLsbD_xor, checkBits_getLsbD _ low, checkBits_getLsbD _ low, checkBits_getLsbD _ low, checkBit_xor]

theorem overallParity_xor (h m : BitVec 24) (c k : BitVec 6) : overallParity (h ^^^ m) (c ^^^ k) = (overallParity h c ^^ overallParity m k) := by
  simp only [overallParity, xorAll_append, BitVec.getLsbD_xor, xorAll_map_xor]
  simp only [Bool.xor_assoc, Bool.xor_left_comm]

/-- A header as sent has even parity. -/
theorem overallParity_sent (h : BitVec 24) : overallParity h (checkBits h) = false := by
  have data : (placedBits h).map (·.2) = (List.range 24).map (fun j => h.getLsbD j) := by
    rw [placedBits, List.map_snd_zip (by simp [dataPositions])]
  have six : (List.range 6).map (fun j => (checkBits h).getLsbD j) = (List.range 5).map (hammingBit h) ++ [parityBit h] := by
    rw [List.map_congr_left fun j mem => checkBits_getLsbD h (List.mem_range.mp mem)]
    rfl
  rw [overallParity, six, ← data, ← List.append_assoc, xorAll_append, ← parityBit, xorAll_cons]
  simp [xorAll]

/-! ### What a receiver decides (R150) -/

/-- The five bits that say where an odd error stands. -/
def syndromeBits (h : BitVec 24) (c : BitVec 6) : BitVec 5 := (checkBits h ^^^ c).setWidth 5

theorem syndromeBits_xor (h m : BitVec 24) (c k : BitVec 6) : syndromeBits (h ^^^ m) (c ^^^ k) = syndromeBits h c ^^^ syndromeBits m k := by
  have regroup : checkBits (h ^^^ m) ^^^ (c ^^^ k) = (checkBits h ^^^ c) ^^^ (checkBits m ^^^ k) := by
    rw [checkBits_xor]
    ac_rfl
  rw [syndromeBits, regroup, BitVec.setWidth_xor]
  rfl

theorem syndromeBits_sent (h : BitVec 24) : syndromeBits h (checkBits h) = 0#5 := by
  rw [syndromeBits, BitVec.xor_self]
  rfl

/-- The bits inverted in a header as sent are all that its syndrome shows. -/
theorem syndrome_inverted (h m : BitVec 24) (k : BitVec 6) : syndrome (h ^^^ m) (checkBits h ^^^ k) = (syndromeBits m k).toNat := by
  show (syndromeBits (h ^^^ m) (checkBits h ^^^ k)).toNat = _
  rw [syndromeBits_xor, syndromeBits_sent, BitVec.zero_xor]

theorem overallParity_inverted (h m : BitVec 24) (k : BitVec 6) : overallParity (h ^^^ m) (checkBits h ^^^ k) = overallParity m k := by
  rw [overallParity_xor, overallParity_sent, Bool.false_xor]

theorem readHeader_even (even : overallParity h c = false) : readHeader h c = if syndrome h c = 0 then .usable .clean h else .uncorrectable := by
  simp only [readHeader, even, Bool.false_eq_true, if_false]

theorem readHeader_of_check (odd : overallParity h c = true) (check : syndrome h c = 0 ∨ [1, 2, 4, 8, 16].contains (syndrome h c) = true) :
    readHeader h c = .usable .corrected h := by
  simp only [readHeader, odd, if_true]
  exact if_pos check

theorem readHeader_of_data (odd : overallParity h c = true) (wide : ¬ (syndrome h c = 0 ∨ [1, 2, 4, 8, 16].contains (syndrome h c) = true)) {j : Nat}
    (place : dataPositions.findIdx? (· = syndrome h c) = some j) : readHeader h c = .usable .corrected (h ^^^ (1#24 <<< j)) := by
  simp only [readHeader, odd, if_true, place]
  exact if_neg wide

/-- As sent a header is clean. -/
theorem readHeader_sent (h : BitVec 24) : readHeader h (checkBits h) = .usable .clean h := by
  rw [readHeader_even (overallParity_sent h), if_pos]
  exact congrArg BitVec.toNat (syndromeBits_sent h)

/-! ### One bit and two bits -/

/-- Bit `i` of the 30 on the data side, and on the check side. -/
def dataMark (i : Nat) : BitVec 24 := if i < 24 then 1#24 <<< i else 0#24
def checkMark (i : Nat) : BitVec 6 := if i < 24 then 0#6 else 1#6 <<< (i - 24)

/-- The syndrome of each of the 30 bits: its position, and 0 for the parity bit. -/
def columns : List Nat := dataPositions ++ [1, 2, 4, 8, 16, 0]

theorem column_of_bit : ∀ i, i < 30 → overallParity (dataMark i) (checkMark i) = true
    ∧ columns[i]? = some (syndromeBits (dataMark i) (checkMark i)).toNat := by decide +kernel

theorem columns_nodup : columns.Nodup := by decide

theorem readHeader_one {i : Nat} (low : i < 30) (h : BitVec 24) :
    readHeader (h ^^^ dataMark i) (checkBits h ^^^ checkMark i) = .usable .corrected h := by
  obtain ⟨odd, column⟩ := column_of_bit i low
  have parity := (overallParity_inverted h (dataMark i) (checkMark i)).trans odd
  rw [← syndrome_inverted h] at column
  by_cases data : i < 24
  · have place : ∀ i, i < 24 → ∀ syn, columns[i]? = some syn →
        ¬ (syn = 0 ∨ [1, 2, 4, 8, 16].contains syn = true) ∧ dataPositions.findIdx? (· = syn) = some i := by
      intro i data
      interval_cases i <;> simp [columns, dataPositions, List.findIdx?_cons]
    obtain ⟨wide, found⟩ := place i data _ column
    rw [readHeader_of_data parity wide found, dataMark, if_pos data]
    simp only [BitVec.xor_assoc, BitVec.xor_self, BitVec.xor_zero]
  · have place : ∀ i, i < 30 → 24 ≤ i → ∀ syn, columns[i]? = some syn → syn = 0 ∨ [1, 2, 4, 8, 16].contains syn = true := by
      intro i low high
      interval_cases i <;> simp [columns, dataPositions]
    rw [readHeader_of_check parity (place i low (not_lt.mp data) _ column), dataMark, if_neg data, BitVec.xor_zero]

theorem readHeader_two {i j : Nat} (low : i < 30) (low' : j < 30) (other : i ≠ j) (h : BitVec 24) :
    readHeader (h ^^^ dataMark i ^^^ dataMark j) (checkBits h ^^^ checkMark i ^^^ checkMark j) = .uncorrectable := by
  obtain ⟨odd, column⟩ := column_of_bit i low
  obtain ⟨odd', column'⟩ := column_of_bit j low'
  have even : overallParity (dataMark i ^^^ dataMark j) (checkMark i ^^^ checkMark j) = false := by
    rw [overallParity_xor, odd, odd']
    rfl
  have apart : syndromeBits (dataMark i ^^^ dataMark j) (checkMark i ^^^ checkMark j) ≠ 0#5 := by
    rw [syndromeBits_xor]
    intro zero
    have same := BitVec.xor_eq_zero_iff.mp zero
    rw [← same, ← column] at column'
    exact other ((List.getElem?_inj low columns_nodup).mp column'.symm)
  rw [BitVec.xor_assoc, BitVec.xor_assoc, readHeader_even ((overallParity_inverted ..).trans even), syndrome_inverted, if_neg]
  exact fun zero => apart (BitVec.eq_of_toNat_eq zero)

/-- Settles O59. -/
theorem headerCodeCorrectsOneBit : Obligations.HeaderCodeCorrectsOneBit := by
  unfold Obligations.HeaderCodeCorrectsOneBit
  intro mark check h
  exact ⟨readHeader_sent h, fun i low => readHeader_one low h, fun i j low low' other => readHeader_two low low' other h⟩

end Sys2Proof.Machine
end

section
/-! PROOFS. Supervisory messages read from their bytes (R151, R152, R183, R184). -/

namespace Sys2Proof.Machine

variable {d : Degree} {j : JobId} {rest : List Byte}

/-! ### Numbers in bytes, low byte first -/

theorem byteAt_zero (b : Byte) (bs : List Byte) : byteAt (b :: bs) 0 = b.toNat := rfl

theorem byteAt_succ (b : Byte) (bs : List Byte) (i : Nat) : byteAt (b :: bs) (i + 1) = byteAt bs i := rfl

theorem bytesOfNat_one (n : Nat) : bytesOfNat 1 n = [BitVec.ofNat 8 n] := rfl

theorem bytesOfNat_two (n : Nat) : bytesOfNat 2 n = [BitVec.ofNat 8 n, BitVec.ofNat 8 (n / 256)] := rfl

theorem bytesOfNat_three (n : Nat) : bytesOfNat 3 n = [BitVec.ofNat 8 n, BitVec.ofNat 8 (n / 256), BitVec.ofNat 8 (n / 256 / 256)] := rfl

theorem bytesOfNat_four (n : Nat) :
    bytesOfNat 4 n = [BitVec.ofNat 8 n, BitVec.ofNat 8 (n / 256), BitVec.ofNat 8 (n / 256 / 256), BitVec.ofNat 8 (n / 256 / 256 / 256)] := rfl

theorem word_of_bytes {n : Nat} (fits : n < 65536) : (BitVec.ofNat 8 n).toNat + 256 * (BitVec.ofNat 8 (n / 256)).toNat = n := by
  simp only [BitVec.toNat_ofNat]
  omega

theorem byte_of_bytes {n : Nat} (fits : n < 256) : (BitVec.ofNat 8 n).toNat = n := by
  simp only [BitVec.toNat_ofNat]
  omega

theorem JobId.wf_iff : j.wf = true ↔ j.head < 65536 ∧ j.seq < 65536 := decide_eq_true_iff

theorem JobId.bytes_eq (j : JobId) : j.bytes =
    [BitVec.ofNat 8 j.head, BitVec.ofNat 8 (j.head / 256), BitVec.ofNat 8 j.seq, BitVec.ofNat 8 (j.seq / 256)] := rfl

theorem JobId.ofBytes_bytes (fits : j.wf = true) (rest : List Byte) : JobId.ofBytes (j.bytes ++ rest) = j := by
  obtain ⟨head, seq⟩ := JobId.wf_iff.mp fits
  rw [JobId.bytes_eq]
  simp only [JobId.ofBytes, List.cons_append, List.take_succ_cons, List.take_zero, List.drop_succ_cons, List.drop_zero, natOfBytes, Nat.mul_zero, Nat.add_zero,
    word_of_bytes head, word_of_bytes seq]

/-! ### Hops -/

theorem RawHop.ofNat_toNat {h : RawHop} (fits : h.wf = true) : RawHop.ofNat h.toNat = h := by
  obtain ⟨node, egress, drop⟩ := of_decide_eq_true fits
  obtain ⟨n, e, p⟩ := h
  simp only at node egress drop
  simp only [RawHop.ofNat, RawHop.toNat, RawHop.mk.injEq]
  omega

theorem RawHop.toNat_lt (h : RawHop) : h.toNat < 4294967296 := by
  simp only [RawHop.toNat]
  omega

theorem hopsOfBytes_cons {n : Nat} (fits : n < 4294967296) (rest : List Byte) : hopsOfBytes (bytesOfNat 4 n ++ rest) = RawHop.ofNat n :: hopsOfBytes rest := by
  have whole : natOfBytes (bytesOfNat 4 n) = n := by
    simp only [bytesOfNat_four, natOfBytes, BitVec.toNat_ofNat]
    omega
  show RawHop.ofNat (natOfBytes (bytesOfNat 4 n)) :: hopsOfBytes rest = _
  rw [whole]

theorem hopsOfBytes_flatMap {hops : List RawHop} (fits : hops.all RawHop.wf = true) : hopsOfBytes (hops.flatMap (fun h => bytesOfNat 4 h.toNat)) = hops := by
  induction hops with
  | nil => rfl
  | cons h hops ih =>
    obtain ⟨first, others⟩ := Bool.and_eq_true_iff.mp fits
    rw [List.flatMap_cons, hopsOfBytes_cons (RawHop.toNat_lt h), RawHop.ofNat_toNat first, ih others]

theorem length_hopBytes (hops : List RawHop) : (hops.flatMap (fun h => bytesOfNat 4 h.toNat)).length = 4 * hops.length := by
  induction hops with
  | nil => rfl
  | cons h hops ih => rw [List.flatMap_cons, List.length_append, ih, length_bytesOfNat, List.length_cons]; omega

theorem signedOfNat_natOfSigned {v : Int} (low : -32768 ≤ v) (high : v ≤ 32767) : signedOfNat 16 (natOfSigned 16 v) = v := by
  show (if (v % 65536).toNat < 32768 then ((v % 65536).toNat : Int) else (v % 65536).toNat - 65536) = v
  split <;> omega

theorem natOfSigned_lt (v : Int) : natOfSigned 16 v < 65536 := by
  simp only [natOfSigned]
  omega

/-! ### A whole message (R150 to R152) -/

theorem header_of_bytes (h : BitVec 24) :
    BitVec.ofNat 8 (h.toNat / 256 / 256) ++ BitVec.ofNat 8 (h.toNat / 256) ++ BitVec.ofNat 8 h.toNat = h := by
  apply BitVec.eq_of_toNat_eq
  have bound := h.isLt
  rw [BitVec.toNat_append, BitVec.toNat_append, ← Nat.shiftLeft_add_eq_or_of_lt (BitVec.isLt _), ← Nat.shiftLeft_add_eq_or_of_lt (BitVec.isLt _)]
  simp only [BitVec.toNat_ofNat, Nat.shiftLeft_eq]
  omega

theorem check_of_byte (c : BitVec 6) : (c.setWidth 8).setWidth 6 = c := by
  apply BitVec.eq_of_toNat_eq
  have := c.isLt
  simp only [BitVec.toNat_setWidth]
  omega

section
variable {kind cls len : Nat} (kind_fits : kind < 64) (cls_fits : cls < 4) (len_fits : len < 65536)
include kind_fits cls_fits len_fits

theorem headerOf_fields : ((headerOf kind cls len).extractLsb' 0 6).toNat = kind ∧ ((headerOf kind cls len).extractLsb' 6 2).toNat = cls
    ∧ ((headerOf kind cls len).extractLsb' 8 16).toNat = len := by
  simp only [headerOf, BitVec.extractLsb'_toNat, BitVec.toNat_ofNat, Nat.shiftRight_eq_div_pow]
  omega

end

theorem readMessage_sent (d : Degree) (h : BitVec 24) (rest : List Byte) :
    readMessage d (bytesOfNat 3 h.toNat ++ [(checkBits h).setWidth 8] ++ rest) = some (commandOfHeader d .clean h rest) := by
  have data := header_of_bytes h
  rw [bytesOfNat_three]
  generalize BitVec.ofNat 8 h.toNat = b0 at *
  generalize BitVec.ofNat 8 (h.toNat / 256) = b1 at *
  generalize BitVec.ofNat 8 (h.toNat / 256 / 256) = b2 at *
  have read : commandOfMessage d b0 b1 b2 ((checkBits h).setWidth 8) rest = commandOfHeader d .clean h rest := by
    have header : readHeader (b2 ++ b1 ++ b0) (((checkBits h).setWidth 8).setWidth 6) = .usable .clean h := by
      rw [data, check_of_byte, readHeader_sent]
    unfold commandOfMessage
    simp only [header]
  exact congrArg some read

theorem commandOfHeader_of_body {h : BitVec 24} {kind cls : Nat} {body : List Byte} {i : Instr} (at_kind : (h.extractLsb' 0 6).toNat = kind)
    (at_cls : (h.extractLsb' 6 2).toNat = cls) (at_len : (h.extractLsb' 8 16).toNat = body.length) (known : classOf kind = some cls)
    (short : body.length ≤ 255) (read : commandOfBody d .clean kind body = some i) : commandOfHeader d .clean h (body ++ crcBytes body) = i := by
  have crc : (body ++ crcBytes body).length = body.length + 2 := by
    rw [List.length_append]
    exact congrArg (body.length + ·) (length_bytesOfNat ..)
  have whole : ¬ (255 < body.length ∨ (body ++ crcBytes body).length ≠ body.length + 2
      ∨ (body ++ crcBytes body).drop body.length ≠ crcBytes ((body ++ crcBytes body).take body.length)) := by
    rw [crc, List.drop_left, List.take_left]
    simp only [ne_eq, not_true, or_false]
    omega
  rw [commandOfHeader, at_kind, at_cls, at_len, if_neg (not_not.mpr known), if_neg whole, List.take_left, read, Option.getD_some]

/-- A message whose body has at most 255 bytes is read as the command of its body. -/
theorem readMessage_messageBytes {kind cls : Nat} {body : List Byte} {i : Instr} (known : classOf kind = some cls) (short : body.length ≤ 255)
    (read : commandOfBody d .clean kind body = some i) : readMessage d (messageBytes kind cls body) = some i := by
  have fits : kind < 64 ∧ cls < 4 := by
    unfold classOf at known
    split at known
    · cases known; omega
    · split at known
      · cases known; omega
      · split at known
        · cases known; omega
        · split at known
          · cases known; omega
          · cases known
  obtain ⟨k, c, len⟩ := headerOf_fields fits.1 fits.2 (show body.length < 65536 by omega)
  have laid : messageBytes kind cls body = bytesOfNat 3 (headerOf kind cls body.length).toNat ++ [(checkBits (headerOf kind cls body.length)).setWidth 8]
      ++ (body ++ crcBytes body) := by rw [messageBytes, List.append_assoc _ body]
  rw [laid, readMessage_sent, commandOfHeader_of_body k c len known short read]

/-! ### The body of each kind (R183) -/

theorem commandOfBody_job (fits : j.wf = true) :
    commandOfBody d .clean 2 j.bytes = some (.reserveOk d .clean j) ∧ commandOfBody d .clean 4 j.bytes = some (.release d .clean j)
      ∧ commandOfBody d .clean 6 j.bytes = some (.pathUp d .clean j) ∧ commandOfBody d .clean 8 j.bytes = some (.drop d .clean j)
      ∧ commandOfBody d .clean 9 j.bytes = some (.downTurn d .clean j) := by
  have job := JobId.ofBytes_bytes fits []
  rw [List.append_nil] at job
  have length : j.bytes.length = 4 := rfl
  simp only [commandOfBody, job, length]
  simp

theorem readMessage_job {kind cls : Nat} {i : Instr} (known : classOf kind = some cls) (read : commandOfBody d .clean kind j.bytes = some i) :
    readMessage d (messageBytes kind cls j.bytes) = some i :=
  readMessage_messageBytes known (by rw [JobId.bytes_eq]; simp) read

theorem commandOfBody_refuse (fits : j.wf = true) {c : Cause} (named : Cause.ofByte c.code = c) {n : Nat} (node : n < 65536) :
    commandOfBody d .clean 3 (j.bytes ++ [c.code] ++ bytesOfNat 2 n) = some (.refuse d .clean j c n) := by
  have job := JobId.ofBytes_bytes fits ([c.code] ++ bytesOfNat 2 n)
  rw [← List.append_assoc] at job
  have length : (j.bytes ++ [c.code] ++ bytesOfNat 2 n).length = 7 := rfl
  have cause : (j.bytes ++ [c.code] ++ bytesOfNat 2 n).getD 4 0#8 = c.code := rfl
  have word : wordAt (j.bytes ++ [c.code] ++ bytesOfNat 2 n) 5 = n := word_of_bytes node
  simp only [commandOfBody, job, length, cause, word, named]
  simp

theorem commandOfBody_fail (fits : j.wf = true) {c : Cause} (named : Cause.ofByte c.code = c) (v : Byte) {n : Nat} (origin : n < 65536) :
    commandOfBody d .clean 7 (j.bytes ++ [c.code, v] ++ bytesOfNat 2 n) = some (.fail d .clean j c v n) := by
  have job := JobId.ofBytes_bytes fits ([c.code, v] ++ bytesOfNat 2 n)
  rw [← List.append_assoc] at job
  have length : (j.bytes ++ [c.code, v] ++ bytesOfNat 2 n).length = 8 := rfl
  have cause : (j.bytes ++ [c.code, v] ++ bytesOfNat 2 n).getD 4 0#8 = c.code := rfl
  have verdict : (j.bytes ++ [c.code, v] ++ bytesOfNat 2 n).getD 5 0#8 = v := rfl
  have word : wordAt (j.bytes ++ [c.code, v] ++ bytesOfNat 2 n) 6 = n := word_of_bytes origin
  simp only [commandOfBody, job, length, cause, verdict, word, named]
  simp

theorem commandOfBody_rampTurn (fits : j.wf = true) (dir : Dir) :
    commandOfBody d .clean 5 (j.bytes ++ bytesOfNat 1 dir.code) = some (.rampTurn d .clean j dir.code) := by
  have job := JobId.ofBytes_bytes fits (bytesOfNat 1 dir.code)
  have length : (j.bytes ++ bytesOfNat 1 dir.code).length = 5 := rfl
  have code : byteAt (j.bytes ++ bytesOfNat 1 dir.code) 4 = dir.code := by cases dir <;> rfl
  simp only [commandOfBody, job, length, code]
  simp

/-- The eight bytes of a RESERVE body after the job id. -/
def ReserveFields.middle (f : ReserveFields) : List Byte :=
  bytesOfNat 1 f.hopIndex ++ bytesOfNat 2 f.first ++ bytesOfNat 1 f.count ++ bytesOfNat 2 (natOfSigned 16 f.density) ++ bytesOfNat 1 f.bidir
    ++ bytesOfNat 1 f.hops.length

theorem ReserveFields.bytes_eq (f : ReserveFields) : f.bytes = f.job.bytes ++ (ReserveFields.middle f ++ f.hops.flatMap (fun h => bytesOfNat 4 h.toNat)) := by
  simp only [ReserveFields.bytes, ReserveFields.middle, List.append_assoc]

theorem length_reserveBytes (f : ReserveFields) : f.bytes.length = 12 + 4 * f.hops.length := by
  rw [ReserveFields.bytes_eq, List.length_append, List.length_append, length_hopBytes]
  show 4 + (8 + 4 * f.hops.length) = _
  omega

theorem commandOfBody_reserve {f : ReserveFields} (fits : f.wf = true) : commandOfBody d .clean 1 f.bytes = some (.reserve d .clean f) := by
  simp only [ReserveFields.wf, Bool.and_eq_true, decide_eq_true_eq] at fits
  obtain ⟨⟨⟨⟨job_fits, hop, first, count, bidir⟩, low, high⟩, hops⟩, short⟩ := fits
  have job := JobId.ofBytes_bytes job_fits (ReserveFields.middle f ++ f.hops.flatMap (fun h => bytesOfNat 4 h.toNat))
  rw [← ReserveFields.bytes_eq] at job
  have laid := ReserveFields.bytes_eq f
  have hopIndex : byteAt f.bytes 4 = f.hopIndex := by rw [laid]; exact byte_of_bytes hop
  have first' : wordAt f.bytes 5 = f.first := by rw [laid]; exact word_of_bytes first
  have count' : byteAt f.bytes 7 = f.count := by rw [laid]; exact byte_of_bytes count
  have density : wordAt f.bytes 8 = natOfSigned 16 f.density := by rw [laid]; exact word_of_bytes (natOfSigned_lt _)
  have bidir' : byteAt f.bytes 10 = f.bidir := by rw [laid]; exact byte_of_bytes bidir
  have hopCount : byteAt f.bytes 11 = f.hops.length := by rw [laid]; exact byte_of_bytes (by omega)
  have tail : hopsOfBytes (f.bytes.drop 12) = f.hops := by rw [laid]; exact hopsOfBytes_flatMap hops
  have length := length_reserveBytes f
  rw [commandOfBody, if_pos rfl, job, hopIndex, first', count', density, bidir', hopCount, tail, signedOfNat_natOfSigned low high,
    if_pos ⟨by omega, length⟩]

theorem ErrorFlags.ofByte_code (f : ErrorFlags) : ErrorFlags.ofByte (BitVec.ofNat 8 f.code) = f := by
  obtain ⟨a, b, c, e⟩ := f
  revert a b c e
  decide

theorem commandOfBody_hello {node degree : Nat} (node_fits : node < 65536) (degree_fits : degree < 256) (f : ErrorFlags) :
    commandOfBody d .clean 10 (bytesOfNat 2 node ++ bytesOfNat 1 degree ++ bytesOfNat 1 f.code) = some (.hello d .clean node degree f) := by
  have length : (bytesOfNat 2 node ++ bytesOfNat 1 degree ++ bytesOfNat 1 f.code).length = 4 := rfl
  have word : wordAt (bytesOfNat 2 node ++ bytesOfNat 1 degree ++ bytesOfNat 1 f.code) 0 = node := word_of_bytes node_fits
  have at_two : byteAt (bytesOfNat 2 node ++ bytesOfNat 1 degree ++ bytesOfNat 1 f.code) 2 = degree := byte_of_bytes degree_fits
  have flags : ErrorFlags.ofByte ((bytesOfNat 2 node ++ bytesOfNat 1 degree ++ bytesOfNat 1 f.code).getD 3 0#8) = f := ErrorFlags.ofByte_code f
  simp only [commandOfBody, length, word, at_two, flags]
  simp

theorem readMessage_bytes {m : Message} (fits : (messageCommand d .clean m).wf = true) (cause : CauseFits m) :
    readMessage d m.bytes = some (messageCommand d .clean m) := by
  cases m with
  | reserve f =>
    have short : 12 + 4 * f.hops.length ≤ 255 := of_decide_eq_true (Bool.and_eq_true_iff.mp fits).2
    exact readMessage_messageBytes rfl (by rw [length_reserveBytes]; exact short) (commandOfBody_reserve fits)
  | reserveOk j => exact readMessage_job rfl (commandOfBody_job fits).1
  | refuse j c n =>
    obtain ⟨job, node⟩ := Bool.and_eq_true_iff.mp fits
    exact readMessage_messageBytes rfl (by rw [JobId.bytes_eq]; simp) (commandOfBody_refuse job cause (of_decide_eq_true node))
  | release j => exact readMessage_job rfl (commandOfBody_job fits).2.1
  | rampTurn j dir =>
    exact readMessage_messageBytes rfl (by rw [JobId.bytes_eq]; simp) (commandOfBody_rampTurn (Bool.and_eq_true_iff.mp fits).1 dir)
  | pathUp j => exact readMessage_job rfl (commandOfBody_job fits).2.2.1
  | fail j c v n =>
    obtain ⟨job, origin⟩ := Bool.and_eq_true_iff.mp fits
    exact readMessage_messageBytes rfl (by rw [JobId.bytes_eq]; simp) (commandOfBody_fail job cause v (of_decide_eq_true origin))
  | drop j => exact readMessage_job rfl (commandOfBody_job fits).2.2.2.1
  | downTurn j => exact readMessage_job rfl (commandOfBody_job fits).2.2.2.2

/-- Settles O60. -/
theorem messagesDecodeToTheirCommands : Obligations.MessagesDecodeToTheirCommands :=
  ⟨fun _ _ fits cause => readMessage_bytes fits cause, fun _ _ _ flags node degree =>
    readMessage_messageBytes rfl (by simp) (commandOfBody_hello node degree flags)⟩

end Sys2Proof.Machine
end

section
/-! PROOFS. The actuator's fault (R111, R129, R143): what lowering the legs of other degrees leaves of the faulted one, and what is left
of the legs that are abandoned there. -/

namespace Sys2Proof.Machine

variable {s t u : State} {d e : Degree} {r q : LegRef} {l : LineLeg} {c : Context} {id : JobId} {M P Q : Prop}

/-! ### Acts away from a degree -/

/-- The leg, where it is there, does not egress at `d`. -/
def Elsewhere (d : Degree) (r : LegRef) (s : State) : Prop := ∀ y, s.leg? r = some y → y.egress ≠ d

/-- The legs an arbiter may grant, or queue anew. -/
def Arbiter.listed (a : Arbiter) : List LegRef := a.down ++ a.up.map (·.leg) ++ a.wait.map (·.leg)

/-- No other arbiter lists a leg that egresses at `d`. -/
def Tidy (d : Degree) (s : State) : Prop := ∀ e, e ≠ d → ∀ r, r ∈ (s.arb e).listed → Elsewhere d r s

/-- What an act away from degree `d`, whose actuator is in FAULT, leaves of it: the fault and the arbiter. Where `M` says that the act
grants no leg of the degree, the actuator, and every leg that egresses there and is not OFF as it was or queued anew, with its entries. Where
`P` says that the lists are tidy, the whole of the degree's units and legs. -/
structure Far (M P : Prop) (d : Degree) (s t : State) : Prop where
  faulted : (t.act d).faulted = true
  arb     : t.arb d = s.arb d
  back    : ∀ r y, t.leg? r = some y → ∃ x, s.leg? r = some x ∧ x.egress = y.egress
  keeps   : M → t.act d = s.act d ∧ ∀ r x, s.leg? r = some x → x.egress = d → x.state ≠ .off →
              t.leg? r = some x ∨ t.leg? r = some x.requeued
  entries : M → ∀ r x (k : Nat) e, s.leg? r = some x → x.egress = d → x.state ≠ .off → (e = .lit r.job ∨ e = .live r.job) →
              s.entry d .outgoing k = some e → t.entry d .outgoing k = some e
  tidy    : P → Tidy d t ∧ t.act d = s.act d ∧ ∀ r, (∀ y, t.leg? r = some y → y.egress = d → s.leg? r = some y)
              ∧ ∀ x, s.leg? r = some x → x.egress = d → x.state ≠ .off → t.leg? r = some x

def Away (M P : Prop) (d : Degree) (s t : State) : Prop := (s.act d).faulted = true → (P → Tidy d s) → Far M P d s t

theorem Away.refl : Away M P d s s := fun faulted tidy =>
  ⟨faulted, rfl, fun _ y leg => ⟨y, leg, rfl⟩, fun _ => ⟨rfl, fun _ _ leg _ _ => .inl leg⟩, fun _ _ _ _ _ _ _ _ _ at_k => at_k,
    fun p => ⟨tidy p, rfl, fun _ => ⟨fun _ leg _ => leg, fun _ leg _ _ => leg⟩⟩⟩

/-- A leg of the degree that an act keeps is not OFF after it. -/
theorem Far.kept (h : Far M P d s t) (m : M) {x : LineLeg} (leg : s.leg? r = some x) (here : x.egress = d) (lit : x.state ≠ .off) :
    ∃ y, t.leg? r = some y ∧ y.egress = d ∧ y.state ≠ .off ∧ (y = x ∨ y = x.requeued) := by
  rcases (h.keeps m).2 r x leg here lit with leg' | leg'
  · exact ⟨x, leg', here, lit, .inl rfl⟩
  · exact ⟨x.requeued, leg', here, nofun, .inr rfl⟩

theorem Away.trans (h : Away M P d s t) (g : Away M P d t u) : Away M P d s u := fun faulted tidy => by
  have f1 := h faulted tidy
  have f2 := g f1.faulted fun p => (f1.tidy p).1
  refine ⟨f2.faulted, f2.arb.trans f1.arb, fun r y leg => ?_, fun m => ⟨(f2.keeps m).1.trans (f1.keeps m).1, fun r x leg here lit => ?_⟩,
    fun m r x k e leg here lit shines at_k => ?_, fun p => ?_⟩
  · obtain ⟨x, leg', same⟩ := f2.back r y leg
    obtain ⟨z, leg'', same'⟩ := f1.back r x leg'
    exact ⟨z, leg'', same'.trans same⟩
  · obtain ⟨y, leg', here', lit', rfl | rfl⟩ := f1.kept m leg here lit
    · exact (f2.keeps m).2 r y leg' here' lit'
    · exact .inr (((f2.keeps m).2 r _ leg' here' lit').elim id id)
  · obtain ⟨y, leg', here', lit', -⟩ := f1.kept m leg here lit
    exact f2.entries m r y k e leg' here' lit' shines (f1.entries m r x k e leg here lit shines at_k)
  · obtain ⟨-, act1, legs1⟩ := f1.tidy p
    obtain ⟨tidy2, act2, legs2⟩ := f2.tidy p
    refine ⟨tidy2, act2.trans act1, fun r => ⟨fun y leg here => ?_, fun x leg here lit => ?_⟩⟩
    · exact (legs1 r).1 y ((legs2 r).1 y leg here) here
    · exact (legs2 r).2 x ((legs1 r).2 x leg here lit) here lit

theorem Far.elsewhere (h : Far M P d s t) (other : Elsewhere d r s) : Elsewhere d r t := fun y leg here => by
  obtain ⟨x, leg', same⟩ := h.back r y leg
  exact other x leg' (same.trans here)

/-- A second act after a first, which may use what the first left. -/
theorem Away.after (h : Away M P d s t) (g : Far M P d s t → Away M P d t u) : Away M P d s u :=
  fun faulted tidy => (h.trans (g (h faulted tidy))) faulted tidy

theorem Away.then (h : Away M P d s t) (other : Q → Elsewhere d r s) (g : (Q → Elsewhere d r t) → Away M P d t u) : Away M P d s u :=
  h.after fun far => g fun q => far.elsewhere (other q)

theorem Away.then_elsewhere (h : Away M P d s t) (other : Elsewhere d r s) (g : Elsewhere d r t → Away M P d t u) : Away M P d s u :=
  h.then (Q := True) (fun _ => other) fun other => g (other trivial)

theorem Away.onCtx {k : Context → State → State} (acts : ∀ c, s.ctx? id = some c → Away M P d s (k c s)) : Away M P d s (onCtx id k s) := by
  unfold Machine.onCtx
  split
  · next c found => exact acts c found
  · exact .refl

theorem Away.onLeg {k : LineLeg → State → State} (acts : ∀ l, s.leg? r = some l → Away M P d s (k l s)) : Away M P d s (onLeg r k s) := by
  unfold Machine.onLeg
  split
  · next l found => exact acts l found
  · exact .refl

/-- A change of neither the legs nor the arbiters, nor of a lit or live entry of the degree's egress table. -/
theorem Away.quiet (jobs : t.jobs = s.jobs := by rfl) (arbiters : t.arbiters = s.arbiters := by rfl) (actuators : t.actuators = s.actuators := by rfl)
    (map : ∀ (k : Nat) j e, (e = .lit j ∨ e = .live j) → s.entry d .outgoing k = some e → t.entry d .outgoing k = some e := by
      exact fun _ _ _ _ at_k => at_k) : Away M P d s t := fun faulted tidy => by
  have same (r : LegRef) := leg?_of_jobs jobs r
  have arb (e : Degree) : t.arb e = s.arb e := congrArg (·.get e) arbiters
  have act : t.act d = s.act d := congrArg (·.get d) actuators
  refine ⟨by rw [act, faulted], arb d, fun r y leg => ⟨y, same r ▸ leg, rfl⟩,
    fun _ => ⟨act, fun r x leg _ _ => .inl ((same r).trans leg)⟩, fun _ r x k e _ _ _ shines at_k => map k r.job e shines at_k, fun p => ?_⟩
  refine ⟨fun e other r mem y leg => tidy p e other r (arb e ▸ mem) y (same r ▸ leg), act, fun r => ?_⟩
  exact ⟨fun y leg _ => same r ▸ leg, fun x leg _ _ => (same r).trans leg⟩

theorem Away.quiet_map (map : t.map = s.map := by rfl) (jobs : t.jobs = s.jobs := by rfl) (arbiters : t.arbiters = s.arbiters := by rfl)
    (actuators : t.actuators = s.actuators := by rfl) : Away M P d s t :=
  .quiet jobs arbiters actuators fun k _ _ _ at_k => by rw [State.entry, map]; exact at_k

/-- A change of a line leg that keeps its egress: of one that egresses elsewhere, or a change that is not to OFF. -/
theorem Away.leg (f : LineLeg → LineLeg) (fixed : ∀ l, (f l).egress = l.egress := by exact fun _ => rfl)
    (far : ∀ l, s.leg? r = some l → l.egress = d → ¬ P ∧ (M → f l = l.requeued)) : Away M P d s (modLeg r f s) := fun faulted tidy => by
  have back (q y) (leg : (modLeg r f s).leg? q = some y) : ∃ x, s.leg? q = some x ∧ x.egress = y.egress ∧ (q ≠ r → x = y) := by
    by_cases own : q = r
    · subst own
      rw [leg?_modLeg, if_pos rfl, Option.map_eq_some_iff] at leg
      obtain ⟨x, leg, rfl⟩ := leg
      exact ⟨x, leg, (fixed x).symm, fun other => absurd rfl other⟩
    · exact ⟨y, (leg?_modLeg_other own) ▸ leg, rfl, fun _ => rfl⟩
  refine ⟨faulted, rfl, fun q y leg => ?_, fun m => ⟨rfl, fun q x leg here lit => ?_⟩, fun _ _ _ _ _ _ _ _ _ at_k => at_k, fun p => ?_⟩
  · obtain ⟨x, leg', same, -⟩ := back q y leg
    exact ⟨x, leg', same⟩
  · by_cases own : q = r
    · subst own
      exact .inr ((leg?_modLeg_same leg).trans (congrArg some ((far x leg here).2 m)))
    · exact .inl ((leg?_modLeg_other own).trans leg)
  · refine ⟨fun e other q mem y leg here => ?_, rfl, fun q => ⟨fun y leg here => ?_, fun x leg here lit => ?_⟩⟩
    · obtain ⟨x, leg', same, -⟩ := back q y leg
      exact tidy p e other q mem x leg' (same.trans here)
    · obtain ⟨x, leg', same, equal⟩ := back q y leg
      by_cases own : q = r
      · exact absurd p (far x (own ▸ leg') (same.trans here)).1
      · rw [← equal own]
        exact leg'
    · by_cases own : q = r
      · exact absurd p (far x (own ▸ leg) here).1
      · exact (leg?_modLeg_other own).trans leg

theorem Away.leg_elsewhere (f : LineLeg → LineLeg) (other : Elsewhere d r s) (fixed : ∀ l, (f l).egress = l.egress := by exact fun _ => rfl) :
    Away M P d s (modLeg r f s) := .leg f fixed fun l leg here => absurd here (other l leg)

theorem Away.leg_unless (f : LineLeg → LineLeg) (other : M ∨ P → Elsewhere d r s) (fixed : ∀ l, (f l).egress = l.egress := by exact fun _ => rfl) :
    Away M P d s (modLeg r f s) :=
  .leg f fixed fun l leg here => ⟨fun p => other (.inr p) l leg here, fun m => absurd here (other (.inl m) l leg)⟩

/-- A change of another degree's arbiter that lists no leg anew but one that egresses elsewhere. -/
theorem Away.arb {f : Arbiter → Arbiter} (other : e ≠ d)
    (listed : ∀ r, r ∈ (f (s.arb e)).listed → r ∈ (s.arb e).listed ∨ (P → Elsewhere d r s)) : Away M P d s (modArb e f s) := fun faulted tidy => by
  have arb : (modArb e f s).arb d = s.arb d := by rw [modArb_arb, if_neg (Ne.symm other)]
  refine ⟨faulted, arb, fun _ y leg => ⟨y, leg, rfl⟩, fun _ => ⟨rfl, fun _ _ leg _ _ => .inl leg⟩,
    fun _ _ _ _ _ _ _ _ _ at_k => at_k, fun p => ⟨fun e' other' r mem => ?_, rfl, fun _ => ⟨fun _ leg _ => leg, fun _ leg _ _ => leg⟩⟩⟩
  rw [modArb_arb] at mem
  split at mem
  · rcases listed r mem with old | new
    · exact tidy p e other r old
    · exact new p
  · exact tidy p e' other' r mem

theorem Away.act {f : Actuator → Actuator} (keeps : ∀ a, (f a).faulted = a.faulted) (other : M ∨ P → e ≠ d) : Away M P d s (modAct e f s) :=
  fun faulted tidy => by
    have same (mode : M ∨ P) : (modAct e f s).act d = s.act d := by rw [modAct_act, if_neg (Ne.symm (other mode))]
    refine ⟨?_, rfl, fun _ y leg => ⟨y, leg, rfl⟩, fun m => ⟨same (.inl m), fun _ _ leg _ _ => .inl leg⟩, fun _ _ _ _ _ _ _ _ _ at_k => at_k,
      fun p => ⟨tidy p, same (.inr p), fun _ => ⟨fun _ leg _ => leg, fun _ leg _ _ => leg⟩⟩⟩
    rw [modAct_act]
    split
    · next here => rw [keeps, ← here, faulted]
    · exact faulted

/-- A job whose legs are OFF where they egress at the degree is dropped. -/
theorem Away.drop (off : ∀ r x, s.leg? r = some x → r.job = id → x.state = .off) : Away M P d s (dropCtx id s) := fun faulted tidy => by
  have back (q y) (leg : (dropCtx id s).leg? q = some y) : s.leg? q = some y := by
    rw [leg?_dropCtx] at leg
    split at leg
    · cases leg
    · exact leg
  have kept (q x) (leg : s.leg? q = some x) (lit : x.state ≠ .off) : (dropCtx id s).leg? q = some x := by
    rw [leg?_dropCtx, if_neg (fun own => lit (off q x leg own)), leg]
  exact ⟨faulted, rfl, fun q y leg => ⟨y, back q y leg, rfl⟩, fun _ => ⟨rfl, fun q x leg _ lit => .inl (kept q x leg lit)⟩,
    fun _ _ _ _ _ _ _ _ _ at_k => at_k, fun p => ⟨fun e other q mem y leg => tidy p e other q mem y (back q y leg), rfl,
      fun q => ⟨fun y leg _ => back q y leg, fun x leg _ lit => kept q x leg lit⟩⟩⟩

theorem Away.foldl {α : Type} {f : State → α → State} {ref : α → LegRef} {Q : Prop} (step : ∀ a s, (Q → Elsewhere d (ref a) s) → Away M P d s (f s a))
    (as : List α) (s : State) (others : Q → ∀ a, a ∈ as → Elsewhere d (ref a) s) : Away M P d s (as.foldl f s) := by
  induction as generalizing s with
  | nil => exact .refl
  | cons a as ih =>
    exact (step a s (fun q => others q a (by simp))).after fun far => ih _ fun q b mem => far.elsewhere (others q b (List.mem_cons_of_mem _ mem))

/-! ### Granting and the issue of scans -/

theorem mem_listed_iff {a : Arbiter} : r ∈ a.listed ↔ r ∈ a.down ∨ (∃ x, x ∈ a.up ∧ x.leg = r) ∨ ∃ x, x ∈ a.wait ∧ x.leg = r := by
  simp only [Arbiter.listed, List.mem_append, List.mem_map, or_assoc]

theorem requeue_away (other : e ≠ d) : Away M P d s (requeue e s) := fun faulted tidy => by
  have legs : Away M P d s ((s.arb e).wait.foldl (fun s x => modLeg x.leg LineLeg.requeued s) s) :=
    Away.foldl (ref := UpEntry.leg) (Q := P) (fun x s other => .leg _ (far := fun l leg here => ⟨fun p => other p l leg here, fun _ => rfl⟩)) _ s
      fun p x mem => tidy p e other x.leg (mem_listed_iff.mpr (.inr (.inr ⟨x, mem, rfl⟩)))
  refine (legs.trans (Away.arb other fun r mem => .inl ?_)) faulted tidy
  rw [mem_listed_iff] at mem ⊢
  simp only [Arbiter.requeue, List.mem_append] at mem
  rcases mem with down | ⟨x, up | wait, rfl⟩ | ⟨x, none, -⟩
  · exact .inl down
  · exact .inr (.inl ⟨x, up, rfl⟩)
  · exact .inr (.inr ⟨x, wait, rfl⟩)
  · cases none

theorem endStep_away (v : Verdict) (other : Elsewhere d r s) : Away M P d s (endStep r v s) := .leg_elsewhere _ other (endStep_egress v)

theorem mapStep_away (f : StepState → StepState) (other : M ∨ P → Elsewhere d r s) : Away M P d s (modLeg r (LineLeg.mapStep f) s) :=
  .leg_unless _ other

/-- A light, an abandonment or a release is of a job's own entries: what shines for another stays. -/
theorem light_shines (id : JobId) {e : SliceEntry} {j : JobId} (shines : e = .lit j ∨ e = .live j) : e.light id = e := by
  rcases shines with rfl | rfl <;> rfl

theorem light_away (id : JobId) (first count : Nat) (runs : List (Degree × MapDir)) (s : State) :
    Away M P d s (modMap (SpectrumMap.changeRuns (SliceEntry.light id) first count runs) s) :=
  .quiet (map := fun _ _ _ shines at_k => changeRuns_fixes (light_shines id shines) _ _ _ at_k)

/-- A change of runs that are not in the degree's egress table. -/
theorem changeRuns_away {f : SliceEntry → SliceEntry} (once : ∀ e, f (f e) = f e) (first count : Nat) {runs : List (Degree × MapDir)}
    (apart : (d, MapDir.outgoing) ∉ runs) (s : State) : Away M P d s (modMap (SpectrumMap.changeRuns f first count runs) s) :=
  .quiet (map := fun k _ _ _ at_k => by
    have changed := SpectrumMap.changeRuns_runsChange once first count runs s.map d .outgoing k
    rw [if_neg (fun within => apart within.1)] at changed
    exact changed.trans at_k)

theorem askScan_away (r : LegRef) (s : State) : Away M P d s (askScan r s) := by
  refine .onCtx fun c _ => .onLeg fun l _ => ?_
  split
  · exact .quiet_map
  · exact .refl

theorem actuate_away (other : M ∨ P → Elsewhere d r s) : Away M P d s (actuate r s) := by
  refine .onCtx fun c _ => .onLeg fun l leg => ?_
  split
  · next st _ =>
    have commanded : Away M P d s (modLeg r (LineLeg.mapStep (fun st => { st with stage := .actuate }))
        (modAct l.egress (Actuator.command r c st.requested (s.deg l.egress).actuatorTimeout) s)) :=
      (Away.act (f := Actuator.command r c st.requested (s.deg l.egress).actuatorTimeout) (fun _ => rfl) fun p => other p l leg).then other
        fun other => mapStep_away _ other
    dsimp only
    split
    · exact commanded.trans (light_away _ _ _ _ _)
    · exact commanded
  · exact .refl

theorem afterBaseline_away (k : StepKind) (other : M ∨ P → Elsewhere d r s) : Away M P d s (afterBaseline r k s) := by
  unfold afterBaseline
  split
  · exact (mapStep_away _ other).trans (askScan_away _ _)
  · exact actuate_away other

theorem startDown_away (other : M ∨ P → Elsewhere d r s) : Away M P d s (startDown r s) :=
  .onLeg fun _ _ => (Away.leg_unless _ other).then other fun other => actuate_away other

theorem beginUp_away (k : StepKind) (request : Int) (other : M ∨ P → Elsewhere d r s) : Away M P d s (beginUp r k request s) := by
  refine .onCtx fun c _ => .onLeg fun l _ => ?_
  dsimp only
  split
  · exact (Away.leg_unless _ other).then other fun other => afterBaseline_away k other
  · exact (Away.leg_unless _ other).trans (askScan_away _ _)

theorem park_away (other : e ≠ d) {x : UpEntry} (far : M ∨ P → Elsewhere d x.leg s) : Away M P d s (park e x s) := by
  refine (Away.arb other fun r mem => ?_).then far fun far => .leg_unless _ far
  rw [mem_listed_iff] at mem ⊢
  rcases mem with down | ⟨y, up, rfl⟩ | ⟨y, wait, rfl⟩
  · exact .inl (.inl down)
  · exact .inl (.inr (.inl ⟨y, List.mem_of_mem_filter up, rfl⟩))
  · rcases List.mem_append.mp wait with old | new
    · exact .inl (.inr (.inr ⟨y, old, rfl⟩))
    · rw [List.mem_singleton.mp new]
      exact .inr fun p => far (.inr p)

theorem grantUp_away (other : e ≠ d) (r : LegRef) : Away M P d s (modArb e (Arbiter.grantUp r) s) := by
  refine .arb other fun q mem => .inl ?_
  rw [mem_listed_iff] at mem ⊢
  exact mem.imp_right (Or.imp_left fun ⟨y, up, named⟩ => ⟨y, List.mem_of_mem_filter up, named⟩)

theorem considerUp_away (other : e ≠ d) (es : List UpEntry) (s : State) (far : P → ∀ x, x ∈ es → Elsewhere d x.leg s) :
    Away P P d s (considerUp e es s) := by
  induction es generalizing s with
  | nil => exact .refl
  | cons x xs ih =>
    have far_x : P ∨ P → Elsewhere d x.leg s := fun p => far ((or_self P).mp p) x (by simp)
    have far_xs : P → ∀ y, y ∈ xs → Elsewhere d y.leg s := fun p y mem => far p y (List.mem_cons_of_mem _ mem)
    unfold considerUp
    split
    · exact ih s far_xs
    · split
      · dsimp only
        have checked {a : Option HeadroomCheck} : Away P P d s (modArb e (fun b => { b with lastCheck := a }) s) := .arb other fun r mem => .inl mem
        split
        · exact (checked.trans (grantUp_away other _)).then far_x fun far => beginUp_away _ _ far
        · exact (checked.then far_x fun far => park_away other far).after fun far => ih _ fun p y mem => far.elsewhere (far_xs p y mem)
      · exact ih s far_xs

theorem grantPass_away (e : Degree) (s : State) : Away P P d s (grantPass e s) := fun faulted tidy => by
  by_cases here : e = d
  · rw [here, grantPass_of_faulted faulted]
    exact Away.refl faulted tidy
  · have listed (p : P) (r) (mem : r ∈ (s.arb e).listed) : Elsewhere d r s := tidy p e here r mem
    suffices Away P P d s (grantPass e s) from this faulted tidy
    unfold grantPass
    dsimp only
    split
    · exact .refl
    · split
      · exact .refl
      · split
        · next r rest down =>
          have far (p : P ∨ P) : Elsewhere d r s := listed ((or_self P).mp p) r (mem_listed_iff.mpr (.inl (by rw [down]; simp)))
          refine (Away.arb here fun q mem => .inl ?_).then far fun far => startDown_away far
          rw [mem_listed_iff] at mem ⊢
          exact mem.imp_left fun later => by rw [down]; exact List.mem_cons_of_mem _ later
        · split
          · exact .refl
          · exact considerUp_away here _ s fun p x mem => listed p x.leg (mem_listed_iff.mpr (.inr (.inl ⟨x, mem, rfl⟩)))

theorem issueNext_away (s : State) : Away P P d s (issueNext s) := by
  unfold issueNext markIssued
  split
  · exact .refl
  · split
    · exact .refl
    · split <;> exact .quiet_map

theorem settleAct_away (s : State) : Away P P d s (settleAct s) :=
  (grantPass_away .d1 s).trans ((grantPass_away .d2 _).trans ((grantPass_away .d3 _).trans ((grantPass_away .d4 _).trans (issueNext_away _))))

/-! ### Lowering -/

theorem withdraw_away (r : LegRef) (s : State) : Away M P d s (withdraw r s) := .quiet_map

theorem listed_without {a : Arbiter} {holdAll : Bool} (mem : q ∈ (Arbiter.without holdAll r a).listed) : q ∈ a.listed := by
  rw [mem_listed_iff] at mem ⊢
  rcases mem with down | ⟨y, up, rfl⟩ | ⟨y, wait, rfl⟩
  · exact .inl (List.mem_of_mem_filter down)
  · exact .inr (.inl ⟨y, List.mem_of_mem_filter up, rfl⟩)
  · exact .inr (.inr ⟨y, List.mem_of_mem_filter wait, rfl⟩)

theorem detach_away (other : e ≠ d) (r : LegRef) (s : State) : Away M P d s (detach e r s) :=
  .arb other fun _ mem => .inl (listed_without (r := r) (holdAll := (s.deg e).holdAll) mem)

theorem wentOff_away (leg : s.leg? r = some l) (other : Elsewhere d r s) : Away M P d s (wentOff r l s) :=
  have here := other l leg
  ((withdraw_away r s).trans (detach_away here r _)).then_elsewhere other fun other =>
    (Away.leg_elsewhere LineLeg.off other).trans ((Away.quiet_map (t := unordered r _)).trans (requeue_away here))

theorem freeContext_away (off : ∀ r x, s.leg? r = some x → r.job = c.id → x.state = .off) : Away M P d s (freeContext c s) :=
  (withdraw_away _ _).trans ((withdraw_away _ _).trans (.drop off))

theorem allOff_legs (found : s.ctx? id = some c) (off : c.allOff = true) {x : LineLeg} (leg : s.leg? r = some x) (own : r.job = id) : x.state = .off := by
  subst own
  rw [State.leg?, found] at leg
  simpa using List.all_eq_true.mp off _ (mem_lineLegs_iff.mpr leg)

theorem notifyOwner_away (o : Option Port) (n : Notice) (s : State) : Away M P d s (notifyOwner o n s) := by
  cases o <;> exact .quiet_map

theorem sendOn_away (o : Option Degree) (m : Message) (s : State) : Away M P d s (sendOn o m s) := by
  cases o <;> exact .quiet_map

theorem releaseFailed_away (off : ∀ r x, s.leg? r = some x → r.job = c.id → x.state = .off) : Away M P d s (releaseFailed c s) := by
  unfold releaseFailed
  split
  · next f _ =>
    have written : Away M P d s (if c.reached then writeResult c (if f.cause = .aborted then .aborted else .failed) (some f) s else s) := by
      split
      · exact .quiet_map
      · exact .refl
    refine (written.trans (notifyOwner_away c.owner (.failed c.id f) _)).trans (freeContext_away fun r x leg => off r x ?_)
    rw [← leg, leg?_of_jobs (notifyOwner_jobs ..)]
    split <;> rfl
  · exact .refl

theorem SliceEntry.release_other {id j : JobId} (other : j ≠ id) {e : SliceEntry} (shines : e = .lit j ∨ e = .live j) : e.release id = e := by
  rcases shines with rfl | rfl <;> simp [SliceEntry.release, other]

/-- Entries of a job whose legs are all OFF released. -/
theorem releaseSet_away (off : ∀ r x, s.leg? r = some x → r.job = c.id → x.state = .off) : Away M P d s (releaseSet c s) := fun faulted tidy => by
  have legs (r : LegRef) : (releaseSet c s).leg? r = s.leg? r := rfl
  exact ⟨faulted, rfl, fun r y leg => ⟨y, leg, rfl⟩, fun _ => ⟨rfl, fun _ _ leg _ _ => .inl leg⟩,
    fun _ r x k e leg here lit shines at_k => changeRuns_fixes (SliceEntry.release_other (fun own => lit (off r x leg own)) shines) _ _ _ at_k,
    fun p => ⟨tidy p, rfl, fun _ => ⟨fun _ leg _ => leg, fun _ leg _ _ => leg⟩⟩⟩

theorem releaseClosed_away (off : ∀ r x, s.leg? r = some x → r.job = c.id → x.state = .off) : Away M P d s (releaseClosed c s) := by
  refine ((releaseSet_away off).trans ((Away.quiet_map (t := writeResult c .closed none _)).trans ((notifyOwner_away c.owner (.closed c.id) _).trans
    (sendOn_away c.place.up? (.downTurn c.id) _)))).trans (freeContext_away fun r x leg => off r x ?_)
  rw [← leg, leg?_of_jobs ((sendOn_jobs ..).trans (notifyOwner_jobs ..))]
  rfl

theorem checkEnded_away (id : JobId) (s : State) : Away M P d s (checkEnded id s) := by
  refine .onCtx fun c found => ?_
  split
  · next off =>
    have legs (r x) (leg : s.leg? r = some x) (own : r.job = c.id) : x.state = .off := allOff_legs found off leg (own.trans (ctx?_id found))
    split
    · exact releaseFailed_away legs
    · split
      · exact releaseClosed_away legs
      · exact .refl
  · exact .refl

theorem not_mem_runs (here : l.egress ≠ d) : (d, MapDir.outgoing) ∉ (Leg.line l).runs := by
  cases ingress : l.ingress <;> simp [Leg.runs, ingress, Ne.symm here]

theorem reachOff_away (other : Elsewhere d r s) : Away M P d s (reachOff r s) := by
  cases leg : s.leg? r with
  | none => rw [reachOff_of_none leg]; exact .refl
  | some l =>
    obtain ⟨c, found, -⟩ := ctx?_of_leg? leg
    rw [reachOff_eq found leg]
    refine Away.trans ?_ (checkEnded_away _ _)
    split
    · refine (wentOff_away leg other).trans ?_
      rw [funext (SliceEntry.release_eq c.id)]
      exact changeRuns_away (released_released c.id) _ _ (not_mem_runs (other l leg)) _
    · exact wentOff_away leg other

theorem abandonLeg_away (other : Elsewhere d r s) : Away M P d s (abandonLeg r s) := by
  refine .onCtx fun c _ => .onLeg fun l leg => ?_
  refine (changeRuns_away (SliceEntry.abandon_abandon c.id) _ _ (runs := [(l.egress, .outgoing)]) ?_ s).then_elsewhere other fun other => reachOff_away other
  simpa using Ne.symm (other l leg)

theorem turnDown_away (other : Elsewhere d r s) : Away M P d s (turnDown r s) := by
  refine .onLeg fun l leg => ?_
  split
  · exact abandonLeg_away other
  · split
    · exact reachOff_away other
    · exact (Away.arb (other l leg) fun q mem => .inl mem).then_elsewhere other fun other => startDown_away fun _ => other

theorem joinDown_away (other : Elsewhere d r s) : Away M P d s (joinDown r s) := by
  refine .onLeg fun l leg => ?_
  split
  · exact abandonLeg_away other
  · split
    · exact reachOff_away other
    · refine (Away.arb (other l leg) fun q mem => ?_).then_elsewhere other fun other => .leg_elsewhere _ other
      rw [mem_listed_iff] at mem ⊢
      rcases mem with down | rest
      · rcases List.mem_append.mp down with old | new
        · exact .inl (.inl old)
        · rw [List.mem_singleton.mp new]
          exact .inr fun _ => other
      · exact .inl (.inr rest)

theorem handOver_away (other : Elsewhere d r s) : Away M P d s (handOver r s) := by
  refine .onLeg fun l leg => ?_
  split
  · exact .refl
  · exact .refl
  · split
    · exact .refl
    · exact (withdraw_away r s).then_elsewhere other fun other =>
        (endStep_away .none other).then_elsewhere other fun other => turnDown_away other
  · have apart : Away M P d s (modArb l.egress (Arbiter.without (s.deg l.egress).holdAll r) s) :=
      .arb (other l leg) fun q mem => .inl (listed_without mem)
    exact apart.then_elsewhere other fun other => ((Away.leg_elsewhere LineLeg.stopWaiting other).trans
      (Away.quiet_map (t := unordered r _))).then_elsewhere other fun other => joinDown_away other

/-! ### A leg of the degree abandoned (R31, R129) -/

/-- The line leg `x` of a reference once the leg `r` has gone OFF and the headroom-wait list `ws` is queued anew. -/
def LineLeg.restOf (r q : LegRef) (ws : List UpEntry) (x : LineLeg) : LineLeg :=
  if q = r then x.off else if q ∈ ws.map (·.leg) then x.requeued else x

theorem restOf_egress (r q : LegRef) (ws : List UpEntry) (x : LineLeg) : (x.restOf r q ws).egress = x.egress := by
  unfold LineLeg.restOf
  split
  · rfl
  · split <;> rfl

theorem wentOff_leg?_eq (r : LegRef) (l : LineLeg) (q : LegRef) (s : State) :
    (wentOff r l s).leg? q = (s.leg? q).map (LineLeg.restOf r q (s.arb l.egress).wait) := by
  rw [wentOff, requeue_leg?]
  show ((modLeg r LineLeg.off (detach l.egress r (withdraw r s))).leg? q).map _ = _
  rw [leg?_modLeg]
  show (if q = r then (s.leg? q).map _ else s.leg? q).map (fun y => if q ∈ (((detach l.egress r (withdraw r s)).arb l.egress).wait).map _ then _ else _) = _
  rw [detach_wait]
  by_cases own : q = r
  · subst own
    rw [if_pos rfl, Option.map_map]
    refine congrArg (Option.map · (s.leg? q)) (funext fun y => ?_)
    simp [LineLeg.restOf]
  · rw [if_neg own]
    refine congrArg (Option.map · (s.leg? q)) (funext fun y => ?_)
    have same : q ∈ (((withdraw r s).arb l.egress).wait.filter (fun e => e.leg ≠ r)).map (·.leg) ↔ q ∈ (s.arb l.egress).wait.map (·.leg) := by
      simp only [List.mem_map, List.mem_filter, decide_eq_true_eq]
      exact ⟨fun ⟨e, mem, named⟩ => ⟨e, mem.1, named⟩, fun ⟨e, mem, named⟩ => ⟨e, ⟨mem, named ▸ own⟩, named⟩⟩
    rw [LineLeg.restOf, if_neg own]
    simp only [same]

theorem wentOff_actuators (r : LegRef) (l : LineLeg) (s : State) : (wentOff r l s).actuators = s.actuators := by
  rw [wentOff, requeue_eq]
  rfl

/-- The state in which an abandoned leg has gone OFF, before its job may end. -/
def Given (r : LegRef) (c : Context) (l : LineLeg) (s : State) : State :=
  let u := wentOff r l (changeFor c [(l.egress, .outgoing)] (SliceEntry.abandon c.id) s)
  if c.phase = .failing then changeFor c (Leg.line l).runs (SliceEntry.release c.id) u else u

section
variable (found : s.ctx? r.job = some c) (leg : s.leg? r = some l)
include found leg

theorem abandonLeg_given : abandonLeg r s = checkEnded r.job (Given r c l s) := by
  rw [abandonLeg_eq found leg]
  exact reachOff_eq (s := changeFor c [(l.egress, .outgoing)] (SliceEntry.abandon c.id) s) found leg

omit found leg

theorem given_leg? (r : LegRef) (c : Context) (l : LineLeg) (s : State) (q : LegRef) :
    (Given r c l s).leg? q = (s.leg? q).map (LineLeg.restOf r q (s.arb l.egress).wait) := by
  have jobs : (Given r c l s).jobs = (wentOff r l (changeFor c [(l.egress, .outgoing)] (SliceEntry.abandon c.id) s)).jobs := by
    unfold Given
    dsimp only
    split <;> rfl
  rw [leg?_of_jobs jobs, wentOff_leg?_eq]
  rfl

theorem given_arb (r : LegRef) (c : Context) (l : LineLeg) (s : State) (e : Degree) : (Given r c l s).arb e =
    if e = l.egress then (Arbiter.releaseToken r (Arbiter.without (s.deg l.egress).holdAll r (s.arb l.egress))).requeue else s.arb e := by
  have arbiters : (Given r c l s).arbiters = (wentOff r l (changeFor c [(l.egress, .outgoing)] (SliceEntry.abandon c.id) s)).arbiters := by
    unfold Given
    dsimp only
    split <;> rfl
  rw [State.arb, arbiters]
  exact wentOff_arb r l e _

theorem given_act (r : LegRef) (c : Context) (l : LineLeg) (s : State) (e : Degree) : (Given r c l s).act e = s.act e := by
  have actuators : (Given r c l s).actuators = s.actuators := by
    unfold Given
    dsimp only
    split
    · exact wentOff_actuators ..
    · exact wentOff_actuators ..
  exact congrArg (·.get e) actuators

theorem given_blocked {k : Nat} (low : c.first ≤ k) (high : k < c.first + c.count) {e : SliceEntry} (shines : e = .lit c.id ∨ e = .live c.id)
    (at_k : s.entry l.egress .outgoing k = some e) : (Given r c l s).entry l.egress .outgoing k = some (.blocked .abandoned) := by
  have changed := SpectrumMap.changeRuns_runsChange (SliceEntry.abandon_abandon c.id) c.first c.count [(l.egress, .outgoing)] s.map l.egress .outgoing k
  rw [if_pos ⟨by simp, low, high⟩, show (s.map.table l.egress .outgoing)[k]? = _ from at_k] at changed
  have blocked : (wentOff r l (changeFor c [(l.egress, .outgoing)] (SliceEntry.abandon c.id) s)).entry l.egress .outgoing k = some (.blocked .abandoned) := by
    rw [State.entry, wentOff_map]
    refine changed.trans ?_
    rcases shines with rfl | rfl <;> simp [SliceEntry.abandon]
  unfold Given
  dsimp only
  split
  · exact changeRuns_fixes rfl _ _ _ blocked
  · exact blocked

theorem SliceEntry.abandon_other {id j : JobId} (other : j ≠ id) {e : SliceEntry} (shines : e = .lit j ∨ e = .live j) : e.abandon id = e := by
  rcases shines with rfl | rfl <;> simp [SliceEntry.abandon, other]

theorem given_entry {j : JobId} (other : j ≠ c.id) {d : Degree} {k : Nat} {e : SliceEntry} (shines : e = .lit j ∨ e = .live j)
    (at_k : s.entry d .outgoing k = some e) : (Given r c l s).entry d .outgoing k = some e := by
  have stays : (wentOff r l (changeFor c [(l.egress, .outgoing)] (SliceEntry.abandon c.id) s)).entry d .outgoing k = some e := by
    rw [State.entry, wentOff_map]
    exact changeRuns_fixes (SliceEntry.abandon_other other shines) _ _ _ at_k
  unfold Given
  dsimp only
  split
  · exact changeRuns_fixes (SliceEntry.release_other other shines) _ _ _ stays
  · exact stays

theorem given_blocked_stays {d : Degree} {k : Nat} {why : BlockReason} (at_k : s.entry d .outgoing k = some (.blocked why)) :
    (Given r c l s).entry d .outgoing k = some (.blocked why) := by
  have stays : (wentOff r l (changeFor c [(l.egress, .outgoing)] (SliceEntry.abandon c.id) s)).entry d .outgoing k = some (.blocked why) := by
    rw [State.entry, wentOff_map]
    exact changeRuns_fixes rfl _ _ _ at_k
  unfold Given
  dsimp only
  split
  · exact changeRuns_fixes rfl _ _ _ stays
  · exact stays

theorem given_tidy (here : l.egress = d) (tidy : Tidy d s) : Tidy d (Given r c l s) := by
  intro e other q mem y found
  rw [given_arb, if_neg (here ▸ other)] at mem
  rw [given_leg?, Option.map_eq_some_iff] at found
  obtain ⟨x, leg, rfl⟩ := found
  rw [restOf_egress]
  exact tidy e other q mem x leg
end

/-- A blocked entry stays so under lowering. -/
theorem Lowers.blocked_stays (h : Lowers s t) {d : Degree} {dir : MapDir} {k : Nat} {why : BlockReason}
    (at_k : s.entry d dir k = some (.blocked why)) : t.entry d dir k = some (.blocked why) := by
  induction h with
  | refl => exact at_k
  | tail _ step ih =>
    cases step with
    | quiet map _ => rw [State.entry, map]; exact ih
    | leg => exact ih
    | light | abandon | release => exact changeRuns_fixes rfl _ _ _ ih
    | freed => exact ih
    | @closed b _ u id found closing map jobs =>
      rw [State.entry, show (dropCtx id u).map = _ from map]
      exact changeRuns_fixes rfl _ _ _ ih

/-- What the abandonment of a leg of the faulted degree leaves, whatever the other units hold. -/
theorem abandonLeg_frees (found : s.ctx? r.job = some c) (leg : s.leg? r = some l) (here : l.egress = d) (faulted : (s.act d).faulted = true)
    (token : ∀ k, (s.arb d).token = some k → k.leg = r) : ((abandonLeg r s).act d).faulted = true ∧ ((abandonLeg r s).arb d).token = none
      ∧ ∀ k e, c.first ≤ k → k < c.first + c.count → (e = .lit c.id ∨ e = .live c.id) → s.entry d .outgoing k = some e →
          (abandonLeg r s).entry d .outgoing k = some (.blocked .abandoned) := by
  have off := checkEnded_away (M := False) (P := False) (d := d) r.job (Given r c l s) (by rw [given_act, faulted]) False.elim
  rw [abandonLeg_given found leg]
  refine ⟨off.faulted, (congrArg Arbiter.token off.arb).trans ?_, fun k e low high shines at_k => (checkEnded_lowers ..).blocked_stays ?_⟩
  · rw [given_arb, if_pos here.symm, here]
    show (if (s.arb d).token.any _ then none else (s.arb d).token) = none
    cases held : (s.arb d).token with
    | none => simp
    | some k => simp [token k held]
  · subst here
    exact given_blocked low high shines at_k

/-- A degree `d` that stands ready for its fault to be taken: the holder `h`, the DOWN class and the headroom-wait list are of different jobs,
each leg there and not OFF. -/
structure Poised (d : Degree) (h : LegRef) (s : State) : Prop where
  faulted : (s.act d).faulted = true
  idle    : (s.act d).flight = none
  tidy    : Tidy d s
  token   : ∀ k, (s.arb d).token = some k → k.leg = h
  legs    : ∀ r, r ∈ h :: ((s.arb d).down ++ (s.arb d).wait.map (·.leg)) → ∃ l, s.leg? r = some l ∧ l.egress = d ∧ l.state ≠ .off
  jobs    : ((h :: ((s.arb d).down ++ (s.arb d).wait.map (·.leg))).map (·.job)).Nodup
  apart   : ∀ r, r ∈ h :: (s.arb d).down → ∀ x, x ∈ (s.arb d).up → x.leg ≠ r

/-- The faulted degree once the legs `done` are abandoned and the legs `rest` are still in the DOWN class. -/
structure Standing (d : Degree) (done rest : List LegRef) (s t : State) : Prop where
  act     : t.act d = s.act d
  tidy    : Tidy d t
  token   : (t.arb d).token = none
  down    : (t.arb d).down = rest
  wait    : (t.arb d).wait = []
  up      : (t.arb d).up = (s.arb d).up ++ (s.arb d).wait
  queued  : ∀ e, e ∈ (s.arb d).wait → ∀ x, s.leg? e.leg = some x → t.leg? e.leg = some x.requeued
  later   : ∀ r, r ∈ rest → ∀ x, s.leg? r = some x → t.leg? r = some x
  shines  : ∀ r, r ∈ rest → ∀ (k : Nat) e, (e = .lit r.job ∨ e = .live r.job) → s.entry d .outgoing k = some e → t.entry d .outgoing k = some e
  off     : ∀ r, r ∈ done → ∀ y, t.leg? r = some y → y.egress = d ∧ y.state = .off ∧ y.level = .off
  blocked : ∀ r, r ∈ done → ∀ c, s.ctx? r.job = some c → ∀ k e, c.first ≤ k → k < c.first + c.count → (e = .lit c.id ∨ e = .live c.id) →
              s.entry d .outgoing k = some e → t.entry d .outgoing k = some (.blocked .abandoned)

section
variable {h : LegRef} {done rest : List LegRef} (poised : Poised d h s) (sub : rest ⊆ (s.arb d).down)
include poised sub

/-- Acts away from the degree leave it standing. -/
theorem Standing.away (standing : Standing d done rest s t) (away : Away True True d t u) (lowers : Lowers t u) : Standing d done rest s u := by
  have faulted : (t.act d).faulted = true := by rw [standing.act, poised.faulted]
  have far := away faulted fun _ => standing.tidy
  have arb := far.arb
  obtain ⟨tidy, act, legs⟩ := far.tidy trivial
  refine ⟨act.trans standing.act, tidy, arb ▸ standing.token, arb ▸ standing.down, arb ▸ standing.wait, arb ▸ standing.up,
    fun e mem x leg => ?_, fun r mem x leg => ?_, fun r mem k e lit at_k => ?_, fun r mem y leg => ?_, fun r mem c found k e low high lit at_k => ?_⟩
  · obtain ⟨x', leg', here, -⟩ := poised.legs e.leg (by simp; exact .inr (.inr ⟨e, mem, rfl⟩))
    obtain rfl := Option.some.inj (leg.symm.trans leg')
    exact (legs e.leg).2 _ (standing.queued e mem _ leg) here nofun
  · obtain ⟨x', leg', here, lit⟩ := poised.legs r (by simp [sub mem])
    obtain rfl := Option.some.inj (leg.symm.trans leg')
    exact (legs r).2 _ (standing.later r mem _ leg) here lit
  · obtain ⟨x', leg', here, alight⟩ := poised.legs r (by simp [sub mem])
    exact far.entries trivial r x' k e (standing.later r mem x' leg') here alight lit (standing.shines r mem k e lit at_k)
  · obtain ⟨x, leg', same⟩ := far.back r y leg
    exact standing.off r mem y ((legs r).1 y leg (same ▸ (standing.off r mem x leg').1))
  · exact lowers.blocked_stays (standing.blocked r mem c found k e low high lit at_k)

end

section
variable {h : LegRef} {done : List LegRef} (poised : Poised d h s)
include poised

theorem Poised.other_job (hr : r ∈ h :: ((s.arb d).down ++ (s.arb d).wait.map (·.leg))) (hq : q ∈ h :: ((s.arb d).down ++ (s.arb d).wait.map (·.leg)))
    (other : q ≠ r) : q.job ≠ r.job := fun same =>
  other (List.inj_on_of_nodup_map poised.jobs hq hr same)

theorem Poised.not_waiting (mem : r ∈ h :: (s.arb d).down) : r ∉ (s.arb d).wait.map (·.leg) := fun waits => by
  have split : (h :: ((s.arb d).down ++ (s.arb d).wait.map (·.leg))).map (·.job) =
      (h :: (s.arb d).down).map (·.job) ++ ((s.arb d).wait.map (·.leg)).map (·.job) := by simp
  have distinct := poised.jobs
  rw [split] at distinct
  exact (List.nodup_append.mp distinct).2.2 _ (List.mem_map_of_mem mem) _ (List.mem_map_of_mem waits) rfl

omit poised in
theorem filter_up_of_apart {ups : List UpEntry} (apart : ∀ x, x ∈ ups → x.leg ≠ r) : ups.filter (fun e => e.leg ≠ r) = ups :=
  List.filter_eq_self.mpr fun x mem => decide_eq_true (apart x mem)

/-- The next leg of the DOWN class abandoned. -/
theorem Standing.abandon {rest : List LegRef} {r : LegRef} (sub : r :: rest ⊆ (s.arb d).down) (distinct : (r :: rest).Nodup)
    (standing : Standing d done (r :: rest) s t) (lowers : Lowers s t) (fresh : r ∉ done) : Standing d (done ++ [r]) rest s (abandonLeg r t) := by
  have mem_r : r ∈ (s.arb d).down := sub (by simp)
  obtain ⟨l, leg_s, here, lit⟩ := poised.legs r (by simp [mem_r])
  have leg := standing.later r (by simp) l leg_s
  obtain ⟨c, found, -⟩ := ctx?_of_leg? leg
  have named := ctx?_id found
  have faulted : (t.act d).faulted = true := by rw [standing.act, poised.faulted]
  have others (q x) (leg : t.leg? q = some x) (other : q ≠ r) : (Given r c l t).leg? q = some x := by
    rw [given_leg?, leg, here, standing.wait]
    simp [LineLeg.restOf, other]
  have arb : (Given r c l t).arb d = (Arbiter.releaseToken r (Arbiter.without (t.deg d).holdAll r (t.arb d))).requeue := by
    rw [given_arb, if_pos here.symm, here]
  rw [abandonLeg_given found leg]
  refine Standing.away poised (fun x mem => sub (List.mem_cons_of_mem _ mem)) (t := Given r c l t) ?_ (checkEnded_away _ _) (checkEnded_lowers _ _)
  refine ⟨(given_act ..).trans standing.act, given_tidy here standing.tidy, ?_, ?_, ?_, ?_, fun e mem x leg => ?_, fun q mem x leg => ?_,
    fun q mem k e shines at_k => ?_, fun q mem y leg_q => ?_, fun q mem b found_b k e low high shines at_k => ?_⟩
  · rw [arb]
    show (if (t.arb d).token.any _ then none else (t.arb d).token) = none
    simp [standing.token]
  · rw [arb]
    show (t.arb d).down.filter (· ≠ r) = rest
    rw [standing.down, List.filter_cons_of_neg (by simp)]
    exact List.filter_eq_self.mpr fun x mem => decide_eq_true fun same => (List.nodup_cons.mp distinct).1 (same ▸ mem)
  · rw [arb]
    rfl
  · rw [arb]
    show (t.arb d).up.filter (fun e => e.leg ≠ r) ++ (t.arb d).wait.filter (fun e => e.leg ≠ r) = _
    rw [standing.wait, List.filter_nil, List.append_nil, standing.up, filter_up_of_apart]
    intro x mem
    rcases List.mem_append.mp mem with up | wait
    · exact poised.apart r (by simp [mem_r]) x up
    · exact fun same => poised.not_waiting (r := r) (by simp [mem_r]) (same ▸ List.mem_map_of_mem wait)
  · exact others e.leg _ (standing.queued e mem x leg) fun same => poised.not_waiting (r := r) (by simp [mem_r]) (same ▸ List.mem_map_of_mem mem)
  · exact others q x (standing.later q (List.mem_cons_of_mem _ mem) x leg) fun same => (List.nodup_cons.mp distinct).1 (same ▸ mem)
  · refine given_entry (j := q.job) ?_ shines (standing.shines q (List.mem_cons_of_mem _ mem) k e shines at_k)
    rw [named]
    exact poised.other_job (by simp [mem_r]) (by simp [sub (List.mem_cons_of_mem _ mem)]) fun same => (List.nodup_cons.mp distinct).1 (same ▸ mem)
  · rw [given_leg?, Option.map_eq_some_iff] at leg_q
    obtain ⟨x, leg_x, rfl⟩ := leg_q
    rw [restOf_egress, here, standing.wait]
    by_cases own : q = r
    · subst own
      obtain rfl := Option.some.inj (leg.symm.trans leg_x)
      exact ⟨here, by simp [LineLeg.restOf, LineLeg.off]⟩
    · have old : q ∈ done := (List.mem_append.mp mem).resolve_right fun new => own (List.mem_singleton.mp new)
      simpa [LineLeg.restOf, own] using standing.off q old x leg_x
  · by_cases own : q = r
    · subst own
      obtain ⟨a, found_a, -, fixed⟩ := Lowers.ctx lowers found
      obtain rfl := Option.some.inj (found_a.symm.trans found_b)
      obtain ⟨id_eq, -, -, first, count, -, -⟩ := Context.fixed_fields fixed
      have lit_t : t.entry d .outgoing k = some e :=
        standing.shines q (by simp) k e (by rwa [← named, ← id_eq]) at_k
      subst here
      exact given_blocked (by omega) (by omega) (by rwa [← id_eq]) lit_t
    · have old : q ∈ done := (List.mem_append.mp mem).resolve_right fun new => own (List.mem_singleton.mp new)
      exact given_blocked_stays (standing.blocked q old b found_b k e low high shines at_k)

/-- The holder abandoned, in a state that differs at the degree in the holder's leg alone. -/
theorem Poised.holder (tidy : Tidy d t) (act : t.act d = s.act d) (arb : t.arb d = s.arb d)
    (others : ∀ q x, q ≠ h → s.leg? q = some x → x.egress = d → x.state ≠ .off → t.leg? q = some x)
    (leg : t.leg? h = some l) (here : l.egress = d)
    (jobs : ∀ b c, t.ctx? h.job = some b → s.ctx? h.job = some c → b.first = c.first ∧ b.count = c.count)
    (entries : ∀ r, r ∈ h :: (s.arb d).down → ∀ (k : Nat) e, (e = .lit r.job ∨ e = .live r.job) → s.entry d .outgoing k = some e →
      t.entry d .outgoing k = some e) : Standing d [h] (s.arb d).down s (abandonLeg h t) := by
  obtain ⟨c, found, -⟩ := ctx?_of_leg? leg
  have named := ctx?_id found
  have faulted : (t.act d).faulted = true := by rw [act, poised.faulted]
  have apart : h ∉ (s.arb d).down := fun mem => by
    have := poised.jobs
    rw [List.map_cons, List.nodup_cons] at this
    exact this.1 (List.mem_map_of_mem (by simp [mem]))
  have waits : h ∉ (s.arb d).wait.map (·.leg) := poised.not_waiting (by simp)
  have arb' : (Given h c l t).arb d = (Arbiter.releaseToken h (Arbiter.without (t.deg d).holdAll h (s.arb d))).requeue := by
    rw [given_arb, if_pos here.symm, here, arb]
  rw [abandonLeg_given found leg]
  refine Standing.away poised (fun x mem => mem) (t := Given h c l t) ?_ (checkEnded_away _ _) (checkEnded_lowers _ _)
  refine ⟨(given_act ..).trans act, given_tidy here tidy, ?_, ?_, ?_, ?_, fun e mem x leg => ?_, fun q mem x leg_q => ?_,
    fun q mem k e shines at_k => ?_, fun q mem y leg_q => ?_, fun q mem b found_b k e low high shines at_k => ?_⟩
  · rw [arb']
    show (if (s.arb d).token.any _ then none else (s.arb d).token) = none
    cases held : (s.arb d).token with
    | none => simp
    | some k => simp [poised.token k held]
  · rw [arb']
    show (s.arb d).down.filter (· ≠ h) = _
    exact List.filter_eq_self.mpr fun x mem => decide_eq_true fun same => apart (same ▸ mem)
  · rw [arb']
    rfl
  · rw [arb']
    show (s.arb d).up.filter (fun e => e.leg ≠ h) ++ (s.arb d).wait.filter (fun e => e.leg ≠ h) = _
    rw [filter_up_of_apart (poised.apart h (by simp)), filter_up_of_apart fun x mem same => waits ((show x.leg = h from same) ▸ List.mem_map_of_mem mem)]
  · obtain ⟨x', leg', here', lit⟩ := poised.legs e.leg (by simp; exact .inr (.inr ⟨e, mem, rfl⟩))
    obtain rfl := Option.some.inj (leg.symm.trans leg')
    have other : e.leg ≠ h := fun same => waits (same ▸ List.mem_map_of_mem mem)
    rw [given_leg?, others e.leg _ other leg here' lit, here, arb]
    simp only [Option.map_some, LineLeg.restOf, if_neg other, if_pos (List.mem_map_of_mem mem)]
  · obtain ⟨x', leg', here', lit⟩ := poised.legs q (by simp [mem])
    obtain rfl := Option.some.inj (leg_q.symm.trans leg')
    have other : q ≠ h := fun same => apart (same ▸ mem)
    rw [given_leg?, others q _ other leg_q here' lit, here, arb]
    simp only [Option.map_some, LineLeg.restOf, if_neg other, if_neg (poised.not_waiting (r := q) (by simp [mem]))]
  · refine given_entry (j := q.job) ?_ shines (entries q (by simp [mem]) k e shines at_k)
    rw [named]
    exact poised.other_job (by simp) (by simp [mem]) fun same => apart (same ▸ mem)
  · obtain rfl := List.mem_singleton.mp mem
    rw [given_leg?, leg] at leg_q
    obtain rfl := Option.some.inj leg_q
    rw [restOf_egress]
    exact ⟨here, by simp [LineLeg.restOf, LineLeg.off]⟩
  · obtain rfl := List.mem_singleton.mp mem
    obtain ⟨first, count⟩ := jobs c b found found_b
    subst here
    have same : b.id = c.id := (ctx?_id found_b).trans named.symm
    exact given_blocked (by omega) (by omega) (same ▸ shines) (entries q (by simp) k e (by rwa [← ctx?_id found_b]) at_k)

theorem Standing.foldl (rest : List LegRef) {done : List LegRef} {t : State} (sub : rest ⊆ (s.arb d).down) (distinct : rest.Nodup)
    (fresh : ∀ r, r ∈ rest → r ∉ done) (standing : Standing d done rest s t) (lowers : Lowers s t) : Standing d (done ++ rest) [] s (rest.foldl (fun x r => abandonLeg r x) t) := by
  induction rest generalizing done t with
  | nil => simpa using standing
  | cons r rest ih =>
    have next := standing.abandon poised sub distinct lowers (fresh r (by simp))
    have := ih (fun x mem => sub (List.mem_cons_of_mem _ mem)) distinct.of_cons (fun x mem done => ?_) next (lowers.trans (abandonLeg_lowers r t))
    · simpa using this
    · rcases List.mem_append.mp done with old | new
      · exact fresh x (List.mem_cons_of_mem _ mem) old
      · exact (List.nodup_cons.mp distinct).1 (List.mem_singleton.mp new ▸ mem)
end

/-! ### The holder of the degree, whose job fails (R87, R89, R129) -/

/-- The degree's actuator in FAULT and its token free. -/
def FaultedFree (d : Degree) (s : State) : Prop := (s.act d).faulted = true ∧ (s.arb d).token = none

theorem FaultedFree.away (h : FaultedFree d s) (away : Away False False d s t) : FaultedFree d t :=
  have far := away h.1 False.elim
  ⟨far.faulted, (congrArg Arbiter.token far.arb).trans h.2⟩

theorem FaultedFree.abandonLeg (h : FaultedFree d s) (r : LegRef) : FaultedFree d (abandonLeg r s) := by
  cases leg : s.leg? r with
  | none => exact h.away (abandonLeg_away fun y leg' => by rw [leg] at leg'; cases leg')
  | some l =>
    by_cases here : l.egress = d
    · obtain ⟨c, found, -⟩ := ctx?_of_leg? leg
      obtain ⟨faulted, token, -⟩ := abandonLeg_frees found leg here h.1 fun k held => by rw [h.2] at held; cases held
      exact ⟨faulted, token⟩
    · exact h.away (abandonLeg_away fun y leg' => by obtain rfl := Option.some.inj (leg.symm.trans leg'); exact here)

theorem FaultedFree.foldl (h : FaultedFree d s) (rs : List LegRef) : FaultedFree d (rs.foldl (fun x r => Machine.abandonLeg r x) s) := by
  induction rs generalizing s with
  | nil => exact h
  | cons r rs ih => exact ih (h.abandonLeg r)

theorem leg_line?_fixed {a b : Leg} (same : a.fixed = b.fixed) {y : LineLeg} (line : b.line? = some y) : ∃ x, a.line? = some x ∧ x.fixed = y.fixed := by
  cases a <;> cases b <;> simp_all [Leg.fixed, Leg.line?]

/-- Two contexts with the same fixed fields have the same line legs but for what moves. -/
theorem Context.line?_fixed {a b : Context} (same : a.fixed = b.fixed) {dir : Dir} {y : LineLeg} (line : b.line? dir = some y) :
    ∃ x, a.line? dir = some x ∧ x.fixed = y.fixed := by
  obtain ⟨-, -, -, -, -, fwd, rev⟩ := Context.fixed_fields same
  cases dir with
  | fwd => exact leg_line?_fixed fwd line
  | rev =>
    cases rev_a : a.rev <;> cases rev_b : b.rev <;> simp_all [Context.line?, Context.leg?]
    exact leg_line?_fixed rev line

/-- Lowering moves no leg to another degree. -/
theorem Lowers.elsewhere (h : Lowers s t) (other : Elsewhere d r s) : Elsewhere d r t := fun y leg => by
  obtain ⟨b, found, line⟩ := ctx?_of_leg? leg
  obtain ⟨a, found_a, -, fixed⟩ := h.ctx found
  obtain ⟨x, line_x, same⟩ := Context.line?_fixed fixed line
  rw [← show x.egress = y.egress from congrArg (fun f => f.2.1) same]
  exact other x (by rw [State.leg?, found_a]; exact line_x)

/-- The state in which the line legs of a failing job are handed over: FAIL placed, its drop legs' runs freed (R88, R89). -/
def Unwinding (f : Failure) (leg : Option Dir) (c : Context) (s : State) : State :=
  let u := sendFail c f none (modCtx c.id (Context.failing f leg) s)
  { u with map := changedMap c (dropRuns c) (released c.id) u.map }

section
variable {f : Failure} {dir? : Option Dir}

theorem failJob_unwinding (found : s.ctx? id = some c) (able : c.phase.canFail = true) :
    failJob id f dir? none s = checkEnded id (handAll c (Unwinding f dir? c s)) := by
  obtain rfl := ctx?_id found
  rw [failJob_eq found able, unwind_eq]
  rfl

theorem unwinding_eq (f : Failure) (dir? : Option Dir) (c : Context) (s : State) : ∃ links, Unwinding f dir? c s =
    { modCtx c.id (Context.failing f dir?) s with links := links, map := changedMap c (dropRuns c) (released c.id) s.map } := by
  obtain ⟨links, sent⟩ := sendFail_links c f none (modCtx c.id (Context.failing f dir?) s)
  refine ⟨links, ?_⟩
  rw [Unwinding, sent]
  rfl

theorem unwinding_ctx? (f : Failure) (dir? : Option Dir) (c : Context) (s : State) (j : JobId) :
    (Unwinding f dir? c s).ctx? j = (s.ctx? j).map (fun b => if b.id = c.id then Context.failing f dir? b else b) := by
  obtain ⟨links, eq⟩ := unwinding_eq f dir? c s
  rw [eq]
  exact ctx?_modCtx (f := Context.failing f dir?) (fun _ => rfl) c.id j s

theorem unwinding_leg? (f : Failure) (dir? : Option Dir) (c : Context) (s : State) (q : LegRef) : (Unwinding f dir? c s).leg? q = s.leg? q := by
  rw [State.leg?, unwinding_ctx?, State.leg?]
  cases s.ctx? q.job with
  | none => rfl
  | some b =>
    simp only [Option.map_some, Option.bind_some]
    split <;> rfl

theorem unwinding_arb (f : Failure) (dir? : Option Dir) (c : Context) (s : State) (e : Degree) : (Unwinding f dir? c s).arb e = s.arb e := by
  obtain ⟨links, eq⟩ := unwinding_eq f dir? c s
  rw [eq]
  rfl

theorem unwinding_act (f : Failure) (dir? : Option Dir) (c : Context) (s : State) (e : Degree) : (Unwinding f dir? c s).act e = s.act e := by
  obtain ⟨links, eq⟩ := unwinding_eq f dir? c s
  rw [eq]
  rfl

theorem unwinding_entry (f : Failure) (dir? : Option Dir) (c : Context) (s : State) (k : Nat) :
    (Unwinding f dir? c s).entry d .outgoing k = s.entry d .outgoing k := by
  obtain ⟨links, eq⟩ := unwinding_eq f dir? c s
  have changed := changedMap_runsChange (released_released c.id) c (dropRuns c) s.map d .outgoing k
  rw [if_neg] at changed
  · rw [eq]
    exact changed
  · rintro ⟨mem, -⟩
    obtain ⟨x, -, run⟩ := List.mem_flatMap.mp mem
    split at run <;> simp at run
end

/-- The legs handed over before and after one of them. -/
theorem handAll_split {dir : Dir} (mem : (dir, l) ∈ c.lineLegs) (s : State) : ∃ pre post : List (Dir × LineLeg),
    handAll c s = post.foldl (fun s x => handOver ⟨c.id, x.1⟩ s) (handOver ⟨c.id, dir⟩ (pre.foldl (fun s x => handOver ⟨c.id, x.1⟩ s) s))
      ∧ ∀ x, x ∈ pre ∨ x ∈ post → x ∈ c.lineLegs ∧ x.1 ≠ dir := by
  obtain ⟨pre, post, split⟩ := List.append_of_mem mem
  have distinct := lineLegs_distinct c
  rw [split, List.map_append, List.map_cons, List.nodup_append] at distinct
  obtain ⟨-, tail, apart⟩ := distinct
  refine ⟨pre, post, ?_, fun x either => ?_⟩
  · rw [handAll, split, List.foldl_append]
    rfl
  · rcases either with before | after
    · exact ⟨by rw [split]; simp [before], fun same => apart x.1 (List.mem_map_of_mem before) dir (by simp) same⟩
    · exact ⟨by rw [split]; simp [after], fun same => (List.nodup_cons.mp tail).1 (List.mem_map.mpr ⟨x, after, same⟩)⟩

theorem handOver_foldl_away (id : JobId) (xs : List (Dir × LineLeg)) (s : State) (others : ∀ x, x ∈ xs → Elsewhere d ⟨id, x.1⟩ s) :
    Away M P d s (xs.foldl (fun s x => handOver ⟨id, x.1⟩ s) s) :=
  Away.foldl (ref := fun x : Dir × LineLeg => ⟨id, x.1⟩) (Q := True) (fun _ _ other => handOver_away (other trivial)) xs s fun _ => others

theorem handOver_foldl_lowers (id : JobId) (xs : List (Dir × LineLeg)) (s : State) : Lowers s (xs.foldl (fun s x => handOver ⟨id, x.1⟩ s) s) :=
  Lowers.foldl (fun _ x => handOver_lowers ⟨id, x.1⟩ _) xs s

/-- A holder whose command is gone, handed over on a faulted degree, is abandoned. -/
theorem handOver_stepping (leg : s.leg? r = some l) (here : l.egress = d) (faulted : (s.act d).faulted = true) (idle : (s.act d).flight = none)
    (state : l.state = .stepping) : handOver r s = abandonLeg r (endStep r .none (withdraw r s)) := by
  have free : s.commanded l.egress r = false := by rw [here, State.commanded, idle]; rfl
  have leg' : (endStep r .none (withdraw r s)).leg? r = some (LineLeg.endStep .none l) := leg?_modLeg_same (s := withdraw r s) leg
  rw [handOver, onLeg_of_leg leg]
  simp only [state, free, Bool.false_eq_true, if_false]
  rw [turnDown, onLeg_of_leg leg', endStep_egress, here]
  exact if_pos faulted

/-- A leg of a faulted degree that is queued leaves the queue and is abandoned. -/
theorem handOver_queued (leg : s.leg? r = some l) (here : l.egress = d) (faulted : (s.act d).faulted = true)
    (state : l.state = .queued) : handOver r s = abandonLeg r (Stopped r l s) := by
  rw [handOver, onLeg_of_leg leg]
  simp only [state]
  show joinDown r (Stopped r l s) = _
  rw [joinDown, onLeg_of_leg (stopped_leg? leg)]
  exact if_pos (show (s.act l.egress).faulted = true by rw [here, faulted])

/-- The holder of the faulted degree as its job fails: its line leg, in its step still, and the job's other line legs elsewhere. -/
structure FailingHolder (d : Degree) (id : JobId) (c : Context) (dir : Dir) (l : LineLeg) (s : State) : Prop where
  faulted : (s.act d).faulted = true
  idle    : (s.act d).flight = none
  found   : s.ctx? id = some c
  line    : (dir, l) ∈ c.lineLegs
  here    : l.egress = d
  state   : l.state = .stepping
  others  : ∀ x, x ∈ c.lineLegs → x.1 ≠ dir → x.2.egress ≠ d

section
variable {dir : Dir} {f : Failure}

theorem FailingHolder.leg? (holder : FailingHolder d id c dir l s) : s.leg? ⟨id, dir⟩ = some l := by
  rw [State.leg?, holder.found]
  exact mem_lineLegs_iff.mp holder.line

theorem FailingHolder.elsewhere (holder : FailingHolder d id c dir l s) {x : Dir × LineLeg} (mem : x ∈ c.lineLegs) (other : x.1 ≠ dir) :
    Elsewhere d ⟨id, x.1⟩ s := fun y leg => by
  rw [State.leg?, holder.found] at leg
  obtain rfl := Option.some.inj ((mem_lineLegs_iff.mp mem).symm.trans leg)
  exact holder.others x mem other

/-- The holder's job fails: the other legs are handed over away from the degree, the holder's own is abandoned in between. -/
theorem FailingHolder.fails (holder : FailingHolder d id c dir l s) (able : c.phase.canFail = true) (tidy : P → Tidy d s) :
    let y := Unwinding f (some dir) c s
    ∃ x z : State, Far True P d y x ∧ Lowers y x ∧ Lowers x z ∧ handOver ⟨id, dir⟩ x = abandonLeg ⟨id, dir⟩ z
      ∧ (x.leg? ⟨id, dir⟩ = some l → z = endStep ⟨id, dir⟩ .none (withdraw ⟨id, dir⟩ x))
      ∧ (∃ l', z.leg? ⟨id, dir⟩ = some l' ∧ l'.egress = d) ∧ z.map = x.map ∧ z.actuators = x.actuators ∧ (z.arb d).token = (s.arb d).token
      ∧ Lowers (abandonLeg ⟨id, dir⟩ z) (failJob id f (some dir) none s)
      ∧ ∀ {M Q : Prop}, Away M Q d (abandonLeg ⟨id, dir⟩ z) (failJob id f (some dir) none s) := by
  have named := ctx?_id holder.found
  subst named
  intro y
  obtain ⟨pre, post, split, others⟩ := handAll_split holder.line y
  have elsewhere (x) (either : x ∈ pre ∨ x ∈ post) : Elsewhere d ⟨c.id, x.1⟩ y := fun w leg =>
    holder.elsewhere (others x either).1 (others x either).2 w (by rwa [unwinding_leg?] at leg)
  have faulted : (y.act d).faulted = true := by rw [unwinding_act, holder.faulted]
  have leg_y : y.leg? ⟨c.id, dir⟩ = some l := by rw [unwinding_leg?, holder.leg?]
  have tidy' (p : P) : Tidy d y := fun e other q mem w leg => tidy p e other q (by rwa [unwinding_arb] at mem) w (by rwa [unwinding_leg?] at leg)
  have far := handOver_foldl_away (M := True) (P := P) c.id pre y (fun x mem => elsewhere x (.inl mem)) faulted tidy'
  generalize x_eq : pre.foldl (fun s x => handOver ⟨c.id, x.1⟩ s) y = x at far split
  have lowers : Lowers y x := x_eq ▸ handOver_foldl_lowers c.id pre y
  have idle : (x.act d).flight = none := by rw [(far.keeps trivial).1, unwinding_act, holder.idle]
  have arb : (x.arb d).token = (s.arb d).token := by rw [far.arb, unwinding_arb]
  have rest (z) (z_lowers : Lowers x z) (same : handOver ⟨c.id, dir⟩ x = abandonLeg ⟨c.id, dir⟩ z) {M Q : Prop} :
      Away M Q d (abandonLeg ⟨c.id, dir⟩ z) (failJob c.id f (some dir) none s) := by
    rw [failJob_unwinding holder.found able, split, same]
    refine (handOver_foldl_away c.id post _ fun w mem => ?_).trans (checkEnded_away _ _)
    exact Lowers.elsewhere (lowers.trans (z_lowers.trans (abandonLeg_lowers ..))) (elsewhere w (.inr mem))
  have after (z) (same : handOver ⟨c.id, dir⟩ x = abandonLeg ⟨c.id, dir⟩ z) : Lowers (abandonLeg ⟨c.id, dir⟩ z) (failJob c.id f (some dir) none s) := by
    rw [failJob_unwinding holder.found able, split, same]
    exact (handOver_foldl_lowers c.id post _).trans (checkEnded_lowers ..)
  rcases (far.keeps trivial).2 _ l leg_y holder.here (by rw [holder.state]; nofun) with same | queued
  · have handed := handOver_stepping same holder.here far.faulted idle holder.state
    have z_lowers := (withdraw_lowers ⟨c.id, dir⟩ x).trans (endStep_lowers ⟨c.id, dir⟩ .none _)
    exact ⟨x, _, far, lowers, z_lowers, handed, fun _ => rfl, ⟨_, leg?_modLeg_same (s := withdraw ⟨c.id, dir⟩ x) same, (endStep_egress ..).trans holder.here⟩,
      rfl, rfl, arb, after _ handed, rest _ z_lowers handed⟩
  · have handed := handOver_queued queued holder.here far.faulted rfl
    have z_lowers : Lowers x (Stopped ⟨c.id, dir⟩ l.requeued x) :=
      (modArb_lowers ..).trans ((Lowers.leg LineLeg.stopWaiting _).trans (unordered_lowers ..))
    refine ⟨x, _, far, lowers, z_lowers, handed, fun same => ?_, ⟨_, stopped_leg? queued, holder.here⟩, rfl, rfl, ?_, after _ handed, rest _ z_lowers handed⟩
    · rw [same] at queued
      have := congrArg LineLeg.state (Option.some.inj queued)
      rw [holder.state] at this
      cases this
    · show ((modArb l.requeued.egress _ x).arb d).token = _
      rw [modArb_arb]
      split
      · next here => rw [← here]; exact arb
      · exact arb
end

/-! ### The fault taken (R111, R129, R143) -/

theorem foldl_abandonLeg_ports (rs : List LegRef) (s : State) (q : Port) :
    ((rs.foldl (fun x r => abandonLeg r x) s).port q).up = (s.port q).up ∧ (s.port q).tx <+: ((rs.foldl (fun x r => abandonLeg r x) s).port q).tx := by
  induction rs generalizing s with
  | nil => exact ⟨rfl, List.prefix_rfl⟩
  | cons r rs ih =>
    obtain ⟨up, frames⟩ := ih (abandonLeg r s)
    obtain ⟨up', frames'⟩ := (OneJob.abandonLeg r s).ports q
    exact ⟨up.trans up', frames'.trans frames⟩

/-- The state with the degree's actuator in FAULT and no command in flight. -/
def Broken (d : Degree) (s : State) : State :=
  { s with actuators := s.actuators.set d { s.act d with faulted := true, flight := none } }

theorem broken_act (d : Degree) (s : State) : (Broken d s).act d = { s.act d with faulted := true, flight := none } := PerDegree.get_set_self ..

/-- What every act that ends a fault's taking announces and settles. -/
def FaultTaken (d : Degree) (s : State) : State := settleAct (announce .actuator (some d) 1 s)

theorem exec_actuatorTimeout {f : ActuatorFlight} (flying : (s.act d).flight = some f) (out : f.timer = 0) :
    exec (.actuatorTimeout d) s = .next (FaultTaken d (arbiterFault d (Broken d s))) := by
  show Host.Outcome.next (actuatorTimeout d s) = _
  simp only [actuatorTimeout, flying, out, ne_eq, not_true_eq_false, if_false]
  rfl

theorem arbiterFault_held {k : Token} (token : (s.arb d).token = some k) : arbiterFault d (Broken d s) =
    (s.arb d).down.foldl (fun x r => abandonLeg r x) (faultHolder k.leg (Broken d s)) := by
  have token' : ((Broken d s).arb d).token = some k := token
  simp only [arbiterFault, token']
  rfl

theorem faultHolder_fails (found : s.ctx? r.job = some c) (able : c.phase.canFail = true) :
    faultHolder r s = failJob r.job (localFailure .actuator .none s) (some r.dir) none (endStep r .none s) := by
  rw [faultHolder, onCtx_of_ctx found]
  exact if_pos able

theorem faultHolder_goes_on (found : s.ctx? r.job = some c) (able : c.phase.canFail = false) :
    faultHolder r s = abandonLeg r (endStep r .none s) := by
  rw [faultHolder, onCtx_of_ctx found]
  simp only [able, Bool.false_eq_true, if_false]

theorem announce_away (k : EventKind) (o : Option Degree) (code : Nat) (s : State) : Away M P d s (announce k o code s) := .quiet_map

theorem faultTaken_away (s : State) : Away P P d s (FaultTaken d s) := (announce_away .actuator (some d) 1 s).trans (settleAct_away _)

theorem faultTaken_lowers (d : Degree) (s : State) : Lowers s (FaultTaken d s) :=
  (Lowers.quiet (t := announce .actuator (some d) 1 s)).trans (settleAct_lowers _)

section
variable {dir : Dir} (found : s.ctx? c.id = some c) (at_dir : c.leg? dir = some (.line l)) (here : l.egress = d) (state : l.state = .stepping)
  (others : ∀ x, x ∈ c.lineLegs → x.1 ≠ dir → x.2.egress ≠ d)
include found at_dir here state others

/-- The holder of the degree, its step ended, once the actuator is in FAULT. -/
theorem failingHolder_of_broken : FailingHolder d c.id (c.mapLine dir (LineLeg.endStep .none)) dir (LineLeg.endStep .none l)
    (endStep ⟨c.id, dir⟩ .none (Broken d s)) := by
  have line : c.line? dir = some l := by rw [Context.line?, at_dir]; rfl
  refine ⟨?_, ?_, ?_, ?_, (endStep_egress ..).trans here, (endStep_state ..).trans state, fun x mem other => ?_⟩
  · show ((Broken d s).act d).faulted = true
    rw [broken_act]
  · show ((Broken d s).act d).flight = none
    rw [broken_act]
  · exact modLeg_found (r := ⟨c.id, dir⟩) (s := Broken d s) (LineLeg.endStep .none) found
  · exact mem_lineLegs_iff.mpr (by rw [line?_mapLine, if_pos rfl, line]; rfl)
  · have at_x := mem_lineLegs_iff.mp mem
    rw [line?_mapLine, if_neg other] at at_x
    exact others x (mem_lineLegs_iff.mpr at_x) other

omit found here state others in
/-- The failing job's own fields, as its line leg's fault sets them. -/
theorem failing_fields {f : Failure} : let b := Context.failing f (some dir) (c.mapLine dir (LineLeg.endStep .none))
    b.phase = .failing ∧ b.failure = some f ∧ b.failLeg = some dir ∧ b.failSteps = newestFour (LineLeg.endStep .none l).history := by
  have line : c.line? dir = some l := by rw [Context.line?, at_dir]; rfl
  refine ⟨rfl, rfl, rfl, ?_⟩
  simp [Context.failing, Context.copied, line?_mapLine, line, newestFour, Config.maxPreceding]

omit found here state others in
theorem holder_line : c.line? dir = some l := by rw [Context.line?, at_dir]; rfl

/-- What the fault leaves once a holder before LIVE has failed and the legs of the DOWN class are abandoned. -/
theorem arbiterFault_fails {cls : StepClass} (token : (s.arb d).token = some ⟨⟨c.id, dir⟩, cls⟩) (able : c.phase.canFail = true) :
    FaultedFree d (arbiterFault d (Broken d s))
      ∧ Lowers (Unwinding (localFailure .actuator .none (Broken d s)) (some dir) (c.mapLine dir (LineLeg.endStep .none)) (endStep ⟨c.id, dir⟩ .none (Broken d s)))
          (arbiterFault d (Broken d s))
      ∧ (∀ k, c.first ≤ k → k < c.first + c.count → s.entry d .outgoing k = some (.lit c.id) →
          (arbiterFault d (Broken d s)).entry d .outgoing k = some (.blocked .abandoned))
      ∧ ∀ q, ((arbiterFault d (Broken d s)).port q).up = (s.port q).up ∧ (s.port q).tx <+: ((arbiterFault d (Broken d s)).port q).tx := by
  have able1 : (c.mapLine dir (LineLeg.endStep .none)).phase.canFail = true := by rw [Context.phase_mapLine, able]
  have holder := failingHolder_of_broken found at_dir here state others
  rw [arbiterFault_held token, faultHolder_fails (r := ⟨c.id, dir⟩) (s := Broken d s) found able]
  generalize localFailure .actuator .none (Broken d s) = f
  obtain ⟨x, z, far, lowers, z_lowers, handed, -, ⟨l', leg_z, here_z⟩, map, actuators, token_z, after, away⟩ :=
    holder.fails (f := f) (P := False) able1 False.elim
  obtain ⟨b, found_z, -⟩ := ctx?_of_leg? leg_z
  obtain ⟨faulted, free, blocked⟩ := abandonLeg_frees found_z leg_z here_z (by rw [State.act, actuators]; exact far.faulted) fun k held => by
    rw [token_z] at held
    exact congrArg Token.leg (Option.some.inj (held.symm.trans token))
  have falls (u : State) : Lowers u ((s.arb d).down.foldl (fun x r => abandonLeg r x) u) := Lowers.foldl (fun _ r => abandonLeg_lowers r _) _ _
  refine ⟨FaultedFree.foldl (FaultedFree.away ⟨faulted, free⟩ away) _,
    lowers.trans (z_lowers.trans ((abandonLeg_lowers ..).trans (after.trans (falls _)))), fun k low high lit => ?_, fun q => ?_⟩
  · obtain ⟨a, found_a, -, fixed⟩ := Lowers.ctx (lowers.trans z_lowers) found_z
    rw [unwinding_ctx?, holder.found, Option.map_some, if_pos rfl, Option.some.injEq] at found_a
    subst found_a
    obtain ⟨id_eq, -, -, first, count, -, -⟩ := Context.fixed_fields fixed
    have first' : c.first = b.first := (Context.first_mapLine dir (LineLeg.endStep .none) c).symm.trans first
    have count' : c.count = b.count := (Context.count_mapLine dir (LineLeg.endStep .none) c).symm.trans count
    have named : c.id = b.id := (mapLine_id dir (LineLeg.endStep .none) c).symm.trans id_eq
    refine Lowers.blocked_stays (after.trans (falls _)) (blocked k (.lit c.id) (first' ▸ low) (first' ▸ count' ▸ high) (.inl (by rw [named])) ?_)
    rw [State.entry, map]
    refine far.entries trivial ⟨c.id, dir⟩ _ k _ ((unwinding_leg? ..).trans holder.leg?) holder.here (by rw [holder.state]; nofun) (.inl rfl) ?_
    rw [unwinding_entry]
    exact lit
  · obtain ⟨up, frames⟩ := foldl_abandonLeg_ports (s.arb d).down (failJob c.id f (some dir) none (endStep ⟨c.id, dir⟩ .none (Broken d s))) q
    obtain ⟨up', frames'⟩ := (failJob_jobs (f := f) (leg := some dir) (arrival := none) holder.found able1).ports q
    exact ⟨up.trans up', frames'.trans frames⟩

omit found at_dir here state others in
theorem faultTaken_jobInv (inv : JobInv s) : JobInv (FaultTaken d (arbiterFault d (Broken d s))) :=
  have broken : JobInv (Broken d s) := inv
  (Edits.settleAct (g := 2) (.announce (.arbiterFault .none))).jobInv broken

/-- The job of a holder before LIVE fails, and the holder's leg is abandoned (R87, R111, R129). -/
theorem timeout_fails_holder {cls : StepClass} (inv : JobInv s)
    (token : (s.arb d).token = some ⟨⟨c.id, dir⟩, cls⟩) (early : BeforeLive c) : let t := FaultTaken d (arbiterFault d (Broken d s))
    (t.act d).faulted = true ∧ (t.arb d).token = none
      ∧ (∀ b, b ∈ t.jobs → b.id = c.id → b.phase = .failing ∧ b.failure = some ⟨.actuator, 0#8, s.node.nodeId⟩
          ∧ b.failLeg = some dir ∧ b.failSteps = newestFour (LineLeg.endStep .none l).history)
      ∧ (∀ k, c.first ≤ k → k < c.first + c.count → s.entry d .outgoing k = some (.lit c.id) →
          t.entry d .outgoing k = some (.blocked .abandoned))
      ∧ (∀ q, ∃ u : SlotLink, t.port q = takeNotice (.degreeEvent .actuator (some d) 1 s.time) u ∧ u.up = (s.port q).up
          ∧ (s.port q).tx <+: u.tx) := by
  intro t
  obtain ⟨free, lowers, blocked, ports⟩ := arbiterFault_fails found at_dir here state others token ((canFail_iff c).mpr early)
  have holder := failingHolder_of_broken found at_dir here state others
  have ended := free.away (faultTaken_away _)
  have lowers_t : Lowers _ t := lowers.trans (faultTaken_lowers ..)
  refine ⟨ended.1, ended.2, fun b mem named => ?_, fun k low high lit => (faultTaken_lowers d _).blocked_stays (blocked k low high lit), fun q => ?_⟩
  · have inv_t : JobInv t := faultTaken_jobInv inv
    obtain ⟨a, found_a, outer, -⟩ := Lowers.ctx lowers_t (named ▸ ctx?_of_mem inv_t mem)
    rw [unwinding_ctx?, holder.found, Option.map_some, if_pos rfl, Option.some.injEq] at found_a
    subst found_a
    obtain ⟨phase, failure, -, -, -, -, failLeg, failSteps⟩ := outer_eq_iff_fields outer
    obtain ⟨phase', failure', failLeg', failSteps'⟩ := failing_fields at_dir (f := localFailure .actuator .none (Broken d s))
    exact ⟨phase.symm.trans phase', failure.symm.trans failure', failLeg.symm.trans failLeg', failSteps.symm.trans failSteps'⟩
  · refine ⟨(arbiterFault d (Broken d s)).port q, ?_, ports q⟩
    have time : (arbiterFault d (Broken d s)).time = s.time :=
      (Edits.arbiterFault (g := 0) (Edits.none (s := Broken d s))).onlyAddsFrames.params.2.2.2.1
    rw [show t.port q = _ from (settleAct_untold _).port q, announce_port, time]
end

/-! ### The faulted degree in a state whose units agree -/

theorem Leg.ends_line (leg : Leg) {y : LineLeg} (line : leg.line? = some y) : leg.ends = (y.ingress, .line y.egress) := by
  cases leg with
  | line l => obtain rfl := Option.some.inj line; rfl
  | drop e => cases line

/-- A job has one line leg at most that egresses at a degree (R41). -/
theorem Context.Shaped.egress_inj (shaped : c.Shaped) {a b : Dir} {x y : LineLeg} (line_a : c.line? a = some x) (line_b : c.line? b = some y)
    (same : x.egress = y.egress) : a = b := by
  have two {x y : LineLeg} (fwd : c.line? .fwd = some x) (rev : c.line? .rev = some y) : x.egress ≠ y.egress := by
    obtain ⟨leg, at_rev, line⟩ := Option.bind_eq_some_iff.mp rev
    have at_rev : c.rev = some leg := at_rev
    have ends_x := Leg.ends_line c.fwd fwd
    have ends_y := Leg.ends_line leg line
    unfold Context.Shaped at shaped
    rw [ends_x, at_rev, Option.map_some, ends_y] at shaped
    cases place : c.place <;> simp only [place] at shaped <;> cases bidir : c.bidir <;> simp_all
    exact Ne.symm shaped.1
  cases a <;> cases b
  · rfl
  · exact absurd same (two line_a line_b)
  · exact absurd same.symm (two line_b line_a)
  · rfl

theorem Agreed.one_leg (agreed : Agreed s) {x y : LineLeg} (leg_q : s.leg? q = some x) (leg_r : s.leg? r = some y) (job : q.job = r.job)
    (same : x.egress = y.egress) : q = r := by
  obtain ⟨c, found, line⟩ := ctx?_of_leg? leg_q
  obtain ⟨c', found', line'⟩ := ctx?_of_leg? leg_r
  obtain rfl := Option.some.inj (found.symm.trans (job ▸ found'))
  obtain ⟨j, a⟩ := q
  obtain ⟨k, b⟩ := r
  obtain rfl : j = k := job
  obtain rfl := Context.Shaped.egress_inj (agreed.shapes c (List.mem_of_find?_eq_some found)) line line' same
  rfl

theorem leg?_of_line? {dir : Dir} (line : c.line? dir = some l) : c.leg? dir = some (.line l) := by
  obtain ⟨leg, at_dir, line'⟩ := Option.bind_eq_some_iff.mp line
  cases leg with
  | line y => obtain rfl := Option.some.inj line'; exact at_dir
  | drop e => cases line'

/-- The state the fault of degree `d` is taken in, its holder's step ended: what it has of the state before. -/
structure FaultBase (d : Degree) (h : LegRef) (s x : State) : Prop where
  arb     : ∀ e, x.arb e = s.arb e
  act     : x.act d = (Broken d s).act d
  legs    : ∀ q, x.leg? q = (s.leg? q).map (fun y => if q = h then LineLeg.endStep .none y else y)
  entries : ∀ k, x.entry d .outgoing k = s.entry d .outgoing k
  jobs    : ∀ j c, s.ctx? j = some c → ∃ a, x.ctx? j = some a ∧ a.first = c.first ∧ a.count = c.count
              ∧ ((c.phase = .teardown ∨ c.phase = .failing) → a.phase = c.phase ∧ a.failure = c.failure)

theorem FaultBase.leg (base : FaultBase d r s t) {x : LineLeg} (leg : s.leg? q = some x) : ∃ y, t.leg? q = some y ∧ y.egress = x.egress ∧ y.state = x.state := by
  rw [base.legs, leg]
  refine ⟨_, rfl, ?_⟩
  split
  · exact ⟨endStep_egress .., endStep_state ..⟩
  · exact ⟨rfl, rfl⟩

theorem FaultBase.back (base : FaultBase d r s t) {y : LineLeg} (leg : t.leg? q = some y) : ∃ x, s.leg? q = some x ∧ x.egress = y.egress := by
  rw [base.legs, Option.map_eq_some_iff] at leg
  obtain ⟨x, leg', rfl⟩ := leg
  refine ⟨x, leg', ?_⟩
  split
  · exact (endStep_egress ..).symm
  · rfl

section
variable {f : ActuatorFlight} (agreed : Agreed s) (flying : (s.act d).flight = some f)
include agreed flying

/-- The holder of a command in flight. -/
theorem Agreed.commander : ∃ c l st, s.ctx? f.leg.job = some c ∧ c.line? f.leg.dir = some l ∧ l.egress = d ∧ l.step = some st
    ∧ (s.arb d).token = some ⟨f.leg, st.cls⟩ ∧ l.state = (if st.cls = .down then .rampingDown else .stepping)
    ∧ (c.phase.canFail = true → l.state = .stepping) := by
  obtain ⟨l', leg', egress⟩ := (agreed.arbiters d).names f.leg (by simp [flying])
  obtain ⟨l, st, leg, step, stage⟩ := (agreed.arbiters d).flown f flying
  obtain rfl := Option.some.inj (leg.symm.trans leg')
  obtain ⟨c, found, mem, mem_line, agrees⟩ := agreed.leg leg
  obtain ⟨fits, token, state, -⟩ := agrees.holder st step
  refine ⟨c, l, st, found, mem_lineLegs_iff.mp mem_line, egress, step, egress ▸ token, state, fun able => ?_⟩
  rw [state, if_neg]
  intro down
  obtain ⟨-, closing | ⟨failing, -⟩⟩ := agreed.lowering found (mem_lineLegs_iff.mp mem_line) step (fits.1.mp down)
  · rw [closing] at able; cases able
  · rw [failing] at able; cases able

theorem FaultBase.poised (base : FaultBase d f.leg s t) : Poised d f.leg t := by
  obtain ⟨c, l, st, found, line, here, step, token, state, -⟩ := agreed.commander flying
  have leg_h : s.leg? f.leg = some l := by rw [State.leg?, found]; exact line
  obtain ⟨b, -, -, -, agrees_h⟩ := agreed.leg leg_h
  have moving : l.state = .stepping ∨ l.state = .rampingDown := by rw [state]; split <;> simp
  have names (r) (mem : r ∈ (s.arb d).down ∨ r ∈ (s.arb d).up.map (·.leg) ∨ r ∈ (s.arb d).wait.map (·.leg)) : ∃ x, s.leg? r = some x ∧ x.egress = d :=
    (agreed.arbiters d).names r (by simp only [List.mem_append]; tauto)
  have once := (agreed.arbiters d).once
  rw [List.append_assoc, List.append_assoc, List.nodup_append, List.nodup_append, List.nodup_append] at once
  obtain ⟨down_nodup, ⟨-, ⟨wait_nodup, -, -⟩, -⟩, down_apart⟩ := once
  have not_down : f.leg ∉ (s.arb d).down := fun mem => by
    have := (agrees_h.down.mpr (here ▸ mem)).2
    rw [step] at this
    cases this
  have not_up : f.leg ∉ (s.arb d).up.map (·.leg) := fun mem => by
    have := agrees_h.up.mpr (here ▸ mem)
    rcases moving with h | h <;> rw [h] at this <;> cases this
  have not_wait : f.leg ∉ (s.arb d).wait.map (·.leg) := fun mem => by
    have := agrees_h.wait.mpr (here ▸ mem)
    rcases moving with h | h <;> rw [h] at this <;> cases this
  have there (r) (mem : r ∈ f.leg :: ((s.arb d).down ++ (s.arb d).wait.map (·.leg))) : ∃ x, s.leg? r = some x ∧ x.egress = d ∧ x.state ≠ .off := by
    rcases List.mem_cons.mp mem with rfl | mem
    · exact ⟨l, leg_h, here, by rcases moving with h | h <;> rw [h] <;> nofun⟩
    · rcases List.mem_append.mp mem with down | wait
      · obtain ⟨x, leg, egress⟩ := names r (.inl down)
        obtain ⟨b, -, -, -, agrees⟩ := agreed.leg leg
        exact ⟨x, leg, egress, by rw [(agrees.down.mpr (egress ▸ down)).1]; nofun⟩
      · obtain ⟨x, leg, egress⟩ := names r (.inr (.inr wait))
        obtain ⟨b, -, -, -, agrees⟩ := agreed.leg leg
        exact ⟨x, leg, egress, by rw [agrees.wait.mpr (egress ▸ wait)]; nofun⟩
  refine ⟨?_, ?_, fun e other r mem y leg => ?_, fun k held => ?_, fun r mem => ?_, ?_, fun r mem x up => ?_⟩
  · rw [base.act, broken_act]
  · rw [base.act, broken_act]
  · rw [base.arb] at mem
    obtain ⟨x, leg', same⟩ := base.back leg
    have listed : r ∈ ((s.arb e).token.toList.map (·.leg)) ++ (s.arb e).down ++ (s.arb e).up.map (·.leg) ++ (s.arb e).wait.map (·.leg) ++ (s.arb e).backoff := by
      simp only [Arbiter.listed, List.mem_append] at mem ⊢
      tauto
    rw [← same, agreed.egress leg' listed]
    exact other
  · rw [base.arb, token] at held
    exact (congrArg Token.leg (Option.some.inj held)).symm
  · rw [base.arb] at mem
    obtain ⟨x, leg, egress, lit⟩ := there r mem
    obtain ⟨y, leg', egress', state'⟩ := base.leg leg
    exact ⟨y, leg', egress'.trans egress, state' ▸ lit⟩
  · rw [base.arb]
    refine List.Nodup.map_on (fun q mem_q r mem_r same => ?_) ?_
    · obtain ⟨x, leg_x, here_x, -⟩ := there q mem_q
      obtain ⟨y, leg_y, here_y, -⟩ := there r mem_r
      exact agreed.one_leg leg_x leg_y same (here_x.trans here_y.symm)
    · refine List.nodup_cons.mpr ⟨?_, List.nodup_append.mpr ⟨down_nodup, wait_nodup, fun a mem b mem' => down_apart a mem b ?_⟩⟩
      · rw [List.mem_append]
        exact not_or.mpr ⟨not_down, not_wait⟩
      · simp only [List.mem_append]
        exact .inr (.inl mem')
  · rw [base.arb] at mem up
    intro same
    rcases List.mem_cons.mp mem with rfl | down
    · exact not_up (same ▸ List.mem_map_of_mem up)
    · exact down_apart r down r (by simp only [List.mem_append]; exact .inl (same ▸ List.mem_map_of_mem up)) rfl

omit agreed flying in
theorem endStep_base (h : LegRef) : FaultBase d h s (endStep h .none (Broken d s)) := by
  refine ⟨fun _ => rfl, rfl, fun q => ?_, fun _ => rfl, fun j c found => ?_⟩
  · rw [endStep, leg?_modLeg]
    show (if q = h then (s.leg? q).map _ else s.leg? q) = _
    by_cases own : q = h
    · simp [own]
    · cases s.leg? q <;> simp [own]
  · obtain ⟨b, found_b, outer⟩ := modLeg_ctx? (s := Broken d s) h (LineLeg.endStep .none) found
    exact ⟨b, found_b, (show b.outer.first = c.outer.first from congrArg Context.first outer),
      (show b.outer.count = c.outer.count from congrArg Context.count outer), fun _ => ⟨(outer_eq_iff_fields outer).1, (outer_eq_iff_fields outer).2.1⟩⟩

omit agreed flying in
theorem unwinding_base {h : LegRef} {c c1 : Context} {w : Failure} {dir? : Option Dir} (base : FaultBase d h s t) (named : c1.id = c.id)
    (found : s.ctx? c.id = some c) (able : c.phase.canFail = true) : FaultBase d h s (Unwinding w dir? c1 t) := by
  refine ⟨fun e => (unwinding_arb ..).trans (base.arb e), (unwinding_act ..).trans base.act, fun q => (unwinding_leg? ..).trans (base.legs q),
    fun k => (unwinding_entry ..).trans (base.entries k), fun j b found_b => ?_⟩
  obtain ⟨a, found_a, first, count, fields⟩ := base.jobs j b found_b
  rw [unwinding_ctx?, found_a]
  refine ⟨_, rfl, ?_⟩
  dsimp only
  split
  · next own =>
    refine ⟨first, count, fun late => ?_⟩
    obtain rfl : j = c.id := (ctx?_id found_a).symm.trans (own.trans named)
    obtain rfl := Option.some.inj (found.symm.trans found_b)
    rcases late with late | late <;> rw [late] at able <;> cases able
  · exact ⟨first, count, fields⟩

/-- What the fault's taking leaves: the state it is taken in, and the degree with every leg of it abandoned. -/
theorem Agreed.faultTaken : ∃ x, FaultBase d f.leg s x ∧ Lowers x (FaultTaken d (arbiterFault d (Broken d s)))
    ∧ Standing d (f.leg :: (s.arb d).down) [] x (FaultTaken d (arbiterFault d (Broken d s))) := by
  obtain ⟨c, l, st, found, line, here, step, token, state, stepping⟩ := agreed.commander flying
  have leg_h : s.leg? f.leg = some l := by rw [State.leg?, found]; exact line
  suffices ∃ x, FaultBase d f.leg s x ∧ Lowers x (faultHolder f.leg (Broken d s))
      ∧ Standing d [f.leg] (s.arb d).down x (faultHolder f.leg (Broken d s)) by
    obtain ⟨x, base, lowers, standing⟩ := this
    have poised := base.poised agreed flying
    have jobs := poised.jobs
    rw [base.arb, List.map_cons, List.nodup_cons, List.map_append, List.nodup_append] at jobs
    obtain ⟨fresh, nodup, -⟩ := jobs
    have falls : Lowers x ((s.arb d).down.foldl (fun x r => abandonLeg r x) (faultHolder f.leg (Broken d s))) :=
      lowers.trans (Lowers.foldl (fun _ r => abandonLeg_lowers r _) _ _)
    have all := standing.foldl poised (s.arb d).down (by rw [base.arb]; exact fun _ mem => mem) nodup.of_map
      (fun r mem same => fresh (List.mem_append_left _ (List.mem_map_of_mem ((show r = f.leg from List.mem_singleton.mp same) ▸ mem)))) lowers
    rw [arbiterFault_held token]
    exact ⟨x, base, falls.trans (faultTaken_lowers ..), all.away poised (List.nil_subset _) (faultTaken_away _) (faultTaken_lowers ..)⟩
  cases able : c.phase.canFail with
  | false =>
    rw [faultHolder_goes_on (s := Broken d s) found able]
    have base : FaultBase d f.leg s (endStep f.leg .none (Broken d s)) := endStep_base f.leg
    obtain ⟨y, leg_y, egress, -⟩ := base.leg leg_h
    have poised := base.poised agreed flying
    have standing := poised.holder poised.tidy rfl rfl (fun _ _ _ leg _ _ => leg) leg_y (egress.trans here)
      (fun a b found_a found_b => by rw [Option.some.inj (found_a.symm.trans found_b)]; exact ⟨rfl, rfl⟩) (fun _ _ _ _ _ at_k => at_k)
    rw [base.arb] at standing
    exact ⟨_, base, abandonLeg_lowers .., standing⟩
  | true =>
    rw [faultHolder_fails (s := Broken d s) found able]
    have named := ctx?_id found
    have holder : FailingHolder d f.leg.job (c.mapLine f.leg.dir (LineLeg.endStep .none)) f.leg.dir (LineLeg.endStep .none l) (endStep f.leg .none (Broken d s)) := by
      have others (x) (mem : x ∈ c.lineLegs) (other : x.1 ≠ f.leg.dir) : x.2.egress ≠ d := fun same =>
        other ((agreed.shapes c (List.mem_of_find?_eq_some found)).egress_inj (mem_lineLegs_iff.mp mem) line (same.trans here.symm))
      have holder := failingHolder_of_broken (named ▸ found) (leg?_of_line? line) here (stepping able) others
      rwa [named] at holder
    have able1 : (c.mapLine f.leg.dir (LineLeg.endStep .none)).phase.canFail = true := by rw [Context.phase_mapLine, able]
    have ended : FaultBase d f.leg s (endStep f.leg .none (Broken d s)) := endStep_base f.leg
    have base := unwinding_base (w := localFailure .actuator .none (Broken d s)) (dir? := some f.leg.dir) ended (mapLine_id f.leg.dir (LineLeg.endStep .none) c)
      (named ▸ found) able
    have poised := base.poised agreed flying
    have tidy1 := (ended.poised agreed flying).tidy
    obtain ⟨x, z, far, lowers, z_lowers, handed, same_z, -, map, actuators, token_z, after, away⟩ :=
      holder.fails (f := localFailure .actuator .none (Broken d s)) (P := True) able1 fun _ => tidy1
    obtain ⟨tidy, act, legs⟩ := far.tidy trivial
    have leg_x : x.leg? f.leg = some (LineLeg.endStep .none l) :=
      (legs f.leg).2 _ ((unwinding_leg? ..).trans holder.leg?) holder.here (by rw [holder.state]; nofun)
    obtain rfl := same_z leg_x
    have standing := poised.holder (t := endStep f.leg .none (withdraw f.leg x)) (l := LineLeg.endStep .none (LineLeg.endStep .none l)) ?tidy act far.arb
      (fun q y other leg here lit => (leg?_modLeg_other other).trans ((legs q).2 y leg here lit)) (leg?_modLeg_same (s := withdraw f.leg x) leg_x)
      ((endStep_egress ..).trans holder.here) ?jobs ?entries
    case tidy => exact fun e other r mem => Lowers.elsewhere z_lowers (tidy e other r mem)
    case jobs =>
      intro a b found_a found_b
      obtain ⟨a', found_a', -, fixed⟩ := Lowers.ctx (lowers.trans z_lowers) found_a
      obtain rfl := Option.some.inj (found_a'.symm.trans found_b)
      obtain ⟨-, -, -, first, count, -, -⟩ := Context.fixed_fields fixed
      exact ⟨first.symm, count.symm⟩
    case entries =>
      intro r mem k e shines at_k
      obtain ⟨y, leg, here, lit⟩ := poised.legs r (by
        rcases List.mem_cons.mp mem with rfl | down
        · exact List.mem_cons_self
        · exact List.mem_cons_of_mem _ (List.mem_append_left _ down))
      exact far.entries trivial r y k e leg here lit shines at_k
    rw [base.arb] at standing
    exact ⟨_, base, lowers.trans (z_lowers.trans ((abandonLeg_lowers ..).trans after)), standing.away poised (by rw [base.arb]; exact fun _ mem => mem) away after⟩
end

/-- Settles O57. -/
theorem actuatorTimeoutAbandonsTheLegs : Obligations.ActuatorTimeoutAbandonsTheLegs := by
  unfold Obligations.ActuatorTimeoutAbandonsTheLegs
  refine fun d s => ⟨fun idle => ?_, fun f flying running => ?_, fun f c l dir cls flying out inv token found early at_dir here state others => ?_,
    fun f flying out sound agreed => ?_⟩
  · show Host.Outcome.next (actuatorTimeout d s) = _
    simp only [actuatorTimeout, idle]
  · show Host.Outcome.next (actuatorTimeout d s) = _
    simp only [actuatorTimeout, flying, if_pos running]
  · exact ⟨_, exec_actuatorTimeout flying out, timeout_fails_holder found at_dir here state others inv token early⟩
  · obtain ⟨x, base, lowers, standing⟩ := agreed.faultTaken flying
    obtain ⟨b, k, st, -, -, -, -, token, -⟩ := agreed.commander flying
    have inv_t : JobInv (FaultTaken d (arbiterFault d (Broken d s))) := faultTaken_jobInv sound.jobs
    refine ⟨_, exec_actuatorTimeout flying out, ?_, ?_, standing.token, standing.down, standing.wait, ?_, fun e mem y leg => ?_,
      fun r mem c found => ⟨fun l leg => ?_, fun k e low high at_k shines => ?_, fun late a mem_a named => ?_⟩⟩
    · rw [arbiterFault_held token]
      rfl
    · rw [standing.act, base.act, broken_act]
    · rw [standing.up, base.arb]
    · have other : e.leg ≠ f.leg := fun same => (base.poised agreed flying).not_waiting (r := f.leg) (by simp) (by
        rw [base.arb, ← same]
        exact List.mem_map_of_mem mem)
      exact standing.queued e (by rw [base.arb]; exact mem) y (by rw [base.legs, leg]; simp [other])
    · obtain ⟨-, off⟩ := standing.off r mem l leg
      exact off
    · obtain ⟨a, found_a, first, count, -⟩ := base.jobs r.job c found
      have same : a.id = c.id := (ctx?_id found_a).trans (ctx?_id found).symm
      exact standing.blocked r mem a found_a k e (by omega) (by omega) (by rwa [same]) (by rw [base.entries]; exact at_k)
    · obtain ⟨a', found_a', outer, -⟩ := Lowers.ctx lowers (ctx?_of_mem inv_t mem_a)
      obtain ⟨y, found_y, -, -, fields⟩ := base.jobs r.job c found
      rw [named, ctx?_id found] at found_a'
      obtain rfl := Option.some.inj (found_a'.symm.trans found_y)
      obtain ⟨phase, failure⟩ := fields late
      exact ⟨(outer_eq_iff_fields outer).1.symm.trans phase, (outer_eq_iff_fields outer).2.1.symm.trans failure⟩

end Sys2Proof.Machine
end

section
/-! PROOFS. The agreements are not kept by every step (R134, R137): a scan request that no step has asked for may stand in the queue. -/

namespace Sys2Proof.Machine

/-! ### A LIVE job whose leg has a request in the scan queue without a step

`LegAgrees` ties the scan queue to the legs that have a step, and `MonitorAgrees` asks of a request's leg only that it exist. So a request
may stand there for a leg that is AT_TARGET. CLOSE over a DOWN link starts that leg's ramp-down: its step is in ACTUATE and awaits no scan,
and the request stands as before. -/

def strayJob : JobId := ⟨1, 12⟩

def strayRef : LegRef := ⟨strayJob, .fwd⟩

def strayRequest : ScanRequest := ⟨.leg strayRef, .d2, .outgoing, 120, 4⟩

def strayLeg : LineLeg := { DarkLeg .bank .d2 452 (-1048) with level := .num 452, state := .atTarget, verified := some 452 }

def strayContext : Context :=
  { FreshContext strayJob (.head .d2) (some .p1) false 120 4 (-150) (some []) 0 (.line strayLeg) none with phase := .live, reached := true }

def strayRuns : List (Degree × MapDir) := [(.d2, .outgoing)]

/-- The state after reset with one LIVE job at its HEAD, the stray request of its leg last in the scan queue, and CLOSE waiting. -/
def strayState : State :=
  { State.reset with
    pending := [.closeJob .p1 0 strayJob]
    jobs := [strayContext]
    map := SpectrumMap.changeRuns (fun _ => .live strayJob) 120 4 strayRuns State.reset.map
    monitor := { State.reset.monitor with queue := State.reset.monitor.queue ++ [strayRequest] } }

theorem strayState_arb (d : Degree) : strayState.arb d = .initial := PerDegree.get_const ..

theorem strayState_act (d : Degree) : strayState.act d = .initial := PerDegree.get_const ..

theorem strayState_sound : Sound strayState :=
  { map := SpectrumMap.changeRuns_shaped (fun _ => .live strayJob) 120 4 strayRuns reset_sound.map
    jobs := ⟨show 1 ≤ 64 by decide, List.pairwise_singleton ..⟩
    legs := fun c hc => by
      obtain rfl := List.mem_singleton.mp hc
      exact ⟨(⟨Nat.zero_le _, Nat.zero_le _⟩ : strayLeg.Bounded), by simp [strayContext, FreshContext]⟩
    ports := reset_sound.ports
    links := reset_sound.links
    arbiters := reset_sound.arbiters
    devices := ⟨show 1 < 256 by decide, reset_sound.devices.2⟩
    results := reset_sound.results
    params := reset_sound.params
    seq := reset_sound.seq }

theorem strayState_leg : strayState.leg? strayRef = some strayLeg := rfl

theorem strayState_entry (d : Degree) (dir : MapDir) (k : Nat) : strayState.entry d dir k =
    if (d, dir) ∈ strayRuns ∧ 120 ≤ k ∧ k < 120 + 4 then some (.live strayJob) else State.reset.entry d dir k := by
  refine (SpectrumMap.changeRuns_runsChange (f := fun _ => .live strayJob) (fun _ => rfl) 120 4 strayRuns State.reset.map d dir k).trans ?_
  by_cases within : (d, dir) ∈ strayRuns ∧ 120 ≤ k ∧ k < 120 + 4
  · rw [if_pos within, if_pos within]
    have there := (reset_entry d dir k).trans (if_pos (by omega))
    rw [State.entry] at there
    rw [there]
    rfl
  · rw [if_neg within, if_neg within]
    rfl

theorem strayState_mapAgrees : MapAgrees strayState where
  runs c hc x hx run hrun k low high := by
    obtain rfl := List.mem_singleton.mp hc
    obtain rfl := List.mem_singleton.mp hx
    exact ⟨.live strayJob, (strayState_entry ..).trans (if_pos ⟨hrun, low, high⟩), rfl⟩
  names d dir k e j at_k named := by
    rw [strayState_entry] at at_k
    split at at_k
    next within =>
      obtain rfl := Option.some.inj at_k
      exact ⟨strayContext, List.mem_singleton_self _, Option.some.inj named, within⟩
    next =>
      rw [reset_entry] at at_k
      split at at_k
      · obtain rfl := Option.some.inj at_k
        cases named
      · cases at_k

theorem strayLeg_agrees : LegAgrees strayState .live strayRef strayLeg where
  level := by simp [LineLeg.LevelAgrees, strayLeg]
  timers := by simp [LineLeg.TimersAgree, strayLeg, DarkLeg]
  token := by simp [strayState_arb, Arbiter.initial, strayLeg, DarkLeg]
  holder := by simp [strayLeg, DarkLeg]
  up := by simp [strayState_arb, Arbiter.initial, strayLeg]
  wait := by simp [strayState_arb, Arbiter.initial, strayLeg]
  back := by simp [strayState_arb, Arbiter.initial, strayLeg]
  down := by simp [strayState_arb, Arbiter.initial, strayLeg]
  holds := by simp [strayLeg]
  frozen := by simp [strayState, State.reset, strayLeg]

theorem strayState_monitorAgrees : MonitorAgrees strayState where
  once := by decide
  bound := by decide
  names q hq := by
    rcases List.mem_append.mp hq with old | new
    · obtain ⟨no_probe, legs⟩ := reset_monitorAgrees.names q old
      exact ⟨no_probe, fun r of_leg => nomatch (legs r of_leg).symm.trans (show (State.reset.leg? r).isSome = false from rfl)⟩
    · obtain rfl := List.mem_singleton.mp new
      refine ⟨nofun, fun r of_leg => ?_⟩
      obtain rfl := Requester.leg.inj of_leg
      exact congrArg Option.isSome strayState_leg
  queued d := by cases d <;> decide
  flying := reset_monitorAgrees.flying
  stopped := reset_monitorAgrees.stopped
  flight f hf := by
    obtain rfl := Option.some.inj hf
    refine ⟨fun _ => ⟨by decide, nofun⟩, nofun, ⟨nofun, nofun⟩, ⟨nofun, nofun⟩⟩
  idle := nofun
  fault := nofun
  probe := reset_monitorAgrees.probe

theorem strayState_agreed : Agreed strayState where
  shapes c hc := by
    obtain rfl := List.mem_singleton.mp hc
    exact ⟨rfl, rfl, rfl⟩
  timers c hc := by
    obtain rfl := List.mem_singleton.mp hc
    simp [Context.TimersAgree, strayContext, FreshContext]
  phases c hc := by
    obtain rfl := List.mem_singleton.mp hc
    exact (rfl : strayContext.allAtTarget = true)
  legs c hc x hx := by
    obtain rfl := List.mem_singleton.mp hc
    obtain rfl := List.mem_singleton.mp hx
    exact strayLeg_agrees
  arbiters d :=
    { names := by simp [strayState_arb, strayState_act, Arbiter.initial, Actuator.initial]
      flown := by simp [strayState_act, Actuator.initial]
      once := by simp [strayState_arb, Arbiter.initial]
      faulted := by simp [strayState_act, Actuator.initial] }
  monitor := strayState_monitorAgrees
  frozen := ⟨.nil, nofun⟩
  map := strayState_mapAgrees

/-- The state CLOSE leaves. -/
def strayClosed : State :=
  match step strayState with
  | .next t => t
  | _ => strayState

theorem strayState_step : step strayState = .next strayClosed := rfl

theorem strayClosed_stage : ((strayClosed.leg? strayRef).bind (·.step)).map (·.stage) = some .actuate := by decide +kernel

theorem strayClosed_queue : .leg strayRef ∈ strayClosed.monitor.queue.map (·.requester) := by decide +kernel

/-- Refutes O6: in a sound state whose units agree, the scan queue may hold a request of a leg that has no step; CLOSE of its job over a
DOWN link starts a down-step of that leg, which is in ACTUATE and, by `LegAgrees`, may then have no request in the queue. -/
theorem not_everyStepKeepsAgreement : ¬ Obligations.EveryStepKeepsAgreement := by
  unfold Obligations.EveryStepKeepsAgreement
  intro kept
  have agreed := kept strayState strayClosed strayState_sound strayState_agreed strayState_step
  obtain ⟨st, has_step, stage⟩ := Option.map_eq_some_iff.mp strayClosed_stage
  obtain ⟨l, leg, has_step⟩ := Option.bind_eq_some_iff.mp has_step
  obtain ⟨c, -, -, -, agrees⟩ := agreed.leg leg
  obtain ⟨-, -, -, -, -, scans, -⟩ := agrees.holder st has_step
  obtain ⟨awaits, -⟩ := scans.mpr (.inl strayClosed_queue)
  rw [stage] at awaits
  exact absurd awaits (by decide)

end Sys2Proof.Machine
end
